-- ==== Sys2Proof/Word.lean ====
section
/-! DEFINITION. Word types of the machine (R9, R62, R74) and their plainest arithmetic. -/
namespace Sys2Proof

/-- One byte of memory. -/
abbrev Byte := BitVec 8
/-- A g register, a control register or a scalar doubleword (R74). -/
abbrev Word := BitVec 64
/-- A virtual address, as an address register holds it (R74, R89). -/
abbrev VAddr := BitVec 80
/-- A 32-bit grid cell or queue cell (R156, R207). -/
abbrev Cell := BitVec 32
/-- A mask register (R74). -/
abbrev Mask := BitVec 256

/-- Field of the bits `hi` down to `lo` of a word, both ends included (R9). -/
abbrev fld {w : Nat} (x : BitVec w) (hi lo : Nat) : BitVec (hi - lo + 1) := x.extractLsb' lo (hi - lo + 1)

/-- The number held in the bits `hi` down to `lo`. -/
abbrev fldN {w : Nat} (x : BitVec w) (hi lo : Nat) : Nat := (fld x hi lo).toNat

/-- A virtual address advanced by a signed amount, modulo 2^80 (R161, R309). -/
def addVA (a : VAddr) (d : Int) : VAddr := a + BitVec.ofInt 80 d

end Sys2Proof
end

