-- ==== Sys2Proof/Syntax.lean ====
section
/-! DEFINITION. The instruction syntax: formats and named codes of files 01, 02 and 03, and `Instr`, one constructor per row of
spec/opcode_table.json. A slot instruction carries the fields of its format; a row that is a step of another agent carries
operands that say which agent steps and what reaches it from outside. -/
namespace Sys2Proof

/-- The four slot classes (R47), in issue order. -/
inductive Cls where | S | L | V | M
  deriving DecidableEq, Repr

/-- Scopes (R11, R63). -/
inductive Scope where | hart | core | die | pkg | domain | system
  deriving DecidableEq, Repr

/-- Scope code (R63); 6 and 7 are reserved. -/
def Scope.ofCode : Nat → Option Scope
  | 0 => some .hart | 1 => some .core | 2 => some .die | 3 => some .pkg | 4 => some .domain | 5 => some .system | _ => none

/-- Code of a scope (R63); wider scopes have larger codes. -/
def Scope.code : Scope → Nat
  | .hart => 0 | .core => 1 | .die => 2 | .pkg => 3 | .domain => 4 | .system => 5

/-- Format codes (R17). -/
inductive Fmt where | fp32 | fp16 | bf16 | e4m3 | e5m2 | e2m3 | e3m2 | e2m1 | e8m0 | i32 | u32 | i8 | u8 | i4 | u4 | bx
  deriving DecidableEq, Repr

/-- Format of a code (R17); 0x10 to 0x1F are reserved. -/
def Fmt.ofCode : Nat → Option Fmt
  | 0 => some .fp32 | 1 => some .fp16 | 2 => some .bf16 | 3 => some .e4m3 | 4 => some .e5m2 | 5 => some .e2m3 | 6 => some .e3m2
  | 7 => some .e2m1 | 8 => some .e8m0 | 9 => some .i32 | 10 => some .u32 | 11 => some .i8 | 12 => some .u8 | 13 => some .i4
  | 14 => some .u4 | 15 => some .bx | _ => none

/-- Code of a format (R17). -/
def Fmt.code : Fmt → Nat
  | .fp32 => 0 | .fp16 => 1 | .bf16 => 2 | .e4m3 => 3 | .e5m2 => 4 | .e2m3 => 5 | .e3m2 => 6 | .e2m1 => 7 | .e8m0 => 8
  | .i32 => 9 | .u32 => 10 | .i8 => 11 | .u8 => 12 | .i4 => 13 | .u4 => 14 | .bx => 15

/-- Band tags (R19). -/
inductive Tag where | f32 | i32 | bx | bf16x2 | f16x2 | e4x4 | e5x4 | i8x4 | f4x8
  deriving DecidableEq, Repr

/-- Tag of a tag code (R19); 9 to 15 are never held. -/
def Tag.ofCode : Nat → Option Tag
  | 0 => some .f32 | 1 => some .i32 | 2 => some .bx | 3 => some .bf16x2 | 4 => some .f16x2 | 5 => some .e4x4 | 6 => some .e5x4
  | 7 => some .i8x4 | 8 => some .f4x8 | _ => none

/-- Code of a tag (R19). -/
def Tag.code : Tag → Nat
  | .f32 => 0 | .i32 => 1 | .bx => 2 | .bf16x2 => 3 | .f16x2 => 4 | .e4x4 => 5 | .e5x4 => 6 | .i8x4 => 7 | .f4x8 => 8

/-- Rounding modes (R29). -/
inductive Rnd where | rne | rtz | rdn | rup | rto | sr
  deriving DecidableEq, Repr

/-- Rounding mode of a field (R29); 110 and 111 are illegal. -/
def Rnd.ofCode : Nat → Option Rnd
  | 0 => some .rne | 1 => some .rtz | 2 => some .rdn | 3 => some .rup | 4 => some .rto | 5 => some .sr | _ => none

/-- Hart roles (R57, R202). -/
inductive Role where | loader | compute | drain | solo
  deriving DecidableEq, Repr

/-- Code of a role in HSTAT.ROLE (R57). -/
def Role.code : Role → Nat
  | .loader => 0 | .compute => 1 | .drain => 2 | .solo => 3

/-- View specifiers (R67). -/
inductive View where
  | row (i : Nat) | col (i : Nat) | diag (i : Nat) | g (n : Nat)
  | chkrow | chkcol | vscLo | vscHi | q (n : Nat) | dq (n : Nat)
  deriving DecidableEq, Repr

/-- The view a 12-bit specifier names (R67), `none` for a reserved value. -/
def View.ofBits (b : BitVec 12) : Option View :=
  let hi := fldN b 11 10
  let mid := fldN b 9 8
  let lo := fldN b 7 0
  match hi, mid with
  | 0, 0 => some (.row lo)
  | 1, 0 => some (.col lo)
  | 2, 0 => some (.diag lo)
  | 3, 0 => if lo < 32 then some (.g lo) else none
  | 3, 1 => match lo with
    | 0 => some .chkrow
    | 1 => some .chkcol
    | 2 => some .vscLo
    | 3 => some .vscHi
    | _ => none
  | 3, 2 => if lo < 8 then some (.q lo) else if lo < 10 then some (.dq (lo - 8)) else none
  | _, _ => none

/-- Kinds of access, for permissions and TRINFO.KIND (R99, R105). -/
inductive Acc where | load | store | atomic | fetch
  deriving DecidableEq, Repr

/-- TRINFO.KIND (R105). -/
def Acc.code : Acc → Nat
  | .load => 0 | .store => 1 | .atomic => 2 | .fetch => 3

/-- What comes back for a scalar access to another package (R104, R153): its bytes, an error answer, or the loss of the answer. -/
inductive Answer where
  | data (bytes : List Byte) | refusedByHome | lost | bad (byte : Nat)
  deriving DecidableEq, Repr

/-- Format SR (R64). -/
structure SR where
  d : BitVec 5
  s1 : BitVec 5
  s2 : BitVec 5
  rm : BitVec 3
  deriving DecidableEq, Repr

/-- Format SI (R64, R306). -/
structure SI where
  d : BitVec 5
  s1 : BitVec 5
  imm : BitVec 41
  deriving DecidableEq, Repr

/-- Format SB (R64). -/
structure SB where
  s1 : BitVec 5
  s2 : BitVec 5
  d : BitVec 5
  off : BitVec 41
  deriving DecidableEq, Repr

/-- Format SC (R64). -/
structure SC where
  d : BitVec 5
  s1 : BitVec 5
  cr : BitVec 12
  deriving DecidableEq, Repr

/-- Format LM (R65). -/
structure LM where
  t : BitVec 8
  a : BitVec 4
  x : BitVec 5
  k : BitVec 3
  q : BitVec 3
  sc : BitVec 3
  pi : BitVec 1
  off : BitVec 29
  deriving DecidableEq, Repr

/-- Format LC (R65). -/
structure LC where
  d : BitVec 5
  a : BitVec 4
  s1 : BitVec 5
  s2 : BitVec 5
  k : BitVec 3
  sc : BitVec 3
  imm : BitVec 28
  deriving DecidableEq, Repr

/-- Format VV (R66). -/
structure VV where
  vd : BitVec 12
  vs1 : BitVec 12
  vs2 : BitVec 12
  k : BitVec 3
  rm : BitVec 3
  sat : BitVec 1
  fx : BitVec 5
  imm : BitVec 8
  deriving DecidableEq, Repr

/-- Format MU (R68). -/
structure MU where
  qa : BitVec 3
  qb : BitVec 3
  hs : BitVec 2
  fa : BitVec 5
  fb : BitVec 5
  deriving DecidableEq, Repr

/-- Format MC (R68). -/
structure MC where
  d : BitVec 5
  s1 : BitVec 5
  hs : BitVec 2
  imm : BitVec 32
  deriving DecidableEq, Repr

/-- Operands of a row that is a step of another agent: which unit steps and what reaches it from outside. A constructor's docstring
names the fields that its meaning reads. -/
structure Arg where
  die : Nat := 0
  core : Nat := 0
  slot : Nat := 0
  idx : Nat := 0
  id : Nat := 0
  eng : Nat := 0
  queue : Nat := 0
  link : Nat := 0
  blk : Nat := 0
  qp : Nat := 0
  off : Nat := 0
  len : Nat := 0
  rkey : BitVec 32 := 0
  w : Word := 0
  w2 : Word := 0
  va : VAddr := 0
  acc : Acc := .load
  ans : Answer := .lost
  data : List Byte := []
  ok : Bool := false
  flag : Bool := false
  amount : Int := 0
  deriving DecidableEq, Repr

/-- One constructor per row of spec/opcode_table.json: the slot instructions in the order of their opcodes, then the steps of the other
agents, whose operands stand in `Arg`. -/
inductive Instr where
  /-- S slot 0x01 ADD, R308. -/
  | add (f : SR)
  /-- S slot 0x02 SUB, R308. -/
  | sub (f : SR)
  /-- S slot 0x03 MUL, R308. -/
  | mul (f : SR)
  /-- S slot 0x04 MULH, R308. -/
  | mulh (f : SR)
  /-- S slot 0x05 MULHU, R308. -/
  | mulhu (f : SR)
  /-- S slot 0x06 DIV, R308. -/
  | div (f : SR)
  /-- S slot 0x07 DIVU, R308. -/
  | divu (f : SR)
  /-- S slot 0x08 REM, R308. -/
  | rem (f : SR)
  /-- S slot 0x09 REMU, R308. -/
  | remu (f : SR)
  /-- S slot 0x0A AND, R308. -/
  | and (f : SR)
  /-- S slot 0x0B OR, R308. -/
  | or (f : SR)
  /-- S slot 0x0C XOR, R308. -/
  | xor (f : SR)
  /-- S slot 0x0D SHL, R308. -/
  | shl (f : SR)
  /-- S slot 0x0E SHR, R308. -/
  | shr (f : SR)
  /-- S slot 0x0F SRA, R308. -/
  | sra (f : SR)
  /-- S slot 0x10 ADDI, R308. -/
  | addi (f : SI)
  /-- S slot 0x11 ANDI, R308. -/
  | andi (f : SI)
  /-- S slot 0x12 ORI, R308. -/
  | ori (f : SI)
  /-- S slot 0x13 XORI, R308. -/
  | xori (f : SI)
  /-- S slot 0x14 SHLI, R308. -/
  | shli (f : SI)
  /-- S slot 0x15 SHRI, R308. -/
  | shri (f : SI)
  /-- S slot 0x16 SRAI, R308. -/
  | srai (f : SI)
  /-- S slot 0x17 LUI, R308. -/
  | lui (f : SI)
  /-- S slot 0x18 SEQ, R308. -/
  | seq (f : SR)
  /-- S slot 0x19 SNE, R308. -/
  | sne (f : SR)
  /-- S slot 0x1A SLT, R308. -/
  | slt (f : SR)
  /-- S slot 0x1B SLTU, R308. -/
  | sltu (f : SR)
  /-- S slot 0x1C SLE, R308. -/
  | sle (f : SR)
  /-- S slot 0x1D SLEU, R308. -/
  | sleu (f : SR)
  /-- S slot 0x1E MIN, R308. -/
  | min (f : SR)
  /-- S slot 0x1F MAX, R308. -/
  | max (f : SR)
  /-- S slot 0x20 AADD, R309. -/
  | aadd (f : SR)
  /-- S slot 0x21 AADDI, R309. -/
  | aaddi (f : SI)
  /-- S slot 0x22 ASUB, R309. -/
  | asub (f : SR)
  /-- S slot 0x23 AMOVG, R309. -/
  | amovg (f : SR)
  /-- S slot 0x24 AMOVA, R309. -/
  | amova (f : SR)
  /-- S slot 0x25 AHI, R309. -/
  | ahi (f : SI)
  /-- S slot 0x26 AHIG, R309. -/
  | ahig (f : SR)
  /-- S slot 0x28 FADD, R310. -/
  | fadd (f : SR)
  /-- S slot 0x29 FSUB, R310. -/
  | fsub (f : SR)
  /-- S slot 0x2A FMUL, R310. -/
  | fmul (f : SR)
  /-- S slot 0x2B FFMA, R310. -/
  | ffma (f : SR)
  /-- S slot 0x2C FDIV, R310. -/
  | fdiv (f : SR)
  /-- S slot 0x2D FSQRT, R310. -/
  | fsqrt (f : SR)
  /-- S slot 0x2E FMIN, R310. -/
  | fmin (f : SR)
  /-- S slot 0x2F FMAX, R310. -/
  | fmax (f : SR)
  /-- S slot 0x30 FCMPEQ, R311. -/
  | fcmpeq (f : SR)
  /-- S slot 0x31 FCMPLT, R311. -/
  | fcmplt (f : SR)
  /-- S slot 0x32 FCMPLE, R311. -/
  | fcmple (f : SR)
  /-- S slot 0x33 FCVT_I, R311. -/
  | fcvtI (f : SR)
  /-- S slot 0x34 FCVT_F, R311. -/
  | fcvtF (f : SR)
  /-- S slot 0x35 FCLASS, R311. -/
  | fclass (f : SR)
  /-- S slot 0x50 BEQ, R312. -/
  | beq (f : SB)
  /-- S slot 0x51 BNE, R312. -/
  | bne (f : SB)
  /-- S slot 0x52 BLT, R312. -/
  | blt (f : SB)
  /-- S slot 0x53 BLTU, R312. -/
  | bltu (f : SB)
  /-- S slot 0x54 BGE, R312. -/
  | bge (f : SB)
  /-- S slot 0x55 BGEU, R312. -/
  | bgeu (f : SB)
  /-- S slot 0x56 BZ, R312. -/
  | bz (f : SB)
  /-- S slot 0x57 BNZ, R312. -/
  | bnz (f : SB)
  /-- S slot 0x58 JMP, R312. -/
  | jmp (f : SB)
  /-- S slot 0x59 JAL, R312. -/
  | jal (f : SB)
  /-- S slot 0x5A JR, R312. -/
  | jr (f : SB)
  /-- S slot 0x5B RET, R312. -/
  | ret (f : SB)
  /-- S slot 0x60 MOVS, R314. -/
  | movs (f : SC)
  /-- S slot 0x61 MOVD, R314. -/
  | movd (f : SC)
  /-- S slot 0x62 SETVL, R316. -/
  | setvl (f : SR)
  /-- S slot 0x63 SETMVL, R316. -/
  | setmvl (f : SR)
  /-- S slot 0x70 SEMTS, R356. -/
  | semts (f : SI)
  /-- S slot 0x70 SEMTS_TRY, R356. -/
  | semtsTry (f : SI)
  /-- S slot 0x71 SEMCLR, R357. -/
  | semclr (f : SR)
  /-- S slot 0x72 CMRD, R358. -/
  | cmrd (f : SR)
  /-- S slot 0x73 CMWR, R358. -/
  | cmwr (f : SR)
  /-- S slot 0x74 BARWAIT, R361. -/
  | barwait (f : SI)
  /-- S slot 0x74 BARWAIT_SET, R362. -/
  | barwaitSet (f : SI)
  /-- S slot 0x75 LAUNCH, R364. -/
  | launch (f : SR)
  /-- S slot 0x76 SIGNAL, R367. -/
  | signal (f : SR)
  /-- S slot 0x77 CANCEL, R368. -/
  | cancel (f : SR)
  /-- S slot 0x78 NWAIT, R370. -/
  | nwait (f : SR)
  /-- S slot 0x79 NPOST, R371. -/
  | npost (f : SR)
  /-- S slot 0x7A YIELD, R372. -/
  | yield (f : SI)
  /-- S slot 0x7A YIELD_GANG, R372. -/
  | yieldGang (f : SI)
  /-- S slot 0x7B GEXIT, R373. -/
  | gexit (f : SR)
  /-- S slot 0x7C PBCRD, R374. -/
  | pbcrd (f : SI)
  /-- S slot 0xE0 TRAP, R321. -/
  | trap (f : SR)
  /-- S slot 0xE1 ERET, R384. -/
  | eret (f : SR)
  /-- S slot 0xE2 STEST, R324. -/
  | stest (f : SR)
  /-- S slot 0xE3 NOP, R320. -/
  | nop (f : SR)
  /-- S slot 0xE4 FRQPOP, R323. -/
  | frqpop (f : SR)
  /-- L slot 0x01 LD_B, R179. -/
  | ldB (f : LM)
  /-- L slot 0x02 LD_H, R179. -/
  | ldH (f : LM)
  /-- L slot 0x03 LD_W, R179. -/
  | ldW (f : LM)
  /-- L slot 0x04 LD_D, R179. -/
  | ldD (f : LM)
  /-- L slot 0x05 LDU_B, R179. -/
  | lduB (f : LM)
  /-- L slot 0x06 LDU_H, R179. -/
  | lduH (f : LM)
  /-- L slot 0x07 LDU_W, R179. -/
  | lduW (f : LM)
  /-- L slot 0x08 ST_B, R179. -/
  | stB (f : LM)
  /-- L slot 0x09 ST_H, R179. -/
  | stH (f : LM)
  /-- L slot 0x0A ST_W, R179. -/
  | stW (f : LM)
  /-- L slot 0x0B ST_D, R179. -/
  | stD (f : LM)
  /-- L slot 0x0C LDA, R179. -/
  | lda (f : LM)
  /-- L slot 0x0D STA, R179. -/
  | sta (f : LM)
  /-- L slot 0x10 VLD, R182. -/
  | vld (f : LM)
  /-- L slot 0x11 VLDS, R182. -/
  | vlds (f : LM)
  /-- L slot 0x12 VLDSEG, R182. -/
  | vldseg (f : LM)
  /-- L slot 0x13 VLDX, R182. -/
  | vldx (f : LM)
  /-- L slot 0x14 VLDC, R163. -/
  | vldc (f : LM)
  /-- L slot 0x15 VPF, R183. -/
  | vpf (f : LM)
  /-- L slot 0x18 VST, R185. -/
  | vst (f : LM)
  /-- L slot 0x19 VSTS, R185. -/
  | vsts (f : LM)
  /-- L slot 0x1A VSTSEG, R185. -/
  | vstseg (f : LM)
  /-- L slot 0x1B VSTX, R185. -/
  | vstx (f : LM)
  /-- L slot 0x1C DRV, R184. -/
  | drv (f : LM)
  /-- L slot 0x20 AMOADD, R186. -/
  | amoadd (f : LM)
  /-- L slot 0x21 AMOMIN, R186. -/
  | amomin (f : LM)
  /-- L slot 0x22 AMOMAX, R186. -/
  | amomax (f : LM)
  /-- L slot 0x23 AMOAND, R186. -/
  | amoand (f : LM)
  /-- L slot 0x24 AMOOR, R186. -/
  | amoor (f : LM)
  /-- L slot 0x25 AMOXOR, R186. -/
  | amoxor (f : LM)
  /-- L slot 0x26 AMOSWP, R186. -/
  | amoswp (f : LM)
  /-- L slot 0x27 AMOCAS, R186. -/
  | amocas (f : LM)
  /-- L slot 0x28 VAMOADD, R187. -/
  | vamoadd (f : LM)
  /-- L slot 0x29 VAMOMIN, R187. -/
  | vamomin (f : LM)
  /-- L slot 0x2A VAMOMAX, R187. -/
  | vamomax (f : LM)
  /-- L slot 0x2B VAMOSWP, R187. -/
  | vamoswp (f : LM)
  /-- L slot 0x2C GLL, R188. -/
  | gll (f : LM)
  /-- L slot 0x2D SCC, R188. -/
  | scc (f : LM)
  /-- L slot 0x30 FENCE, R189. -/
  | fence (f : LM)
  /-- L slot 0x31 BARARR, R189. -/
  | bararr (f : LM)
  /-- L slot 0x40 CPY, R137. -/
  | cpy (f : LC)
  /-- L slot 0x41 CPYX, R138. -/
  | cpyx (f : LC)
  /-- L slot 0x42 CPYM, R139. -/
  | cpym (f : LC)
  /-- L slot 0x43 CPYB, R140. -/
  | cpyb (f : LC)
  /-- L slot 0x44 CPST, R141. -/
  | cpst (f : LC)
  /-- L slot 0x44 CPST_WAIT, R141. -/
  | cpstWait (f : LC)
  /-- L slot 0x50 CATQ, R113. -/
  | catq (f : LC)
  /-- L slot 0x51 CATU, R113. -/
  | catu (f : LC)
  /-- L slot 0x52 FOLMAP, R129. -/
  | folmap (f : LC)
  /-- L slot 0x52 FOLMAP_U, R129. -/
  | folmapU (f : LC)
  /-- L slot 0x53 FOLREF, R129. -/
  | folref (f : LC)
  /-- L slot 0x54 FOLDROP, R129. -/
  | foldrop (f : LC)
  /-- V slot 0x01 VADD, R260. -/
  | vadd (f : VV)
  /-- V slot 0x02 VSUB, R260. -/
  | vsub (f : VV)
  /-- V slot 0x03 VMUL, R260. -/
  | vmul (f : VV)
  /-- V slot 0x04 VFMA, R260. -/
  | vfma (f : VV)
  /-- V slot 0x05 VFMS, R260. -/
  | vfms (f : VV)
  /-- V slot 0x06 VFNMA, R260. -/
  | vfnma (f : VV)
  /-- V slot 0x07 VMIN, R260. -/
  | vmin (f : VV)
  /-- V slot 0x08 VMAX, R260. -/
  | vmax (f : VV)
  /-- V slot 0x09 VABS, R260. -/
  | vabs (f : VV)
  /-- V slot 0x0A VNEG, R260. -/
  | vneg (f : VV)
  /-- V slot 0x0B VAND, R261. -/
  | vand (f : VV)
  /-- V slot 0x0C VOR, R261. -/
  | vor (f : VV)
  /-- V slot 0x0D VXOR, R261. -/
  | vxor (f : VV)
  /-- V slot 0x0E VSHL, R261. -/
  | vshl (f : VV)
  /-- V slot 0x0F VSHR, R261. -/
  | vshr (f : VV)
  /-- V slot 0x10 VSRA, R261. -/
  | vsra (f : VV)
  /-- V slot 0x11 VRCPE, R262. -/
  | vrcpe (f : VV)
  /-- V slot 0x12 VRSQE, R262. -/
  | vrsqe (f : VV)
  /-- V slot 0x13 VGETEXP, R263. -/
  | vgetexp (f : VV)
  /-- V slot 0x14 VSCALEB, R263. -/
  | vscaleb (f : VV)
  /-- V slot 0x15 VRINT, R263. -/
  | vrint (f : VV)
  /-- V slot 0x20 VCMPEQ, R264. -/
  | vcmpeq (f : VV)
  /-- V slot 0x21 VCMPNE, R264. -/
  | vcmpne (f : VV)
  /-- V slot 0x22 VCMPLT, R264. -/
  | vcmplt (f : VV)
  /-- V slot 0x23 VCMPLE, R264. -/
  | vcmple (f : VV)
  /-- V slot 0x24 VCMPLTU, R264. -/
  | vcmpltu (f : VV)
  /-- V slot 0x25 VCMPLEU, R264. -/
  | vcmpleu (f : VV)
  /-- V slot 0x26 KAND, R265. -/
  | kand (f : VV)
  /-- V slot 0x27 KOR, R265. -/
  | kor (f : VV)
  /-- V slot 0x28 KXOR, R265. -/
  | kxor (f : VV)
  /-- V slot 0x29 KNOT, R265. -/
  | knot (f : VV)
  /-- V slot 0x2A KMOV, R265. -/
  | kmov (f : VV)
  /-- V slot 0x2B KPOP, R265. -/
  | kpop (f : VV)
  /-- V slot 0x2C KPOIS, R265. -/
  | kpois (f : VV)
  /-- V slot 0x2D KFIRST, R265. -/
  | kfirst (f : VV)
  /-- V slot 0x30 VSEL, R266. -/
  | vsel (f : VV)
  /-- V slot 0x31 VBCAST, R266. -/
  | vbcast (f : VV)
  /-- V slot 0x32 VMOV, R266. -/
  | vmov (f : VV)
  /-- V slot 0x33 VZERO, R266. -/
  | vzero (f : VV)
  /-- V slot 0x34 VPERM, R267. -/
  | vperm (f : VV)
  /-- V slot 0x35 VROT, R267. -/
  | vrot (f : VV)
  /-- V slot 0x36 GXPOSE, R268. -/
  | gxpose (f : VV)
  /-- V slot 0x37 VTAG, R269. -/
  | vtag (f : VV)
  /-- V slot 0x38 VCOMPRESS, R267. -/
  | vcompress (f : VV)
  /-- V slot 0x39 VEXPAND, R267. -/
  | vexpand (f : VV)
  /-- V slot 0x40 VRSUM, R270. -/
  | vrsum (f : VV)
  /-- V slot 0x41 VRMAX, R271. -/
  | vrmax (f : VV)
  /-- V slot 0x42 VRMIN, R271. -/
  | vrmin (f : VV)
  /-- V slot 0x43 VRAMAX, R271. -/
  | vramax (f : VV)
  /-- V slot 0x44 VRBX, R272. -/
  | vrbx (f : VV)
  /-- V slot 0x45 VREXP, R271. -/
  | vrexp (f : VV)
  /-- V slot 0x50 CVT_N, R273. -/
  | cvtN (f : VV)
  /-- V slot 0x51 CVT_W, R274. -/
  | cvtW (f : VV)
  /-- V slot 0x52 CVT_F4, R275. -/
  | cvtF4 (f : VV)
  /-- V slot 0x53 CVT_I, R276. -/
  | cvtI (f : VV)
  /-- V slot 0x54 CVT_F, R276. -/
  | cvtF (f : VV)
  /-- V slot 0x55 VQUANT, R278. -/
  | vquant (f : VV)
  /-- V slot 0x56 SETSC, R279. -/
  | setsc (f : VV)
  /-- V slot 0x57 BXADD, R280. -/
  | bxadd (f : VV)
  /-- V slot 0x58 BXACC, R281. -/
  | bxacc (f : VV)
  /-- V slot 0x59 BXANCH, R280. -/
  | bxanch (f : VV)
  /-- V slot 0x59 BXANCH_I, R280. -/
  | bxanchI (f : VV)
  /-- V slot 0x5A BXCVT, R280. -/
  | bxcvt (f : VV)
  /-- M slot 0x01 MOP, R232. -/
  | mop (f : MU)
  /-- M slot 0x02 MOP_S, R232. -/
  | mopS (f : MU)
  /-- M slot 0x03 MOP_Z, R232. -/
  | mopZ (f : MU)
  /-- M slot 0x04 MOP_ZS, R232. -/
  | mopZs (f : MU)
  /-- M slot 0x20 CKCLR, R238. -/
  | ckclr (f : MC)
  /-- M slot 0x21 CKCHK, R239. -/
  | ckchk (f : MC)
  /-- M slot 0x22 CKLOC, R241. -/
  | ckloc (f : MC)
  /-- M slot 0x23 CKFIX, R242. -/
  | ckfix (f : MC)
  /-- M slot 0x24 CKRD_ROW, R243. -/
  | ckrdRow (f : MC)
  /-- M slot 0x24 CKRD_COL, R243. -/
  | ckrdCol (f : MC)
  /-- M slot 0x24 CKRD_ST, R243. -/
  | ckrdSt (f : MC)
  /-- M slot 0x25 CKINJ, R244. -/
  | ckinj (f : MC)
  /-- M slot 0x25 CKINJ_P, R244. -/
  | ckinjP (f : MC)
  /-- M slot 0x30 CAPB, R246. -/
  | capb (f : MC)
  /-- M slot 0x31 CAPE, R246. -/
  | cape (f : MC)
  /-- M slot 0x32 CAPR, R248. -/
  | capr (f : MC)
  /-- M slot 0x33 CAPX, R248. -/
  | capx (f : MC)
  /-- M slot 0x33 CAPX_SAVED, R248. -/
  | capxSaved (f : MC)
  /-- M slot 0x33 CAPX_FIRST, R248. -/
  | capxFirst (f : MC)
  /-- PACKET_ISSUE, R50: reads core, slot; flag says that an access to another die is not answered at once, ok that a slot which waits beside the handler runs (R387), w and len what
  the front end does (R305). -/
  | packetIssue
  /-- PACKET_RETIRE, R58: reads core, slot. -/
  | packetRetire
  /-- V_WRITEBACK, R222: reads core, id; with flag a corrected error of group idx comes with it (R219). -/
  | vWriteback
  /-- UPDATE_WRITEBACK, R222: reads core, id; with flag a corrected error of group idx comes with it (R219). -/
  | updateWriteback
  /-- VECTOR_ACCESS_COMPLETE, R157: reads core, id; with flag element len of the access is performed now (R293), or with ok granule off fails on its way from die idx to die die (R401). -/
  | vectorAccessComplete
  /-- SCALAR_ACCESS_COMPLETE, R289: reads core, slot, ans; with flag a check value fails: id, ok, die, idx (R401). -/
  | scalarAccessComplete
  /-- TRANSLATION_WALK, R95: reads die, core (of the die), idx (the context), va, acc. -/
  | translationWalk
  /-- WRITE_HOME_MOMENT, R292: reads id; with ok the write fails its check value on its way from die idx to die die (R401); with flag a request of package idx arrives over Ibros link `link`: off,
data, ok; with len 1 a load, and with len from 0x20 or 0x79 an atomic of that opcode on w and w2, of blk bytes, unsigned with core 1 (R426). -/
  | writeHomeMoment
  /-- WRITE_DOMAIN_MOMENT, R292: reads id. -/
  | writeDomainMoment
  /-- WRITE_SYSTEM_MOMENT, R292: reads id. -/
  | writeSystemMoment
  /-- COPY_COMMAND_START, R131: reads die, eng, queue; with ok granule idx of the source is read once more (R301), or with flag fails on its way from die off to die id (R401). -/
  | copyCommandStart
  /-- COPY_CHUNK_VISIBLE, R142: reads die, eng, queue; with ok granule idx alone is written (R301); with flag the datapaths differ on granule idx (R400), and with w it fails on its way from die off to die id (R401). -/
  | copyChunkVisible
  /-- BARRIER_CREDIT, R360: reads die, eng, queue. -/
  | barrierCredit
  /-- COPY_COMMAND_COMPLETE, R136: reads die, eng, queue. -/
  | copyCommandComplete
  /-- CATALOGUE_COMMAND_COMPLETE, R115: reads idx (the unit), ok (one step only), flag (the datapaths differ, R400), w (granule off fails on its way from die id to die die, R401); with idx 4, what a unit of another package sends: die, id, off, data, w, ok, flag. -/
  | catalogueCommandComplete
  /-- XLT_INV, R96: reads blk, w. -/
  | xltInv
  /-- INVALIDATION_DONE, R96: reads blk. -/
  | invalidationDone
  /-- MEM_ILV_WRITE, R86: reads w. -/
  | memIlvWrite
  /-- DIE_BOOT_GO, R101: reads die, w. -/
  | dieBootGo
  /-- XLT_CTXBASE_WRITE, R88: reads blk, w. -/
  | xltCtxbaseWrite
  /-- SCHED_CTL_WRITE, R337: reads die, w. -/
  | schedCtlWrite
  /-- SAVE_STALL_CLEAR, R381: reads die, w. -/
  | saveStallClear
  /-- LMAP_WRITE, R219: reads core, w. -/
  | lmapWrite
  /-- LAT_WRITE, R216: reads core, w. -/
  | latWrite
  /-- PGSEED_WRITE, R38: reads core, w. -/
  | pgseedWrite
  /-- PROTECTED_MODE_ENABLE, R224: reads core, slot. -/
  | protectedModeEnable
  /-- REGISTER_WRITE, R12: reads blk, off, w. -/
  | registerWrite
  /-- GANG_PLACE, R342: reads die, idx. -/
  | gangPlace
  /-- GANG_RESUME, R346: reads die, idx. -/
  | gangResume
  /-- RECLAIM_MARK, R345: reads die. -/
  | reclaimMark
  /-- RECLAIM_TIMEOUT, R346: reads die, idx. -/
  | reclaimTimeout
  /-- SAVE_UNIT, R396: reads die, idx. -/
  | saveUnit
  /-- GROUP_RELEASE, R317: reads die, idx. -/
  | groupRelease
  /-- GROUP_POWER_GATE, R220: reads core, idx. -/
  | groupPowerGate
  /-- GANG_END, R349: reads die, idx. -/
  | gangEnd
  /-- NOTIFY_EVALUATE, R336: reads die, slot, queue. -/
  | notifyEvaluate
  /-- NOTIFY_POLL, R336: reads die, slot, queue. -/
  | notifyPoll
  /-- YIELD_WAKE, R372: reads core, slot. -/
  | yieldWake
  /-- STEST_DONE, R324: reads core, w. -/
  | stestDone
  /-- STEST_ABORT, R324: reads core. -/
  | stestAbort
  /-- LANE_SHADOW_ROTATE, R152: reads link, len. -/
  | laneShadowRotate
  /-- RETRAIN_DONE, R152: reads link, idx. -/
  | retrainDone
  /-- FLIT_CRC_ERROR, R148: reads link, idx. -/
  | flitCrcError
  /-- LINK_DOWN, R153: reads link. -/
  | linkDown
  /-- ROUND_START, R407: w has the dies that have found an uncorrectable fault in their own logic. -/
  | roundStart
  /-- HEARTBEAT_RECEIVE, R408: reads die, and data, or with flag idx, the die whose heartbeat the flood brings as it was sent. -/
  | heartbeatReceive
  /-- ROUND_END, R410. -/
  | roundEnd
  /-- ORPHAN_COMPLETION, R415. -/
  | orphanCompletion
  /-- FENCED_SELFTEST_DONE, R417: reads die, ok. -/
  | fencedSelftestDone
  /-- RDMA_WRITE, R423: reads qp, rkey, off, data; len is the number of granules written at a time, 0 for all. -/
  | rdmaWrite
  /-- RDMA_READ, R423: reads qp, rkey, off, len, and slot, the number of granules read at a time, 0 for all; with flag a check value fails: id, ok, die, idx (R401). -/
  | rdmaRead
  /-- ATOMIC_COMPARE_AND_SWAP, R423: reads qp, rkey, off, w, w2. -/
  | atomicCompareAndSwap
  /-- ATOMIC_FETCH_AND_ADD, R423: reads qp, rkey, off, w. -/
  | atomicFetchAndAdd
  /-- INVALID_REQUEST, R420: reads qp. -/
  | invalidRequest
  /-- PRIORITY_FLOW_CONTROL, R420: reads len. -/
  | priorityFlowControl
  /-- CONGESTION_NOTIFICATION, R420: reads qp. -/
  | congestionNotification
  /-- PTP_MESSAGE, R425: reads ok, amount. -/
  | ptpMessage
  /-- GET_VERSION, R429: reads data. -/
  | getVersion
  /-- GET_CAPABILITIES, R429: reads data. -/
  | getCapabilities
  /-- NEGOTIATE_ALGORITHMS, R429: reads data. -/
  | negotiateAlgorithms
  /-- GET_DIGESTS, R429: reads data. -/
  | getDigests
  /-- GET_CERTIFICATE, R429: reads data. -/
  | getCertificate
  /-- CHALLENGE, R429: reads data. -/
  | challenge
  /-- GET_MEASUREMENTS, R429: reads data. -/
  | getMeasurements
  /-- PLDM_PLATFORM_MONITORING, R430: reads data. -/
  | pldmPlatformMonitoring
  /-- PLDM_FIRMWARE_UPDATE, R430: reads off, data, flag. -/
  | pldmFirmwareUpdate
  /-- ENDPOINT_IDENTIFIER_ASSIGN, R430: reads w. -/
  | endpointIdentifierAssign
  /-- EEPROM_READ, R431: reads off. -/
  | eepromRead
  /-- EEPROM_WRITE, R431: reads off, w. -/
  | eepromWrite
  /-- RESET, R427; with flag the board is another: idx has its LP6 groups, ok its EEPROM (R3); data is the die firmware image, len a stage that fails with cause w. -/
  | reset
  /-- EVAC_GO, R435: reads w. -/
  | evacGo
  /-- EVAC_ABORT, R434. -/
  | evacAbort
  /-- EVAC_SAVE_DONE, R433. -/
  | evacSaveDone
  /-- EVAC_OFFER, R436: reads idx, ok. -/
  | evacOffer
  /-- EVAC_OFFER_ANSWER, R436: reads ok, flag. -/
  | evacOfferAnswer
  /-- EVAC_OFFER_TIMEOUT, R435. -/
  | evacOfferTimeout
  /-- EVAC_COPY_DONE, R433. -/
  | evacCopyDone
  /-- EVAC_DRAIN_DONE, R433. -/
  | evacDrainDone
  /-- EVAC_TIMEOUT, R433. -/
  | evacTimeout
  /-- EVAC_ARM, R436: reads w. -/
  | evacArm
  /-- EVAC_DISARM, R436: reads w. -/
  | evacDisarm
  /-- EVAC_ADOPT, R437: reads w. -/
  | evacAdopt
  /-- EVAC_CLAIM, R437: reads idx. -/
  | evacClaim
  /-- EVAC_CLAIM_ANSWER, R437: reads ok. -/
  | evacClaimAnswer
  /-- EVAC_CLAIM_TIMEOUT, R437. -/
  | evacClaimTimeout
  /-- THERMAL_THROTTLE, R439: reads w, w2. -/
  | thermalThrottle
  /-- PEPPER_GENERATOR_STEP, R37. -/
  | pepperGeneratorStep
  /-- EVAC_FREEZE_DONE, R433. -/
  | evacFreezeDone
  /-- FIRMWARE_RETRAIN, R153: reads link. -/
  | firmwareRetrain
  /-- BLADE_PULL, R437. -/
  | bladePull
  /-- QUEUE_PAIR_CONNECT, R420: reads qp. -/
  | queuePairConnect
  /-- MANAGEMENT_CONTROLLER_ACCESS, R87: reads off, ok, data, len; with flag firmware extends measurement register idx by data (R429). -/
  | managementControllerAccess
  deriving DecidableEq, Repr

end Sys2Proof
end

