-- ==== Sys2Proof/Config.lean ====
section
/-! DEFINITION. What an implementation fixes and what the spec leaves open. Every free value is an opaque constant without a body, so
that no proof can see what it is. -/
namespace Sys2Proof.Config

/-- Free values, one per draw (log 4). -/
opaque free : Nat → BitVec 256

/-- A byte that memory of another package holds when it is read there (log 8). -/
opaque remoteByte : (draw addr : Nat) → Byte

/-- The Colophon value that a 32-byte record stands for which another package wrote (R394, R437; log 36). -/
opaque coloOf : BitVec 256 → Int × Int

/-- What the device reads, number by number, out of bytes of its own that no table of the spec lays down and that another package wrote: internal trap state, Carrel records,
queue blocks and record images (R393, R394, R436; log 36). -/
opaque internal : List Byte → Nat → BitVec 256

/-- Corrected errors of a lane group above which they are reported (R219; log 70). -/
opaque correctedThreshold : Nat

/-- SHA-384 of a byte string (R428, R429): a named standard, kept abstract (log 12). -/
opaque sha384 : List Byte → List Byte

/-- ECDSA verification of R428 on the public key, the signed header bytes and the signature (log 12). -/
opaque ecdsaOk : (key msg sig : List Byte) → Bool

/-- The fuse state of the part (R428): the key hash of an index, whether a key is revoked, and the minimum security version (log 12). -/
opaque fuseKeyHash : Nat → List Byte
opaque fuseRevoked : Nat → Bool
opaque fuseMinVersion : Nat

/-- The boot ROM's own digest, and the images that the boot flash holds at manufacture (R427, R429; log 12). -/
opaque romDigest : List Byte

/-- Digest of the fuse state and the LMAP words that measurement register 3 takes (R429; log 12). -/
opaque fuseDigest : List Word → List Byte

/-- The device's identity key, which stage 1 of the boot derives (R429; log 12). -/
opaque identityKey : List Byte

/-- An SPDM answer beyond the measurement registers that R429 lays down, made with the identity key (log 13). -/
opaque spdmReply : (code draw : Nat) → (key req : List Byte) → List Byte

/-- A PLDM monitoring answer beyond the fields R430 names (log 13). -/
opaque pldmReply : (draw : Nat) → (req : List Byte) → List Byte

/-- The expected self-test signature (R324). -/
def stestPass : BitVec 32 := 0x5E1A93C4#32

/-- Core clock: 850 MHz (R4); the device timer counts nanoseconds (R425). -/
def nsOfCycle (c : Nat) : Nat := c * 1000 / 850

end Sys2Proof.Config
end

