-- ==== Sys2Proof/Machine/Tbl.lean ====
section
/-! DEFINITION. Tables of plain data by number, and the canonical byte list that memory is. -/
namespace Sys2Proof

/-- A table from numbers to data; a number without an entry reads as the default its reader names. -/
abbrev Tbl (α : Type) := List (Nat × α)

/-- Reads a table, stopping at the first larger number. -/
def tget {α : Type} (d : α) : Tbl α → Nat → α
  | [], _ => d
  | (a, x) :: r, k => if k < a then d else if k = a then x else tget d r k

/-- Writes a table in rising order of numbers. -/
def tset {α : Type} : Tbl α → Nat → α → Tbl α
  | [], k, v => [(k, v)]
  | (a, x) :: r, k, v => if k < a then (k, v) :: (a, x) :: r else if k = a then (k, v) :: r else (a, x) :: tset r k v

/-- Changes one entry. -/
def tmod {α : Type} (d : α) (t : Tbl α) (k : Nat) (f : α → α) : Tbl α := tset t k (f (tget d t k))

/-- Writes many entries. -/
def tsetMany {α : Type} (t : Tbl α) (l : List (Nat × α)) : Tbl α := l.foldl (fun t p => tset t p.1 p.2) t

/-- The canonical form of a byte memory: rising addresses and no entry equal to the default byte. -/
def memWf : Nat → List (Nat × Byte) → Bool
  | _, [] => true
  | lo, (a, b) :: r => decide (lo ≤ a) && b != 0#8 && memWf (a + 1) r

/-- A byte of memory; an unlisted byte reads 0 (log 1). -/
def memGet (m : List (Nat × Byte)) (k : Nat) : Byte := tget 0#8 m k

/-- Writes a byte, keeping the canonical form. -/
def memSet : List (Nat × Byte) → Nat → Byte → List (Nat × Byte)
  | [], k, v => if v = 0#8 then [] else [(k, v)]
  | (a, x) :: r, k, v =>
    if k < a then (if v = 0#8 then (a, x) :: r else (k, v) :: (a, x) :: r)
    else if k = a then (if v = 0#8 then r else (k, v) :: r)
    else (a, x) :: memSet r k v

/-- Writes many bytes in order. -/
def memSetMany (m : List (Nat × Byte)) (l : List (Nat × Byte)) : List (Nat × Byte) := l.foldl (fun m p => memSet m p.1 p.2) m

/-- `n` bytes from an address. -/
def memRead (m : List (Nat × Byte)) (k n : Nat) : List Byte := (List.range n).map (fun i => memGet m (k + i))

/-- Little-endian number of bytes (R18). -/
def leNat : List Byte → Nat
  | [] => 0
  | b :: r => b.toNat + 256 * leNat r

/-- `n` little-endian bytes of a number (R18). -/
def leBytes : Nat → Nat → List Byte
  | 0, _ => []
  | n + 1, x => BitVec.ofNat 8 x :: leBytes n (x / 256)

/-- Adds a number to a rising list without repeats. -/
def insSorted (l : List Nat) (k : Nat) : List Nat :=
  match l with
  | [] => [k]
  | a :: r => if k < a then k :: a :: r else if k = a then a :: r else a :: insSorted r k

/-- The set bits of a number below `n`, rising. -/
def bitsOf (n x : Nat) : List Nat := (List.range n).filter (fun i => x.testBit i)

/-- The number whose bits below 256 are set by a predicate. -/
def maskOf (n : Nat) (p : Nat → Bool) : Nat := (List.range n).foldl (fun a i => if p i then a + 2 ^ i else a) 0

end Sys2Proof
end

