-- ==== Sys2Proof/WellFormed.lean ====
section
/-! DEFINITION. Which instructions are well formed: the field use of R61 to R68, R111, R132, R176, R229, R230, R236, R254, R306, R307
and R352, as the two decode checks of R76: order 4 (an unused field is zero) and order 5 (no reserved value). -/
namespace Sys2Proof

/-- Unused fields of an SR slot are zero; an argument says that the field is used (R61). -/
def SR.zeros (f : SR) (d s1 s2 rm : Bool) : Bool :=
  (d || f.d == 0) && (s1 || f.s1 == 0) && (s2 || f.s2 == 0) && (rm || f.rm == 0)

/-- Unused fields of an SB slot are zero. -/
def SB.zeros (f : SB) (s1 s2 d off : Bool) : Bool :=
  (s1 || f.s1 == 0) && (s2 || f.s2 == 0) && (d || f.d == 0) && (off || f.off == 0)

/-- Unused fields of a VV slot are zero; IMM is checked apart. -/
def VV.zeros (f : VV) (vd vs1 vs2 k rm sat fx : Bool) : Bool :=
  (vd || f.vd == 0) && (vs1 || f.vs1 == 0) && (vs2 || f.vs2 == 0) && (k || f.k == 0) && (rm || f.rm == 0) && (sat || f.sat == 0)
    && (fx || f.fx == 0)

/-- The qualifier holds .acq (R65). -/
def LM.acq (f : LM) : Bool := f.q == 2 || f.q == 4
/-- The qualifier holds .rel (R65). -/
def LM.rel (f : LM) : Bool := f.q == 3 || f.q == 5
/-- The qualifier holds .ord (R65). -/
def LM.ord (f : LM) : Bool := f.q == 1 || f.q == 4 || f.q == 5
/-- A scalar access names an index, or an offset, or post-increment, not an index with either of the others (R176; log 9). -/
def LM.scalarForm (f : LM) : Bool := f.x == 0 || (f.off == 0 && f.pi == 0)
/-- RET of a vector atomic (R176). -/
def LM.vret (f : LM) : Bool := f.t.getLsbD 4
/-- FP of a vector atomic (R176). -/
def LM.vfp (f : LM) : Bool := f.t.getLsbD 5
/-- U of a vector atomic (R176). -/
def LM.vu (f : LM) : Bool := f.x.getLsbD 3
/-- Unused fields of a vector atomic (R176). -/
def LM.vamoForm (f : LM) : Bool :=
  f.t.toNat / 64 == 0 && (f.vret || f.t.toNat / 2 % 8 == 0) && f.x.toNat / 16 == 0 && f.pi == 0 && (f.acq || f.rel || f.sc == 0)
/-- Qualifier among the admitted ones (R176). -/
def LM.qIn (f : LM) (l : List Nat) : Bool := l.contains f.q.toNat
/-- Scope not reserved (R63). -/
def LM.scOk (f : LM) : Bool := decide (f.sc.toNat < 6)
/-- F of a segment form within 2 to 8 (R176). -/
def LM.segOk (f : LM) : Bool := f.t.toNat / 16 % 8 != 0
/-- CS and FB are 0 without a chunk mask (R132). -/
def LC.chunkForm (f : LC) : Bool := f.k != 0 || f.imm.toNat / 32 == 0

/-- An a register in a five-bit field (R306). -/
def aReg (x : BitVec 5) : Bool := decide (x.toNat < 16)

/-- Control-register numbers of R75. -/
def crKnown (n : Nat) : Bool :=
  decide (n < 6) || (decide (16 ≤ n) && decide (n < 34)) || (decide (48 ≤ n) && decide (n < 54)) || (decide (64 ≤ n) && decide (n < 68))
    || (decide (80 ≤ n) && decide (n < 98))
/-- Registers that are RO for every hart (R75): VL, MVL, the integer TOL registers, PBC. -/
def crReadOnly (n : Nat) : Bool :=
  n == 1 || n == 2 || (decide (25 ≤ n) && decide (n < 31)) || (decide (48 ≤ n) && decide (n < 54))
def crWritable (n : Nat) : Bool := crKnown n && !crReadOnly n
/-- Registers of 80 bits (R315). -/
def crWide (n : Nat) : Bool := n == 65 || n == 66 || n == 96

/-- Kinds of view specifier that the columns of R254 admit. -/
def isV (b : BitVec 12) : Bool := match View.ofBits b with | some (.row _) | some (.col _) | some (.diag _) => true | _ => false
def isD (b : BitVec 12) : Bool :=
  match View.ofBits b with | some (.row _) | some (.col _) | some (.diag _) | some (.dq _) => true | _ => false
def isRow (b : BitVec 12) : Bool := match View.ofBits b with | some (.row _) => true | _ => false
def isCol (b : BitVec 12) : Bool := match View.ofBits b with | some (.col _) => true | _ => false
def isG (b : BitVec 12) : Bool := match View.ofBits b with | some (.g _) => true | _ => false
def isVsc (b : BitVec 12) : Bool := match View.ofBits b with | some .vscLo | some .vscHi => true | _ => false
/-- Any source. -/
def isS (b : BitVec 12) : Bool := match View.ofBits b with | some (.dq _) => false | some _ => true | none => false
/-- Any source in the VS2 place, where only VQUANT admits a half of vsc (R254). -/
def isS2 (b : BitVec 12) : Bool := isS b && !isVsc b

/-- Rounding value not reserved (R29). -/
def VV.rmOk (f : VV) : Bool := decide (f.rm.toNat < 6)
/-- A view of a row-block form is a row view (R256). -/
def rowOrOther (b : BitVec 12) : Bool :=
  match View.ofBits b with | some (.col _) | some (.diag _) | some (.dq _) => false | _ => true
def VV.rowsOk (f : VV) : Bool := f.imm.toNat % 64 == 0 || (rowOrOther f.vd && rowOrOther f.vs1 && rowOrOther f.vs2)

/-- Rank of a format pair (R230), `none` for a pair that is not in the table. -/
def MU.rank (f : MU) : Option Nat :=
  match f.fa.toNat, f.fb.toNat with
  | 0, 0 => some 1
  | 1, 1 | 1, 2 | 2, 1 | 2, 2 => some 2
  | 7, 7 => some 8
  | 11, 11 | 11, 12 | 12, 11 | 12, 12 => some 4
  | a, b => if 3 ≤ a ∧ a ≤ 6 ∧ 3 ≤ b ∧ b ≤ 6 then some 4 else none
/-- An integer pair (R230). -/
def MU.isIntPair (f : MU) : Bool := f.fa == 11 || f.fa == 12

/-- Order 4 of R76: every unused field is zero. -/
def Instr.unused : Instr → Bool
  | .add f | .sub f | .mul f | .mulh f | .mulhu f | .div f | .divu f | .rem f | .remu f | .and f | .or f | .xor f | .shl f
   | .shr f | .sra f | .seq f | .sne f | .slt f | .sltu f | .sle f | .sleu f | .min f | .max f | .aadd f | .asub f | .ahig f
   | .fmin f | .fmax f | .fcmpeq f | .fcmplt f | .fcmple f | .stest f | .cmwr f | .nwait f | .npost f => f.zeros true true true false
  | .amovg f | .amova f | .fclass f | .setvl f | .setmvl f | .semclr f | .cmrd f | .launch f | .signal f | .cancel f => f.zeros true true false false
  | .fadd f | .fsub f | .fmul f | .ffma f | .fdiv f => f.zeros true true true true
  | .fsqrt f | .fcvtI f | .fcvtF f | .beq f | .bne f | .blt f | .bltu f | .bge f | .bgeu f => f.zeros true true false true
  | .trap f => f.zeros false true false false
  | .eret f | .nop f | .gexit f => f.zeros false false false false
  | .frqpop f | .ret f => f.zeros true false false false
  | .addi _ | .andi _ | .ori _ | .xori _ | .shli _ | .shri _ | .srai _ | .aaddi _ | .ahi _ | .mop _ | .mopS _ | .mopZ _ | .mopZs _ => true
  | .lui f => f.s1 == 0
  | .semts f | .semtsTry f | .yield f => f.imm.toNat / 2 == 0
  | .barwait f | .pbcrd f => f.s1 == 0 && f.imm.toNat / 8 == 0
  | .barwaitSet f => f.imm.toNat / 8 == 0
  | .yieldGang f => f.s1 == 0 && f.imm.toNat / 2 == 0
  | .bz f | .bnz f | .jr f => f.zeros true false false true
  | .jmp f => f.zeros false false false true
  | .jal f => f.zeros false false true true
  | .movs f => f.s1.toNat / 2 == 0
  | .movd f => f.d.toNat / 2 == 0
  | .ldB f | .ldH f | .ldW f | .ldD f | .lduB f | .lduH f | .lduW f => f.t.toNat / 32 == 0 && (f.acq || f.k == 0) && (f.acq || f.sc == 0) && f.scalarForm
  | .stB f | .stH f | .stW f | .stD f => f.t.toNat / 32 == 0 && f.k == 0 && (f.rel || f.sc == 0) && f.scalarForm
  | .lda f => f.t.toNat / 16 == 0 && (f.acq || f.k == 0) && (f.acq || f.sc == 0) && f.scalarForm
  | .sta f => f.t.toNat / 16 == 0 && f.k == 0 && (f.rel || f.sc == 0) && f.scalarForm
  | .vld f => f.t.toNat / 8 == 0 && f.x == 0 && (f.acq || f.sc == 0)
  | .vlds f | .vldc f => f.t.toNat / 8 == 0 && (f.acq || f.sc == 0)
  | .vldx f => f.t.toNat / 8 == 0 && f.x.toNat / 8 == 0 && (f.acq || f.sc == 0)
  | .vldseg f => f.t.toNat / 8 % 2 == 0 && f.t.toNat / 128 == 0 && (f.acq || f.sc == 0)
  | .vpf f => f.t == 0 && f.k == 0 && f.sc == 0
  | .vst f => f.x == 0 && (f.rel || f.sc == 0)
  | .vsts f => f.rel || f.sc == 0
  | .vstx f => f.x.toNat / 8 == 0 && (f.rel || f.sc == 0)
  | .vstseg f => f.t.toNat / 128 == 0 && (f.rel || f.sc == 0)
  | .drv f => f.a == 0 && f.sc == 0 && f.pi == 0 && f.off == 0
  | .amoadd f | .amoand f | .amoor f | .amoxor f | .amoswp f | .amocas f => f.t.toNat / 64 == 0 && f.k == 0 && f.pi == 0 && (f.acq || f.rel || f.sc == 0)
  | .amomin f | .amomax f => f.t.toNat / 128 == 0 && f.k == 0 && f.pi == 0 && (f.acq || f.rel || f.sc == 0)
  | .vamoadd f => f.vamoForm && !(f.vfp && f.vu) && !f.vu
  | .vamomin f | .vamomax f => f.vamoForm && !(f.vfp && f.vu)
  | .vamoswp f => f.vamoForm && !f.vfp && !f.vu
  | .gll f => f.t.toNat / 8 == 0 && f.x.toNat / 8 == 0 && f.pi == 0 && (f.acq || f.sc == 0)
  | .scc f => f.x.toNat / 8 == 0 && f.pi == 0 && (f.rel || f.sc == 0)
  | .fence f => f.t == 0 && f.a == 0 && f.x == 0 && f.k == 0 && f.pi == 0 && f.off == 0
  | .bararr f => f.t.toNat / 4 == 0 && f.a == 0 && f.x == 0 && f.k == 0 && f.pi == 0 && f.off == 0
  | .cpy f | .cpyb f => f.s2 == 0 && f.imm.toNat / 2 ^ 17 == 0 && f.chunkForm
  | .cpyx f => f.s1 == 0 && f.s2 == 0 && f.imm.toNat / 2 ^ 17 == 0 && f.chunkForm
  | .cpym f => f.imm.toNat / 2 ^ 17 == 0 && f.chunkForm
  | .cpst f => f.a == 0 && f.s1 == 0 && f.s2 == 0 && f.k == 0 && f.sc == 0 && f.imm.toNat / 2 ^ 6 == 0
  | .cpstWait f => f.a == 0 && f.s1 == 0 && f.s2 == 0 && f.k == 0 && f.imm.toNat / 2 ^ 6 == 0
  | .catq f => f.k == 0 && f.imm.toNat / 2 ^ 16 == 0
  | .catu f => f.k == 0 && f.imm == 0
  | .folmap f => f.s2 == 0 && f.k == 0 && f.sc == 0 && f.imm.toNat / 2 == 0
  | .folmapU f => f.s1 == 0 && f.s2 == 0 && f.k == 0 && f.sc == 0 && f.imm.toNat / 2 == 0
  | .folref f | .foldrop f => f.a == 0 && f.s2 == 0 && f.k == 0 && f.sc == 0 && f.imm == 0
  | .vadd f | .vsub f | .vmul f | .vscaleb f | .vfma f | .vfms f | .vfnma f => f.zeros true true true true true true false && f.imm.toNat / 64 == 0
  | .vmin f | .vmax f | .vand f | .vor f | .vxor f | .vshl f | .vshr f | .vsra f | .vsel f => f.zeros true true true true false false false && f.imm.toNat / 64 == 0
  | .vabs f | .vneg f => f.zeros true true false true false true false && f.imm.toNat / 64 == 0
  | .vrcpe f | .vrsqe f | .vgetexp f | .vmov f => f.zeros true true false true false false false && f.imm.toNat / 64 == 0
  | .vrint f => f.zeros true true false true true false false && f.imm.toNat / 64 == 0
  | .vcmpeq f | .vcmpne f | .vcmplt f | .vcmple f | .vcmpltu f | .vcmpleu f => f.zeros false true true true false false false && f.imm.toNat / 8 == 0
  | .kand f | .kor f | .kxor f => f.zeros false false false false false false true && f.fx.toNat / 8 == 0 && f.imm.toNat / 64 == 0
  | .knot f | .kmov f => f.zeros false false false false false false false && f.imm.toNat / 64 == 0
  | .kpop f | .kfirst f => f.zeros true false false false false false false && f.imm.toNat % 8 == 0 && f.imm.toNat / 64 == 0
  | .kpois f => f.zeros false true false true false false false && f.imm.toNat / 8 == 0
  | .vbcast f | .vrot f | .vrmax f | .vrmin f | .vramax f | .vrexp f | .vrbx f | .setsc f => f.zeros true true false true false false false
  | .vcompress f | .vexpand f | .bxacc f => f.zeros true true false true false false false && f.imm == 0
  | .vzero f => f.zeros true false false true false false false && f.imm.toNat / 64 == 0
  | .vperm f => f.zeros true true true true false false false && f.imm == 0
  | .gxpose f => f.zeros true true false false false false false && f.imm == 0
  | .vtag f => f.zeros true false false false false false false && f.imm.toNat / 16 == 0
  | .vrsum f => f.zeros true true false true true true false
  | .cvtN f => f.zeros true true true false true true true && f.imm == 0
  | .cvtW f => f.zeros true true false false false false true && f.imm == 0
  | .cvtF4 f | .cvtI f | .bxcvt f => f.zeros true true false false true true true && f.imm == 0
  | .cvtF f => f.zeros true true false false true false true && f.imm == 0
  | .vquant f => f.zeros true true true false true false true
  | .bxadd f => f.zeros true true true false false false false && f.imm == 0
  | .bxanch f => f.zeros true true true false false false true && f.fx.toNat / 2 == 0 && f.imm == 0
  | .bxanchI f => f.zeros true false true false false false true && f.fx.toNat / 2 == 0 && f.imm == 0
  | .ckclr f | .cape f => f.d == 0 && f.s1 == 0 && f.hs == 0 && f.imm == 0
  | .ckchk f => f.s1 == 0 && f.imm == 0
  | .ckloc f => f.d.toNat / 8 == 0 && f.s1 == 0 && f.hs == 0 && f.imm.toNat / 4 == 0
  | .ckfix f => f.hs == 0 && f.imm == 0
  | .ckrdRow f | .ckrdCol f => f.hs == 0 && f.imm.toNat / 2 ^ 12 == 0
  | .ckrdSt f => f.s1 == 0 && f.hs == 0 && f.imm.toNat / 2 ^ 12 == 0 && f.imm.toNat % 256 == 0 && f.imm.toNat / 2 ^ 10 == 0
  | .ckinj f => f.d == 0 && f.hs == 0 && f.imm.toNat / 2 ^ 17 == 0
  | .ckinjP f => f.d == 0 && f.s1 == 0 && f.hs == 0 && f.imm.toNat / 2 ^ 17 == 0
  | .capb f => f.s1 == 0 && f.hs == 0 && f.imm == 0
  | .capr f => f.d == 0 && f.hs == 0 && f.imm == 0
  | .capx f => f.d == 0 && f.hs == 0 && f.imm.toNat / 4 == 0
  | .capxSaved f | .capxFirst f => f.d == 0 && f.s1 == 0 && f.hs == 0 && f.imm.toNat / 4 == 0
  | .packetIssue | .packetRetire | .vWriteback | .updateWriteback | .vectorAccessComplete | .scalarAccessComplete
   | .translationWalk | .writeHomeMoment | .writeDomainMoment | .writeSystemMoment | .copyCommandStart | .copyChunkVisible
   | .barrierCredit | .copyCommandComplete | .catalogueCommandComplete | .xltInv | .invalidationDone | .memIlvWrite | .dieBootGo
   | .xltCtxbaseWrite | .schedCtlWrite | .saveStallClear | .lmapWrite | .latWrite | .pgseedWrite | .protectedModeEnable
   | .registerWrite | .gangPlace | .gangResume | .reclaimMark | .reclaimTimeout | .saveUnit | .groupRelease | .groupPowerGate
   | .gangEnd | .notifyEvaluate | .notifyPoll | .yieldWake | .stestDone | .stestAbort | .laneShadowRotate | .retrainDone
   | .flitCrcError | .linkDown | .roundStart | .heartbeatReceive | .roundEnd | .orphanCompletion | .fencedSelftestDone
   | .rdmaWrite | .rdmaRead | .atomicCompareAndSwap | .atomicFetchAndAdd | .invalidRequest | .priorityFlowControl
   | .congestionNotification | .ptpMessage | .getVersion | .getCapabilities | .negotiateAlgorithms | .getDigests | .getCertificate
   | .challenge | .getMeasurements | .pldmPlatformMonitoring | .pldmFirmwareUpdate | .endpointIdentifierAssign | .eepromRead
   | .eepromWrite | .reset | .evacGo | .evacAbort | .evacSaveDone | .evacOffer | .evacOfferAnswer | .evacOfferTimeout
   | .evacCopyDone | .evacDrainDone | .evacTimeout | .evacArm | .evacDisarm | .evacAdopt | .evacClaim | .evacClaimAnswer
   | .evacClaimTimeout | .thermalThrottle | .pepperGeneratorStep | .evacFreezeDone | .firmwareRetrain | .bladePull
   | .queuePairConnect | .managementControllerAccess => true

/-- Order 5 of R76: no reserved value. -/
def Instr.values : Instr → Bool
  | .add _ | .sub _ | .mul _ | .mulh _ | .mulhu _ | .div _ | .divu _ | .rem _ | .remu _ | .and _ | .or _ | .xor _ | .shl _
   | .shr _ | .sra _ | .seq _ | .sne _ | .slt _ | .sltu _ | .sle _ | .sleu _ | .min _ | .max _ | .fmin _ | .fmax _ | .fcmpeq _
   | .fcmplt _ | .fcmple _ | .fclass _ | .setvl _ | .setmvl _ | .trap _ | .eret _ | .stest _ | .nop _ | .semclr _ | .cmrd _
   | .cmwr _ | .signal _ | .cancel _ | .nwait _ | .npost _ | .gexit _ | .addi _ | .andi _ | .ori _ | .xori _ | .lui _ | .beq _
   | .bne _ | .blt _ | .bltu _ | .bge _ | .bgeu _ | .bz _ | .bnz _ | .jmp _ | .folref _ | .foldrop _ | .kand _ | .kor _ | .kxor _
   | .knot _ | .kmov _ | .ckclr _ | .ckloc _ | .ckfix _ | .capb _ | .cape _ | .capr _ => true
  | .aadd f | .ahig f | .aaddi f => aReg f.d && aReg f.s1
  | .asub f => aReg f.s1 && aReg f.s2
  | .amovg f | .jal f => aReg f.d
  | .amova f | .launch f | .jr f | .ret f => aReg f.s1
  | .fadd f | .fsub f | .fmul f | .ffma f | .fdiv f | .fsqrt f | .fcvtI f | .fcvtF f => decide (f.rm.toNat < 5)
  | .frqpop f => f.d != 0 && f.d.toNat % 4 == 0
  | .shli f | .shri f | .srai f => decide (f.imm.toNat < 64)
  | .ahi f => aReg f.d && aReg f.s1 && decide (f.imm.toNat < 65536)
  | .semts f | .yield f | .folmap f => f.imm.toNat % 2 == 0
  | .semtsTry f | .yieldGang f | .folmapU f => f.imm.toNat % 2 == 1
  | .barwait f => f.imm.toNat / 4 % 2 == 0
  | .barwaitSet f => f.imm.toNat / 4 % 2 == 1
  | .pbcrd f => decide (f.imm.toNat % 8 < 6)
  | .movs f => crKnown f.cr.toNat
  | .movd f => crWritable f.cr.toNat && (f.d.toNat % 2 == 0 || crWide f.cr.toNat)
  | .ldB f | .ldH f | .ldW f | .ldD f | .lduB f | .lduH f | .lduW f | .lda f | .vldc f => f.qIn [0, 2] && f.scOk
  | .stB f | .stH f | .stW f | .stD f | .sta f => f.qIn [0, 3] && f.scOk
  | .vld f | .vlds f | .vldx f | .gll f => f.qIn [0, 1, 2, 4] && f.scOk
  | .vldseg f => f.qIn [0, 1, 2, 4] && f.scOk && f.segOk
  | .vpf f => f.qIn [0]
  | .vst f | .vsts f | .vstx f | .scc f => f.qIn [0, 1, 3, 5] && f.scOk && (f.t == 8 || f.t == 9)
  | .vstseg f => f.qIn [0, 1, 3, 5] && f.scOk && (f.t.toNat % 16 == 8 || f.t.toNat % 16 == 9) && f.segOk
  | .drv f => f.qIn [0] && f.x.toNat / 8 != 3 && decide (f.x.toNat % 8 < 2)
  | .amoadd f | .amomin f | .amomax f | .amoand f | .amoor f | .amoxor f | .amoswp f | .amocas f => f.qIn [0, 2, 3] && f.scOk
  | .vamoadd f | .vamomin f | .vamomax f | .vamoswp f => f.qIn [0, 1, 2, 3, 4, 5] && f.scOk
  | .fence f | .bararr f => f.qIn [0] && f.scOk
  | .cpy f | .cpyx f | .cpym f | .cpyb f | .catu f | .catq f => decide (f.sc.toNat < 6)
  | .cpst f => f.imm.toNat / 32 % 2 == 0
  | .cpstWait f => decide (f.sc.toNat < 6) && f.imm.toNat / 32 % 2 == 1
  | .vadd f | .vsub f | .vmul f | .vscaleb f => isD f.vd && isS f.vs1 && isS2 f.vs2 && f.rmOk && f.rowsOk
  | .vfma f | .vfms f | .vfnma f => isV f.vd && isS f.vs1 && isS2 f.vs2 && f.rmOk && f.rowsOk
  | .vmin f | .vmax f | .vand f | .vor f | .vxor f | .vshl f | .vshr f | .vsra f | .vsel f => isD f.vd && isS f.vs1 && isS2 f.vs2 && f.rowsOk
  | .vabs f | .vneg f | .vrcpe f | .vrsqe f | .vgetexp f | .vmov f => isD f.vd && isS f.vs1 && f.rowsOk
  | .vrint f => isD f.vd && isS f.vs1 && f.rmOk && f.rowsOk
  | .vcmpeq f | .vcmpne f | .vcmplt f | .vcmple f | .vcmpltu f | .vcmpleu f => isS f.vs1 && isS2 f.vs2
  | .kpop f | .kfirst f => isV f.vd
  | .kpois f => isS f.vs1
  | .vbcast f | .vrot f | .vcompress f | .vexpand f => isD f.vd && isS f.vs1
  | .vzero f => isV f.vd && f.rowsOk
  | .vperm f => isD f.vd && isS f.vs1 && isS2 f.vs2
  | .gxpose f => isRow f.vd && isCol f.vs1
  | .vtag f => isRow f.vd && decide (f.imm.toNat < 9)
  | .vrsum f => isV f.vd && isS f.vs1 && f.rmOk
  | .vrmax f | .vrmin f | .vramax f | .vrexp f => isV f.vd && isS f.vs1
  | .vrbx f => isRow f.vd && isS f.vs1 && decide (f.imm.toNat < 32)
  | .cvtN f => isRow f.vd && isRow f.vs1 && isRow f.vs2 && f.rmOk && [1, 2, 3, 4, 7].contains f.fx.toNat
  | .cvtW f => isRow f.vd && isRow f.vs1 && [0, 1, 2, 3, 4].contains f.fx.toNat && f.vd.toNat % 2 == 0
  | .cvtF4 f => isRow f.vd && isRow f.vs1 && f.rmOk && [7].contains f.fx.toNat && f.vs1.toNat % 8 == 0
  | .cvtI f => isRow f.vd && isRow f.vs1 && f.rmOk && [9].contains f.fx.toNat
  | .bxcvt f => isRow f.vd && isRow f.vs1 && f.rmOk && [0, 1, 2].contains f.fx.toNat
  | .cvtF f => isRow f.vd && isRow f.vs1 && f.rmOk && [0].contains f.fx.toNat
  | .vquant f => isRow f.vd && isS f.vs1 && isVsc f.vs2 && f.rmOk && [3, 4, 7].contains f.fx.toNat
  | .setsc f => isVsc f.vd && isS f.vs1
  | .bxadd f => isRow f.vd && isRow f.vs1 && isRow f.vs2
  | .bxacc f => isRow f.vd && isS f.vs1 && f.vd.toNat % 8 == 0
  | .bxanch f => isRow f.vd && isRow f.vs1 && isG f.vs2 && f.fx.toNat % 2 == 0
  | .bxanchI f => isRow f.vd && isG f.vs2 && f.fx.toNat % 2 == 1
  | .mop f | .mopZ f => f.hs != 3 && (f.rank).isSome
  | .mopS f | .mopZs f => f.hs != 3 && (f.rank).isSome && !f.isIntPair
  | .ckchk f => f.hs != 3
  | .ckrdRow f => f.imm.toNat / 256 % 4 == 0
  | .ckrdCol f => f.imm.toNat / 256 % 4 == 1
  | .ckrdSt f => f.imm.toNat / 256 % 4 == 2
  | .ckinj f => f.imm.toNat / 65536 % 2 == 0
  | .ckinjP f => f.imm.toNat / 65536 % 2 == 1
  | .capx f => f.imm.toNat % 4 == 0
  | .capxSaved f => f.imm.toNat % 4 == 1
  | .capxFirst f => f.imm.toNat % 4 == 2
  | .packetIssue | .packetRetire | .vWriteback | .updateWriteback | .vectorAccessComplete | .scalarAccessComplete
   | .translationWalk | .writeHomeMoment | .writeDomainMoment | .writeSystemMoment | .copyCommandStart | .copyChunkVisible
   | .barrierCredit | .copyCommandComplete | .catalogueCommandComplete | .xltInv | .invalidationDone | .memIlvWrite | .dieBootGo
   | .xltCtxbaseWrite | .schedCtlWrite | .saveStallClear | .lmapWrite | .latWrite | .pgseedWrite | .protectedModeEnable
   | .registerWrite | .gangPlace | .gangResume | .reclaimMark | .reclaimTimeout | .saveUnit | .groupRelease | .groupPowerGate
   | .gangEnd | .notifyEvaluate | .notifyPoll | .yieldWake | .stestDone | .stestAbort | .laneShadowRotate | .retrainDone
   | .flitCrcError | .linkDown | .roundStart | .heartbeatReceive | .roundEnd | .orphanCompletion | .fencedSelftestDone
   | .rdmaWrite | .rdmaRead | .atomicCompareAndSwap | .atomicFetchAndAdd | .invalidRequest | .priorityFlowControl
   | .congestionNotification | .ptpMessage | .getVersion | .getCapabilities | .negotiateAlgorithms | .getDigests | .getCertificate
   | .challenge | .getMeasurements | .pldmPlatformMonitoring | .pldmFirmwareUpdate | .endpointIdentifierAssign | .eepromRead
   | .eepromWrite | .reset | .evacGo | .evacAbort | .evacSaveDone | .evacOffer | .evacOfferAnswer | .evacOfferTimeout
   | .evacCopyDone | .evacDrainDone | .evacTimeout | .evacArm | .evacDisarm | .evacAdopt | .evacClaim | .evacClaimAnswer
   | .evacClaimTimeout | .thermalThrottle | .pepperGeneratorStep | .evacFreezeDone | .firmwareRetrain | .bladePull
   | .queuePairConnect | .managementControllerAccess => true

/-- Further encodings that R176 refuses with subcause 6. -/
def Instr.selfConflict : Instr → Bool
  | .vldx f | .gll f => f.t.toNat % 8 == f.x.toNat % 8
  | .vamoadd f | .vamomin f | .vamomax f | .vamoswp f => f.vret && f.t.toNat / 2 % 8 == f.x.toNat % 8
  | .lda f => f.pi == 1 && f.t.toNat % 16 == f.a.toNat
  | _ => false

/-- A well-formed instruction passes orders 4 and 5 of R76. -/
def Instr.wf (i : Instr) : Bool := i.unused && i.values

end Sys2Proof
end

