-- ==== Sys2Proof/Decode.lean ====
section
/-! DEFINITION. The decoder of packets and slots (R47, R48, R61 to R73, R76) and the encoder of slots, both from the format and opcode
tables of 02_packets_and_registers.md. -/
namespace Sys2Proof

/-! Formats: the fields of a slot word, and the word of an opcode and fields (R64 to R66, R68, R306). -/
def SR.of (w : Word) : SR := { d := fld w 55 51, s1 := fld w 50 46, s2 := fld w 45 41, rm := fld w 40 38 }
def SR.enc (f : SR) (op : Byte) : Word := op ++ f.d ++ f.s1 ++ f.s2 ++ f.rm ++ 0#38
def SI.of (w : Word) : SI := { d := fld w 55 51, s1 := fld w 50 46, imm := fld w 45 5 }
def SI.enc (f : SI) (op : Byte) : Word := op ++ f.d ++ f.s1 ++ f.imm ++ 0#5
def SB.of (w : Word) : SB := { s1 := fld w 55 51, s2 := fld w 50 46, d := fld w 45 41, off := fld w 40 0 }
def SB.enc (f : SB) (op : Byte) : Word := op ++ f.s1 ++ f.s2 ++ f.d ++ f.off
def SC.of (w : Word) : SC := { d := fld w 55 51, s1 := fld w 50 46, cr := fld w 45 34 }
def SC.enc (f : SC) (op : Byte) : Word := op ++ f.d ++ f.s1 ++ f.cr ++ 0#34
def LM.of (w : Word) : LM :=
  { t := fld w 55 48, a := fld w 47 44, x := fld w 43 39, k := fld w 38 36, q := fld w 35 33, sc := fld w 32 30, pi := fld w 29 29,
    off := fld w 28 0 }
def LM.enc (f : LM) (op : Byte) : Word := op ++ f.t ++ f.a ++ f.x ++ f.k ++ f.q ++ f.sc ++ f.pi ++ f.off
def LC.of (w : Word) : LC :=
  { d := fld w 55 51, a := fld w 47 44, s1 := fld w 43 39, s2 := fld w 38 34, k := fld w 33 31, sc := fld w 30 28, imm := fld w 27 0 }
def LC.enc (f : LC) (op : Byte) : Word := op ++ f.d ++ 0#3 ++ f.a ++ f.s1 ++ f.s2 ++ f.k ++ f.sc ++ f.imm
def VV.of (w : Word) : VV :=
  { vd := fld w 55 44, vs1 := fld w 43 32, vs2 := fld w 31 20, k := fld w 19 17, rm := fld w 16 14, sat := fld w 13 13, fx := fld w 12 8,
    imm := fld w 7 0 }
def VV.enc (f : VV) (op : Byte) : Word := op ++ f.vd ++ f.vs1 ++ f.vs2 ++ f.k ++ f.rm ++ f.sat ++ f.fx ++ f.imm
def MU.of (w : Word) : MU := { qa := fld w 54 52, qb := fld w 50 48, hs := fld w 47 46, fa := fld w 45 41, fb := fld w 40 36 }
def MU.enc (f : MU) (op : Byte) : Word := op ++ 0#1 ++ f.qa ++ 0#1 ++ f.qb ++ f.hs ++ f.fa ++ f.fb ++ 0#36
def MC.of (w : Word) : MC := { d := fld w 55 51, s1 := fld w 50 46, hs := fld w 45 44, imm := fld w 31 0 }
def MC.enc (f : MC) (op : Byte) : Word := op ++ f.d ++ f.s1 ++ f.hs ++ 0#12 ++ f.imm

/-- S-slot opcode map (R70). -/
def decodeS (op : Nat) (w : Word) : Option Instr :=
  match op with
  | 0x01 => some (.add (.of w))
  | 0x02 => some (.sub (.of w))
  | 0x03 => some (.mul (.of w))
  | 0x04 => some (.mulh (.of w))
  | 0x05 => some (.mulhu (.of w))
  | 0x06 => some (.div (.of w))
  | 0x07 => some (.divu (.of w))
  | 0x08 => some (.rem (.of w))
  | 0x09 => some (.remu (.of w))
  | 0x0A => some (.and (.of w))
  | 0x0B => some (.or (.of w))
  | 0x0C => some (.xor (.of w))
  | 0x0D => some (.shl (.of w))
  | 0x0E => some (.shr (.of w))
  | 0x0F => some (.sra (.of w))
  | 0x10 => some (.addi (.of w))
  | 0x11 => some (.andi (.of w))
  | 0x12 => some (.ori (.of w))
  | 0x13 => some (.xori (.of w))
  | 0x14 => some (.shli (.of w))
  | 0x15 => some (.shri (.of w))
  | 0x16 => some (.srai (.of w))
  | 0x17 => some (.lui (.of w))
  | 0x18 => some (.seq (.of w))
  | 0x19 => some (.sne (.of w))
  | 0x1A => some (.slt (.of w))
  | 0x1B => some (.sltu (.of w))
  | 0x1C => some (.sle (.of w))
  | 0x1D => some (.sleu (.of w))
  | 0x1E => some (.min (.of w))
  | 0x1F => some (.max (.of w))
  | 0x20 => some (.aadd (.of w))
  | 0x21 => some (.aaddi (.of w))
  | 0x22 => some (.asub (.of w))
  | 0x23 => some (.amovg (.of w))
  | 0x24 => some (.amova (.of w))
  | 0x25 => some (.ahi (.of w))
  | 0x26 => some (.ahig (.of w))
  | 0x28 => some (.fadd (.of w))
  | 0x29 => some (.fsub (.of w))
  | 0x2A => some (.fmul (.of w))
  | 0x2B => some (.ffma (.of w))
  | 0x2C => some (.fdiv (.of w))
  | 0x2D => some (.fsqrt (.of w))
  | 0x2E => some (.fmin (.of w))
  | 0x2F => some (.fmax (.of w))
  | 0x30 => some (.fcmpeq (.of w))
  | 0x31 => some (.fcmplt (.of w))
  | 0x32 => some (.fcmple (.of w))
  | 0x33 => some (.fcvtI (.of w))
  | 0x34 => some (.fcvtF (.of w))
  | 0x35 => some (.fclass (.of w))
  | 0x50 => some (.beq (.of w))
  | 0x51 => some (.bne (.of w))
  | 0x52 => some (.blt (.of w))
  | 0x53 => some (.bltu (.of w))
  | 0x54 => some (.bge (.of w))
  | 0x55 => some (.bgeu (.of w))
  | 0x56 => some (.bz (.of w))
  | 0x57 => some (.bnz (.of w))
  | 0x58 => some (.jmp (.of w))
  | 0x59 => some (.jal (.of w))
  | 0x5A => some (.jr (.of w))
  | 0x5B => some (.ret (.of w))
  | 0x60 => some (.movs (.of w))
  | 0x61 => some (.movd (.of w))
  | 0x62 => some (.setvl (.of w))
  | 0x63 => some (.setmvl (.of w))
  | 0x70 => some (if w.getLsbD 5 then .semtsTry (.of w) else .semts (.of w))
  | 0x71 => some (.semclr (.of w))
  | 0x72 => some (.cmrd (.of w))
  | 0x73 => some (.cmwr (.of w))
  | 0x74 => some (if w.getLsbD 7 then .barwaitSet (.of w) else .barwait (.of w))
  | 0x75 => some (.launch (.of w))
  | 0x76 => some (.signal (.of w))
  | 0x77 => some (.cancel (.of w))
  | 0x78 => some (.nwait (.of w))
  | 0x79 => some (.npost (.of w))
  | 0x7A => some (if w.getLsbD 5 then .yieldGang (.of w) else .yield (.of w))
  | 0x7B => some (.gexit (.of w))
  | 0x7C => some (.pbcrd (.of w))
  | 0xE0 => some (.trap (.of w))
  | 0xE1 => some (.eret (.of w))
  | 0xE2 => some (.stest (.of w))
  | 0xE3 => some (.nop (.of w))
  | 0xE4 => some (.frqpop (.of w))
  | _ => none

/-- L-slot opcode map (R71). -/
def decodeL (op : Nat) (w : Word) : Option Instr :=
  match op with
  | 0x01 => some (.ldB (.of w))
  | 0x02 => some (.ldH (.of w))
  | 0x03 => some (.ldW (.of w))
  | 0x04 => some (.ldD (.of w))
  | 0x05 => some (.lduB (.of w))
  | 0x06 => some (.lduH (.of w))
  | 0x07 => some (.lduW (.of w))
  | 0x08 => some (.stB (.of w))
  | 0x09 => some (.stH (.of w))
  | 0x0A => some (.stW (.of w))
  | 0x0B => some (.stD (.of w))
  | 0x0C => some (.lda (.of w))
  | 0x0D => some (.sta (.of w))
  | 0x10 => some (.vld (.of w))
  | 0x11 => some (.vlds (.of w))
  | 0x12 => some (.vldseg (.of w))
  | 0x13 => some (.vldx (.of w))
  | 0x14 => some (.vldc (.of w))
  | 0x15 => some (.vpf (.of w))
  | 0x18 => some (.vst (.of w))
  | 0x19 => some (.vsts (.of w))
  | 0x1A => some (.vstseg (.of w))
  | 0x1B => some (.vstx (.of w))
  | 0x1C => some (.drv (.of w))
  | 0x20 => some (.amoadd (.of w))
  | 0x21 => some (.amomin (.of w))
  | 0x22 => some (.amomax (.of w))
  | 0x23 => some (.amoand (.of w))
  | 0x24 => some (.amoor (.of w))
  | 0x25 => some (.amoxor (.of w))
  | 0x26 => some (.amoswp (.of w))
  | 0x27 => some (.amocas (.of w))
  | 0x28 => some (.vamoadd (.of w))
  | 0x29 => some (.vamomin (.of w))
  | 0x2A => some (.vamomax (.of w))
  | 0x2B => some (.vamoswp (.of w))
  | 0x2C => some (.gll (.of w))
  | 0x2D => some (.scc (.of w))
  | 0x30 => some (.fence (.of w))
  | 0x31 => some (.bararr (.of w))
  | 0x40 => some (.cpy (.of w))
  | 0x41 => some (.cpyx (.of w))
  | 0x42 => some (.cpym (.of w))
  | 0x43 => some (.cpyb (.of w))
  | 0x44 => some (if w.getLsbD 5 then .cpstWait (.of w) else .cpst (.of w))
  | 0x50 => some (.catq (.of w))
  | 0x51 => some (.catu (.of w))
  | 0x52 => some (if w.getLsbD 0 then .folmapU (.of w) else .folmap (.of w))
  | 0x53 => some (.folref (.of w))
  | 0x54 => some (.foldrop (.of w))
  | _ => none

/-- V-slot opcode map (R72). -/
def decodeV (op : Nat) (w : Word) : Option Instr :=
  match op with
  | 0x01 => some (.vadd (.of w))
  | 0x02 => some (.vsub (.of w))
  | 0x03 => some (.vmul (.of w))
  | 0x04 => some (.vfma (.of w))
  | 0x05 => some (.vfms (.of w))
  | 0x06 => some (.vfnma (.of w))
  | 0x07 => some (.vmin (.of w))
  | 0x08 => some (.vmax (.of w))
  | 0x09 => some (.vabs (.of w))
  | 0x0A => some (.vneg (.of w))
  | 0x0B => some (.vand (.of w))
  | 0x0C => some (.vor (.of w))
  | 0x0D => some (.vxor (.of w))
  | 0x0E => some (.vshl (.of w))
  | 0x0F => some (.vshr (.of w))
  | 0x10 => some (.vsra (.of w))
  | 0x11 => some (.vrcpe (.of w))
  | 0x12 => some (.vrsqe (.of w))
  | 0x13 => some (.vgetexp (.of w))
  | 0x14 => some (.vscaleb (.of w))
  | 0x15 => some (.vrint (.of w))
  | 0x20 => some (.vcmpeq (.of w))
  | 0x21 => some (.vcmpne (.of w))
  | 0x22 => some (.vcmplt (.of w))
  | 0x23 => some (.vcmple (.of w))
  | 0x24 => some (.vcmpltu (.of w))
  | 0x25 => some (.vcmpleu (.of w))
  | 0x26 => some (.kand (.of w))
  | 0x27 => some (.kor (.of w))
  | 0x28 => some (.kxor (.of w))
  | 0x29 => some (.knot (.of w))
  | 0x2A => some (.kmov (.of w))
  | 0x2B => some (.kpop (.of w))
  | 0x2C => some (.kpois (.of w))
  | 0x2D => some (.kfirst (.of w))
  | 0x30 => some (.vsel (.of w))
  | 0x31 => some (.vbcast (.of w))
  | 0x32 => some (.vmov (.of w))
  | 0x33 => some (.vzero (.of w))
  | 0x34 => some (.vperm (.of w))
  | 0x35 => some (.vrot (.of w))
  | 0x36 => some (.gxpose (.of w))
  | 0x37 => some (.vtag (.of w))
  | 0x38 => some (.vcompress (.of w))
  | 0x39 => some (.vexpand (.of w))
  | 0x40 => some (.vrsum (.of w))
  | 0x41 => some (.vrmax (.of w))
  | 0x42 => some (.vrmin (.of w))
  | 0x43 => some (.vramax (.of w))
  | 0x44 => some (.vrbx (.of w))
  | 0x45 => some (.vrexp (.of w))
  | 0x50 => some (.cvtN (.of w))
  | 0x51 => some (.cvtW (.of w))
  | 0x52 => some (.cvtF4 (.of w))
  | 0x53 => some (.cvtI (.of w))
  | 0x54 => some (.cvtF (.of w))
  | 0x55 => some (.vquant (.of w))
  | 0x56 => some (.setsc (.of w))
  | 0x57 => some (.bxadd (.of w))
  | 0x58 => some (.bxacc (.of w))
  | 0x59 => some (if w.getLsbD 8 then .bxanchI (.of w) else .bxanch (.of w))
  | 0x5A => some (.bxcvt (.of w))
  | _ => none

/-- M-slot opcode map (R73). -/
def decodeM (op : Nat) (w : Word) : Option Instr :=
  match op with
  | 0x01 => some (.mop (.of w))
  | 0x02 => some (.mopS (.of w))
  | 0x03 => some (.mopZ (.of w))
  | 0x04 => some (.mopZs (.of w))
  | 0x20 => some (.ckclr (.of w))
  | 0x21 => some (.ckchk (.of w))
  | 0x22 => some (.ckloc (.of w))
  | 0x23 => some (.ckfix (.of w))
  | 0x24 => some (match fldN w 9 8 with | 1 => .ckrdCol (.of w) | 2 => .ckrdSt (.of w) | _ => .ckrdRow (.of w))
  | 0x25 => some (if w.getLsbD 16 then .ckinjP (.of w) else .ckinj (.of w))
  | 0x30 => some (.capb (.of w))
  | 0x31 => some (.cape (.of w))
  | 0x32 => some (.capr (.of w))
  | 0x33 => some (match fldN w 1 0 with | 1 => .capxSaved (.of w) | 2 => .capxFirst (.of w) | _ => .capx (.of w))
  | _ => none

/-- Opcode map of a class. -/
def decodeOp (c : Cls) (op : Nat) (w : Word) : Option Instr :=
  match c with
  | .S => decodeS op w
  | .L => decodeL op w
  | .V => decodeV op w
  | .M => decodeM op w

/-- The slot word of an instruction; a row that is no slot has none and answers 0. -/
def encode : Instr → Word
  | .add f => f.enc 0x01#8
  | .sub f => f.enc 0x02#8
  | .mul f => f.enc 0x03#8
  | .mulh f => f.enc 0x04#8
  | .mulhu f => f.enc 0x05#8
  | .div f => f.enc 0x06#8
  | .divu f => f.enc 0x07#8
  | .rem f => f.enc 0x08#8
  | .remu f => f.enc 0x09#8
  | .and f => f.enc 0x0A#8
  | .or f => f.enc 0x0B#8
  | .xor f => f.enc 0x0C#8
  | .shl f => f.enc 0x0D#8
  | .shr f => f.enc 0x0E#8
  | .sra f => f.enc 0x0F#8
  | .addi f => f.enc 0x10#8
  | .andi f => f.enc 0x11#8
  | .ori f => f.enc 0x12#8
  | .xori f => f.enc 0x13#8
  | .shli f => f.enc 0x14#8
  | .shri f => f.enc 0x15#8
  | .srai f => f.enc 0x16#8
  | .lui f => f.enc 0x17#8
  | .seq f => f.enc 0x18#8
  | .sne f => f.enc 0x19#8
  | .slt f => f.enc 0x1A#8
  | .sltu f => f.enc 0x1B#8
  | .sle f => f.enc 0x1C#8
  | .sleu f => f.enc 0x1D#8
  | .min f => f.enc 0x1E#8
  | .max f => f.enc 0x1F#8
  | .aadd f => f.enc 0x20#8
  | .aaddi f => f.enc 0x21#8
  | .asub f => f.enc 0x22#8
  | .amovg f => f.enc 0x23#8
  | .amova f => f.enc 0x24#8
  | .ahi f => f.enc 0x25#8
  | .ahig f => f.enc 0x26#8
  | .fadd f => f.enc 0x28#8
  | .fsub f => f.enc 0x29#8
  | .fmul f => f.enc 0x2A#8
  | .ffma f => f.enc 0x2B#8
  | .fdiv f => f.enc 0x2C#8
  | .fsqrt f => f.enc 0x2D#8
  | .fmin f => f.enc 0x2E#8
  | .fmax f => f.enc 0x2F#8
  | .fcmpeq f => f.enc 0x30#8
  | .fcmplt f => f.enc 0x31#8
  | .fcmple f => f.enc 0x32#8
  | .fcvtI f => f.enc 0x33#8
  | .fcvtF f => f.enc 0x34#8
  | .fclass f => f.enc 0x35#8
  | .beq f => f.enc 0x50#8
  | .bne f => f.enc 0x51#8
  | .blt f => f.enc 0x52#8
  | .bltu f => f.enc 0x53#8
  | .bge f => f.enc 0x54#8
  | .bgeu f => f.enc 0x55#8
  | .bz f => f.enc 0x56#8
  | .bnz f => f.enc 0x57#8
  | .jmp f => f.enc 0x58#8
  | .jal f => f.enc 0x59#8
  | .jr f => f.enc 0x5A#8
  | .ret f => f.enc 0x5B#8
  | .movs f => f.enc 0x60#8
  | .movd f => f.enc 0x61#8
  | .setvl f => f.enc 0x62#8
  | .setmvl f => f.enc 0x63#8
  | .semts f => f.enc 0x70#8
  | .semtsTry f => f.enc 0x70#8
  | .semclr f => f.enc 0x71#8
  | .cmrd f => f.enc 0x72#8
  | .cmwr f => f.enc 0x73#8
  | .barwait f => f.enc 0x74#8
  | .barwaitSet f => f.enc 0x74#8
  | .launch f => f.enc 0x75#8
  | .signal f => f.enc 0x76#8
  | .cancel f => f.enc 0x77#8
  | .nwait f => f.enc 0x78#8
  | .npost f => f.enc 0x79#8
  | .yield f => f.enc 0x7A#8
  | .yieldGang f => f.enc 0x7A#8
  | .gexit f => f.enc 0x7B#8
  | .pbcrd f => f.enc 0x7C#8
  | .trap f => f.enc 0xE0#8
  | .eret f => f.enc 0xE1#8
  | .stest f => f.enc 0xE2#8
  | .nop f => f.enc 0xE3#8
  | .frqpop f => f.enc 0xE4#8
  | .ldB f => f.enc 0x01#8
  | .ldH f => f.enc 0x02#8
  | .ldW f => f.enc 0x03#8
  | .ldD f => f.enc 0x04#8
  | .lduB f => f.enc 0x05#8
  | .lduH f => f.enc 0x06#8
  | .lduW f => f.enc 0x07#8
  | .stB f => f.enc 0x08#8
  | .stH f => f.enc 0x09#8
  | .stW f => f.enc 0x0A#8
  | .stD f => f.enc 0x0B#8
  | .lda f => f.enc 0x0C#8
  | .sta f => f.enc 0x0D#8
  | .vld f => f.enc 0x10#8
  | .vlds f => f.enc 0x11#8
  | .vldseg f => f.enc 0x12#8
  | .vldx f => f.enc 0x13#8
  | .vldc f => f.enc 0x14#8
  | .vpf f => f.enc 0x15#8
  | .vst f => f.enc 0x18#8
  | .vsts f => f.enc 0x19#8
  | .vstseg f => f.enc 0x1A#8
  | .vstx f => f.enc 0x1B#8
  | .drv f => f.enc 0x1C#8
  | .amoadd f => f.enc 0x20#8
  | .amomin f => f.enc 0x21#8
  | .amomax f => f.enc 0x22#8
  | .amoand f => f.enc 0x23#8
  | .amoor f => f.enc 0x24#8
  | .amoxor f => f.enc 0x25#8
  | .amoswp f => f.enc 0x26#8
  | .amocas f => f.enc 0x27#8
  | .vamoadd f => f.enc 0x28#8
  | .vamomin f => f.enc 0x29#8
  | .vamomax f => f.enc 0x2A#8
  | .vamoswp f => f.enc 0x2B#8
  | .gll f => f.enc 0x2C#8
  | .scc f => f.enc 0x2D#8
  | .fence f => f.enc 0x30#8
  | .bararr f => f.enc 0x31#8
  | .cpy f => f.enc 0x40#8
  | .cpyx f => f.enc 0x41#8
  | .cpym f => f.enc 0x42#8
  | .cpyb f => f.enc 0x43#8
  | .cpst f => f.enc 0x44#8
  | .cpstWait f => f.enc 0x44#8
  | .catq f => f.enc 0x50#8
  | .catu f => f.enc 0x51#8
  | .folmap f => f.enc 0x52#8
  | .folref f => f.enc 0x53#8
  | .foldrop f => f.enc 0x54#8
  | .folmapU f => f.enc 0x52#8
  | .vadd f => f.enc 0x01#8
  | .vsub f => f.enc 0x02#8
  | .vmul f => f.enc 0x03#8
  | .vfma f => f.enc 0x04#8
  | .vfms f => f.enc 0x05#8
  | .vfnma f => f.enc 0x06#8
  | .vmin f => f.enc 0x07#8
  | .vmax f => f.enc 0x08#8
  | .vabs f => f.enc 0x09#8
  | .vneg f => f.enc 0x0A#8
  | .vand f => f.enc 0x0B#8
  | .vor f => f.enc 0x0C#8
  | .vxor f => f.enc 0x0D#8
  | .vshl f => f.enc 0x0E#8
  | .vshr f => f.enc 0x0F#8
  | .vsra f => f.enc 0x10#8
  | .vrcpe f => f.enc 0x11#8
  | .vrsqe f => f.enc 0x12#8
  | .vgetexp f => f.enc 0x13#8
  | .vscaleb f => f.enc 0x14#8
  | .vrint f => f.enc 0x15#8
  | .vcmpeq f => f.enc 0x20#8
  | .vcmpne f => f.enc 0x21#8
  | .vcmplt f => f.enc 0x22#8
  | .vcmple f => f.enc 0x23#8
  | .vcmpltu f => f.enc 0x24#8
  | .vcmpleu f => f.enc 0x25#8
  | .kand f => f.enc 0x26#8
  | .kor f => f.enc 0x27#8
  | .kxor f => f.enc 0x28#8
  | .knot f => f.enc 0x29#8
  | .kmov f => f.enc 0x2A#8
  | .kpop f => f.enc 0x2B#8
  | .kpois f => f.enc 0x2C#8
  | .kfirst f => f.enc 0x2D#8
  | .vsel f => f.enc 0x30#8
  | .vbcast f => f.enc 0x31#8
  | .vmov f => f.enc 0x32#8
  | .vzero f => f.enc 0x33#8
  | .vperm f => f.enc 0x34#8
  | .vrot f => f.enc 0x35#8
  | .gxpose f => f.enc 0x36#8
  | .vtag f => f.enc 0x37#8
  | .vcompress f => f.enc 0x38#8
  | .vexpand f => f.enc 0x39#8
  | .vrsum f => f.enc 0x40#8
  | .vrmax f => f.enc 0x41#8
  | .vrmin f => f.enc 0x42#8
  | .vramax f => f.enc 0x43#8
  | .vrbx f => f.enc 0x44#8
  | .vrexp f => f.enc 0x45#8
  | .cvtN f => f.enc 0x50#8
  | .cvtW f => f.enc 0x51#8
  | .cvtF4 f => f.enc 0x52#8
  | .cvtI f => f.enc 0x53#8
  | .cvtF f => f.enc 0x54#8
  | .vquant f => f.enc 0x55#8
  | .setsc f => f.enc 0x56#8
  | .bxadd f => f.enc 0x57#8
  | .bxacc f => f.enc 0x58#8
  | .bxanch f => f.enc 0x59#8
  | .bxcvt f => f.enc 0x5A#8
  | .bxanchI f => f.enc 0x59#8
  | .mop f => f.enc 0x01#8
  | .mopS f => f.enc 0x02#8
  | .mopZ f => f.enc 0x03#8
  | .mopZs f => f.enc 0x04#8
  | .ckclr f => f.enc 0x20#8
  | .ckchk f => f.enc 0x21#8
  | .ckloc f => f.enc 0x22#8
  | .ckfix f => f.enc 0x23#8
  | .ckrdRow f => f.enc 0x24#8
  | .ckrdCol f => f.enc 0x24#8
  | .ckrdSt f => f.enc 0x24#8
  | .ckinj f => f.enc 0x25#8
  | .ckinjP f => f.enc 0x25#8
  | .capb f => f.enc 0x30#8
  | .cape f => f.enc 0x31#8
  | .capr f => f.enc 0x32#8
  | .capx f => f.enc 0x33#8
  | .capxSaved f => f.enc 0x33#8
  | .capxFirst f => f.enc 0x33#8
  | .packetIssue | .packetRetire | .vWriteback | .updateWriteback | .vectorAccessComplete | .scalarAccessComplete
  | .translationWalk | .writeHomeMoment | .writeDomainMoment | .writeSystemMoment | .copyCommandStart | .copyChunkVisible
  | .barrierCredit | .copyCommandComplete | .catalogueCommandComplete | .xltInv | .invalidationDone | .memIlvWrite | .dieBootGo
  | .xltCtxbaseWrite | .schedCtlWrite | .saveStallClear | .lmapWrite | .latWrite | .pgseedWrite | .protectedModeEnable
  | .registerWrite | .gangPlace | .gangResume | .reclaimMark | .reclaimTimeout | .saveUnit | .groupRelease | .groupPowerGate
  | .gangEnd | .notifyEvaluate | .notifyPoll | .yieldWake | .stestDone | .stestAbort | .laneShadowRotate | .retrainDone
  | .flitCrcError | .linkDown | .roundStart | .heartbeatReceive | .roundEnd | .orphanCompletion | .fencedSelftestDone | .rdmaWrite
  | .rdmaRead | .atomicCompareAndSwap | .atomicFetchAndAdd | .invalidRequest | .priorityFlowControl | .congestionNotification
  | .ptpMessage | .getVersion | .getCapabilities | .negotiateAlgorithms | .getDigests | .getCertificate | .challenge
  | .getMeasurements | .pldmPlatformMonitoring | .pldmFirmwareUpdate | .endpointIdentifierAssign | .eepromRead | .eepromWrite
  | .reset | .evacGo | .evacAbort | .evacSaveDone | .evacOffer | .evacOfferAnswer | .evacOfferTimeout | .evacCopyDone
  | .evacDrainDone | .evacTimeout | .evacArm | .evacDisarm | .evacAdopt | .evacClaim | .evacClaimAnswer | .evacClaimTimeout
  | .thermalThrottle | .pepperGeneratorStep | .evacFreezeDone | .firmwareRetrain | .bladePull | .queuePairConnect
  | .managementControllerAccess => 0

/-- Slot class of an instruction, `none` for a row that is no slot. -/
def Instr.cls : Instr → Option Cls
  | .add _ | .sub _ | .mul _ | .mulh _ | .mulhu _ | .div _ | .divu _ | .rem _ | .remu _ | .and _ | .or _ | .xor _ | .shl _
   | .shr _ | .sra _ | .addi _ | .andi _ | .ori _ | .xori _ | .shli _ | .shri _ | .srai _ | .lui _ | .seq _ | .sne _ | .slt _
   | .sltu _ | .sle _ | .sleu _ | .min _ | .max _ | .aadd _ | .aaddi _ | .asub _ | .amovg _ | .amova _ | .ahi _ | .ahig _
   | .fadd _ | .fsub _ | .fmul _ | .ffma _ | .fdiv _ | .fsqrt _ | .fmin _ | .fmax _ | .fcmpeq _ | .fcmplt _ | .fcmple _ | .fcvtI _
   | .fcvtF _ | .fclass _ | .beq _ | .bne _ | .blt _ | .bltu _ | .bge _ | .bgeu _ | .bz _ | .bnz _ | .jmp _ | .jal _ | .jr _
   | .ret _ | .movs _ | .movd _ | .setvl _ | .setmvl _ | .semts _ | .semtsTry _ | .semclr _ | .cmrd _ | .cmwr _ | .barwait _
   | .barwaitSet _ | .launch _ | .signal _ | .cancel _ | .nwait _ | .npost _ | .yield _ | .yieldGang _ | .gexit _ | .pbcrd _
   | .trap _ | .eret _ | .stest _ | .nop _ | .frqpop _ => some .S
  | .ldB _ | .ldH _ | .ldW _ | .ldD _ | .lduB _ | .lduH _ | .lduW _ | .stB _ | .stH _ | .stW _ | .stD _ | .lda _ | .sta _ | .vld _
   | .vlds _ | .vldseg _ | .vldx _ | .vldc _ | .vpf _ | .vst _ | .vsts _ | .vstseg _ | .vstx _ | .drv _ | .amoadd _ | .amomin _
   | .amomax _ | .amoand _ | .amoor _ | .amoxor _ | .amoswp _ | .amocas _ | .vamoadd _ | .vamomin _ | .vamomax _ | .vamoswp _
   | .gll _ | .scc _ | .fence _ | .bararr _ | .cpy _ | .cpyx _ | .cpym _ | .cpyb _ | .cpst _ | .cpstWait _ | .catq _ | .catu _
   | .folmap _ | .folref _ | .foldrop _ | .folmapU _ => some .L
  | .vadd _ | .vsub _ | .vmul _ | .vfma _ | .vfms _ | .vfnma _ | .vmin _ | .vmax _ | .vabs _ | .vneg _ | .vand _ | .vor _
   | .vxor _ | .vshl _ | .vshr _ | .vsra _ | .vrcpe _ | .vrsqe _ | .vgetexp _ | .vscaleb _ | .vrint _ | .vcmpeq _ | .vcmpne _
   | .vcmplt _ | .vcmple _ | .vcmpltu _ | .vcmpleu _ | .kand _ | .kor _ | .kxor _ | .knot _ | .kmov _ | .kpop _ | .kpois _
   | .kfirst _ | .vsel _ | .vbcast _ | .vmov _ | .vzero _ | .vperm _ | .vrot _ | .gxpose _ | .vtag _ | .vcompress _ | .vexpand _
   | .vrsum _ | .vrmax _ | .vrmin _ | .vramax _ | .vrbx _ | .vrexp _ | .cvtN _ | .cvtW _ | .cvtF4 _ | .cvtI _ | .cvtF _
   | .vquant _ | .setsc _ | .bxadd _ | .bxacc _ | .bxanch _ | .bxcvt _ | .bxanchI _ => some .V
  | .mop _ | .mopS _ | .mopZ _ | .mopZs _ | .ckclr _ | .ckchk _ | .ckloc _ | .ckfix _ | .ckrdRow _ | .ckrdCol _ | .ckrdSt _
   | .ckinj _ | .ckinjP _ | .capb _ | .cape _ | .capr _ | .capx _ | .capxSaved _ | .capxFirst _ => some .M
  | .packetIssue | .packetRetire | .vWriteback | .updateWriteback | .vectorAccessComplete | .scalarAccessComplete
  | .translationWalk | .writeHomeMoment | .writeDomainMoment | .writeSystemMoment | .copyCommandStart | .copyChunkVisible
  | .barrierCredit | .copyCommandComplete | .catalogueCommandComplete | .xltInv | .invalidationDone | .memIlvWrite | .dieBootGo
  | .xltCtxbaseWrite | .schedCtlWrite | .saveStallClear | .lmapWrite | .latWrite | .pgseedWrite | .protectedModeEnable
  | .registerWrite | .gangPlace | .gangResume | .reclaimMark | .reclaimTimeout | .saveUnit | .groupRelease | .groupPowerGate
  | .gangEnd | .notifyEvaluate | .notifyPoll | .yieldWake | .stestDone | .stestAbort | .laneShadowRotate | .retrainDone
  | .flitCrcError | .linkDown | .roundStart | .heartbeatReceive | .roundEnd | .orphanCompletion | .fencedSelftestDone | .rdmaWrite
  | .rdmaRead | .atomicCompareAndSwap | .atomicFetchAndAdd | .invalidRequest | .priorityFlowControl | .congestionNotification
  | .ptpMessage | .getVersion | .getCapabilities | .negotiateAlgorithms | .getDigests | .getCertificate | .challenge
  | .getMeasurements | .pldmPlatformMonitoring | .pldmFirmwareUpdate | .endpointIdentifierAssign | .eepromRead | .eepromWrite
  | .reset | .evacGo | .evacAbort | .evacSaveDone | .evacOffer | .evacOfferAnswer | .evacOfferTimeout | .evacCopyDone
  | .evacDrainDone | .evacTimeout | .evacArm | .evacDisarm | .evacAdopt | .evacClaim | .evacClaimAnswer | .evacClaimTimeout
  | .thermalThrottle | .pepperGeneratorStep | .evacFreezeDone | .firmwareRetrain | .bladePull | .queuePairConnect
  | .managementControllerAccess => none

/-- Decodes a slot word, or answers the subcause of R76: 1 for an opcode without an instruction, 2 for an unused bit that is set, 3 for a
reserved value. -/
def decodeSlot (c : Cls) (w : Word) : Except Nat Instr :=
  match decodeOp c (fldN w 63 56) w with
  | none => .error 1
  | some i => if encode i ≠ w ∨ i.unused = false then .error 2 else if i.values = false then .error 3 else .ok i

/-! Packet header (R48). -/
def hPres (h : BitVec 32) (c : Cls) : Bool := match c with | .S => h.getLsbD 0 | .L => h.getLsbD 1 | .V => h.getLsbD 2 | .M => h.getLsbD 3
def hHold (h : BitVec 32) (c : Cls) : Bool := match c with | .S => h.getLsbD 4 | .L => h.getLsbD 5 | .V => h.getLsbD 6 | .M => h.getLsbD 7
def hConv (h : BitVec 32) : Bool := h.getLsbD 8
def hWait (h : BitVec 32) : Nat := fldN h 12 9
def hCend (h : BitVec 32) : Bool := h.getLsbD 13
def hPush (h : BitVec 32) : Bool := h.getLsbD 14
def hPop (h : BitVec 32) : Bool := h.getLsbD 15
def hTf (h : BitVec 32) : Nat := fldN h 17 16

/-- The classes in issue order (R47). -/
def Cls.all : List Cls := [.S, .L, .V, .M]
/-- Code of a class in TRINFO (R202, R378). -/
def Cls.num : Cls → Nat | .S => 0 | .L => 1 | .V => 2 | .M => 3

/-- Length of the packet of a header in bytes (R47). -/
def packetLen (h : BitVec 32) : Nat := 4 + 8 * (Cls.all.filter (hPres h)).length

/-- Place of a class's slot in the packet of a header (R47). -/
def slotOff (h : BitVec 32) (c : Cls) : Nat :=
  4 + 8 * (match c with
    | .S => 0
    | .L => ([Cls.S].filter (hPres h)).length
    | .V => ([Cls.S, .L].filter (hPres h)).length
    | .M => ([Cls.S, .L, .V].filter (hPres h)).length)

/-- The slot word of a class in the bytes that start at a packet, 0 where it is absent. -/
def slotWord (bs : List Byte) (h : BitVec 32) (c : Cls) : Word :=
  if hPres h c then BitVec.ofNat 64 (leNat ((bs.drop (slotOff h c)).take 8)) else 0

/-- Opcode byte of CAPE (R73). -/
def opCape : Nat := 0x31

/-- Header checks of R76 order 2: reserved bits, an empty present mask, CEND without CAPE or CAPE without CEND (R49, R59). -/
def headerBad (h : BitVec 32) (mSlot : Word) : Bool :=
  fldN h 31 18 != 0 || fldN h 3 0 == 0 || (hCend h != (hPres h .M && fldN mSlot 63 56 == opCape))

/-- The instruction in the first present slot of a packet whose bits are `w`, header first. -/
def decodeTableWord (_nbits w : Nat) : Option Instr :=
  let h := BitVec.ofNat 32 w
  let bs := leBytes 36 w
  match Cls.all.find? (hPres h) with
  | none => none
  | some c => if headerBad h (slotWord bs h .M) then none else (decodeSlot c (slotWord bs h c)).toOption

end Sys2Proof
end

