-- ==== Sys2Proof/Machine/Num.lean ====
section
/-! DEFINITION. Number formats, exact values and rounding (01_number_formats.md): every conversion and arithmetic slot rounds here. -/
namespace Sys2Proof

/-- Width in bits (R17). -/
def Fmt.width : Fmt → Nat
  | .fp32 | .i32 | .u32 => 32 | .fp16 | .bf16 => 16 | .e4m3 | .e5m2 | .e8m0 | .i8 | .u8 => 8
  | .e2m3 | .e3m2 => 6 | .e2m1 | .i4 | .u4 => 4 | .bx => 256

/-- Integer formats (R17). -/
def Fmt.isInt : Fmt → Bool
  | .i32 | .u32 | .i8 | .u8 | .i4 | .u4 => true | _ => false

/-- Two's complement formats (R24). -/
def Fmt.isSigned : Fmt → Bool
  | .i32 | .i8 | .i4 => true | _ => false

/-- Exponent bits, mantissa bits and bias of a floating-point format (R20). -/
def Fmt.layout : Fmt → Nat × Nat × Nat
  | .fp32 => (8, 23, 127) | .fp16 => (5, 10, 15) | .bf16 => (8, 7, 127) | .e4m3 => (4, 3, 7) | .e5m2 => (5, 2, 15)
  | .e2m3 => (2, 3, 1) | .e3m2 => (3, 2, 3) | .e2m1 => (2, 1, 1) | _ => (8, 23, 127)

/-- Formats that encode infinities (R20). -/
def Fmt.hasInf : Fmt → Bool
  | .fp32 | .fp16 | .bf16 | .e5m2 => true | _ => false

/-- Operand-queue element formats (R17). -/
def Fmt.inQueue : Fmt → Bool
  | .fp32 | .fp16 | .bf16 | .e4m3 | .e5m2 | .e2m3 | .e3m2 | .e2m1 | .i8 | .u8 | .i4 | .u4 => true | _ => false

/-- Elements per 32-bit queue cell (R156); BX counts one element for eight cells. -/
def Fmt.perCell : Fmt → Nat
  | .fp32 | .i32 | .u32 | .bx => 1 | .fp16 | .bf16 => 2 | .e2m1 | .i4 | .u4 => 8 | _ => 4

/-- Element format of a tag (R19). -/
def Tag.fmt : Tag → Fmt
  | .f32 => .fp32 | .i32 => .i32 | .bx => .bx | .bf16x2 => .bf16 | .f16x2 => .fp16 | .e4x4 => .e4m3 | .e5x4 => .e5m2
  | .i8x4 => .i8 | .f4x8 => .e2m1

/-- Grid tag of a format (R17), `none` where it has none. -/
def Fmt.tag : Fmt → Option Tag
  | .fp32 => some .f32 | .i32 => some .i32 | .bx => some .bx | .bf16 => some .bf16x2 | .fp16 => some .f16x2 | .e4m3 => some .e4x4
  | .e5m2 => some .e5x4 | .i8 => some .i8x4 | .e2m1 => some .f4x8 | _ => none

/-- Sub-elements per cell of a tag (R19). -/
def Tag.n (t : Tag) : Nat := t.fmt.perCell

/-- Canonical NaN of a format, or the substitute of R31 where it has none (R23). -/
def Fmt.canonNaN : Fmt → Nat
  | .fp32 => 0x7FC00000 | .fp16 => 0x7E00 | .bf16 => 0x7FC0 | .e4m3 => 0x7F | .e5m2 => 0x7E | .e8m0 => 0xFF
  | .e2m3 | .e3m2 => 0x1F | .e2m1 => 0x7 | _ => 0

/-- Whether a format has a NaN encoding (R20). -/
def Fmt.hasNaN : Fmt → Bool
  | .fp32 | .fp16 | .bf16 | .e4m3 | .e5m2 | .e8m0 => true | _ => false

/-- A value: NaN, an infinity, or the finite number (-1)^neg * m * 2^e; a zero keeps its sign (R21, R27). -/
inductive Val where
  | nan
  | inf (neg : Bool)
  | fin (neg : Bool) (m : Nat) (e : Int)
  deriving DecidableEq, Repr

/-- An exact dyadic number m * 2^e. -/
structure Dy where
  m : Int
  e : Int
  deriving DecidableEq, Repr

/-- Integer times a power of two with a non-negative exponent. -/
def shl (m : Int) (k : Int) : Int := m * (2 ^ k.toNat : Nat)

def Dy.zero : Dy := ⟨0, 0⟩

/-- Exact sum. -/
def Dy.add (a b : Dy) : Dy :=
  if a.m = 0 then b else if b.m = 0 then a else
  let e := min a.e b.e
  ⟨shl a.m (a.e - e) + shl b.m (b.e - e), e⟩

def Dy.neg (a : Dy) : Dy := ⟨-a.m, a.e⟩
def Dy.sub (a b : Dy) : Dy := a.add b.neg
def Dy.mul (a b : Dy) : Dy := ⟨a.m * b.m, a.e + b.e⟩

/-- Sign of `a - b`. -/
def Dy.lt (a b : Dy) : Bool := (a.sub b).m < 0

def Dy.abs (a : Dy) : Dy := ⟨a.m.natAbs, a.e⟩

def Dy.sum (l : List Dy) : Dy := l.foldl Dy.add Dy.zero

/-- The dyadic number of a finite value; NaN and infinities give zero. -/
def Val.dy : Val → Dy
  | .fin n m e => ⟨if n then -(m : Int) else m, e⟩
  | _ => Dy.zero

/-- A finite value from an exact number, a zero taking the sign given. -/
def Val.ofDy (d : Dy) (zeroNeg : Bool := false) : Val :=
  if d.m = 0 then .fin zeroNeg 0 0 else .fin (d.m < 0) d.m.natAbs d.e

def Val.isNaN : Val → Bool | .nan => true | _ => false
def Val.isInf : Val → Bool | .inf _ => true | _ => false
def Val.isFin : Val → Bool | .fin _ _ _ => true | _ => false
def Val.isZero : Val → Bool | .fin _ m _ => m == 0 | _ => false
def Val.isNeg : Val → Bool | .nan => false | .inf n => n | .fin n _ _ => n

/-- Negation keeps NaN. -/
def Val.neg : Val → Val
  | .nan => .nan | .inf n => .inf (!n) | .fin n m e => .fin (!n) m e

def Val.abs : Val → Val
  | .nan => .nan | .inf _ => .inf false | .fin _ m e => .fin false m e

/-- Two's complement reading of the low `w` bits. -/
def sintOf (w : Nat) (x : Nat) : Int := let y := x % 2 ^ w; if y < 2 ^ (w - 1) then y else (y : Int) - (2 ^ w : Nat)

/-- Exact value of an encoding (R21, R22, R24, R39); BX is not decoded here. -/
def Fmt.decode (f : Fmt) (x : Nat) : Val :=
  if f.isInt then
    let v : Int := if f.isSigned then sintOf f.width x else (x % 2 ^ f.width : Nat)
    .fin (v < 0) v.natAbs 0
  else match f with
  | .e8m0 => if x % 256 = 255 then .nan else .fin false 1 ((x % 256 : Nat) - 127)
  | _ =>
    let (eb, mb, bias) := f.layout
    let m := x % 2 ^ mb
    let e := x / 2 ^ mb % 2 ^ eb
    let s := x / 2 ^ (mb + eb) % 2 == 1
    if f.hasInf && e == 2 ^ eb - 1 then (if m == 0 then .inf s else .nan)
    else if f == .e4m3 && e == 15 && m == 7 then .nan
    else if e == 0 then .fin s m (1 - (bias : Int) - mb)
    else .fin s (2 ^ mb + m) ((e : Int) - bias - mb)

/-- A positive real: a fraction or the square root of one. -/
inductive Mag where
  | frac (n d : Nat)
  | sqrt (n d : Nat)
  deriving DecidableEq, Repr

/-- Integer square root, digit by digit. -/
def isqrtAux : Nat → Nat → Nat → Nat
  | 0, _, acc => acc
  | b + 1, n, acc => let t := acc + 2 ^ b; isqrtAux b n (if t * t ≤ n then t else acc)

def isqrt (n : Nat) : Nat := isqrtAux (Nat.log2 n / 2 + 1) n 0

/-- floor(n / d * 2^k) and whether the quotient is exact. -/
def floorFrac (n d : Nat) (k : Int) : Nat × Bool :=
  let nn := if 0 ≤ k then n * 2 ^ k.toNat else n
  let dd := if 0 ≤ k then d else d * 2 ^ (-k).toNat
  (nn / dd, nn % dd == 0)

/-- floor(x * 2^k) and whether it is exact. -/
def Mag.scaled : Mag → Int → Nat × Bool
  | .frac n d, k => floorFrac n d k
  | .sqrt n d, k => let (y, ex) := floorFrac n d (2 * k); let s := isqrt y; (s, ex && s * s == y)

/-- floor(log2 x) of a positive fraction. -/
def log2Frac (n d : Nat) : Int :=
  let c : Int := (Nat.log2 n : Int) - Nat.log2 d
  if 1 ≤ (floorFrac n d (-c)).1 then c else c - 1

/-- floor(log2 x). -/
def Mag.log2 : Mag → Int
  | .frac n d => log2Frac n d
  | .sqrt n d => (log2Frac n d).fdiv 2

/-- The magnitude of m * 2^e. -/
def magOf (m : Nat) (e : Int) : Mag := if 0 ≤ e then .frac (m * 2 ^ e.toNat) 1 else .frac m (2 ^ (-e).toNat)

/-- The integer count n of spacings 2^qe that `round_fmt` takes for a magnitude (R30). -/
def roundCount (neg : Bool) (x : Mag) (qe : Int) (mode : Rnd) (p16 : Nat) : Nat :=
  let (t, ex) := x.scaled (16 - qe)
  let lo := t / 65536
  let f := t % 65536
  let inexact := f != 0 || !ex
  let up : Bool := match mode with
    | .rne => decide (f > 32768) || (f == 32768 && (!ex || lo % 2 == 1))
    | .rtz => false
    | .rup => !neg && inexact
    | .rdn => neg && inexact
    | .rto => inexact && lo % 2 == 0
    | .sr => decide (65536 ≤ f + p16)
  if up then lo + 1 else lo

/-- Exponent of the minimum normal (R20, R30). -/
def Fmt.emin (f : Fmt) : Int := 1 - (f.layout.2.2 : Int)

/-- `round_fmt` of a signed magnitude (R30): the result is exact and may exceed the largest finite value. -/
def roundMag (neg : Bool) (x : Mag) (f : Fmt) (mode : Rnd) (p16 : Nat) : Val :=
  let e := max x.log2 f.emin
  let qe := e - f.layout.2.1
  .fin neg (roundCount neg x qe mode p16) qe

/-- `round_fmt` of a value (R30); zeros, NaN and infinities pass. -/
def roundFmt (v : Val) (f : Fmt) (mode : Rnd) (p16 : Nat) : Val :=
  match v with
  | .fin neg m e => if m = 0 then v else roundMag neg (magOf m e) f mode p16
  | _ => v

/-- Rounding with spacing 1 (R30), as a signed integer. -/
def roundInt (v : Val) (mode : Rnd) (p16 : Nat) : Int :=
  match v with
  | .fin neg m e => let n := if m = 0 then 0 else roundCount neg (magOf m e) 0 mode p16; if neg then -(n : Int) else n
  | _ => 0

/-- Largest finite magnitude as m * 2^e (R20). -/
def Fmt.maxFin (f : Fmt) : Nat × Int :=
  match f with
  | .e4m3 => (14, 5)
  | _ =>
    let (eb, mb, bias) := f.layout
    let emax : Int := (if f.hasInf then 2 ^ eb - 2 else 2 ^ eb - 1 : Nat) - (bias : Int)
    (2 ^ (mb + 1) - 1, emax - mb)

/-- Encoding of an exactly representable magnitude m * 2^e (R20, R21). -/
def Fmt.encMag (f : Fmt) (m : Nat) (e : Int) : Nat :=
  if m = 0 then 0 else
  let (_, mb, bias) := f.layout
  let ee := max ((Nat.log2 m : Int) + e) f.emin
  let s := ee - mb
  let mm := if s ≤ e then m * 2 ^ (e - s).toNat else m / 2 ^ (s - e).toNat
  if mm < 2 ^ mb then mm else (ee + bias).toNat * 2 ^ mb + (mm - 2 ^ mb)

/-- Sign bit of a format, as a number. -/
def Fmt.signBit (f : Fmt) (neg : Bool) : Nat := if neg then 2 ^ (f.width - 1) else 0

/-- Encoding of infinity where the format has one, else of what R31 writes for an infinite source. -/
def Fmt.encInf (f : Fmt) (neg sat : Bool) : Nat :=
  let mx := f.signBit neg + f.encMag f.maxFin.1 f.maxFin.2
  if sat then mx
  else if f.hasInf then f.signBit neg + (2 ^ f.layout.1 - 1) * 2 ^ f.layout.2.1
  else if f = .e4m3 then f.canonNaN
  else mx

/-- Whether a mode rounds an overflow toward the value (R31). -/
def Rnd.overflowsUp (mode : Rnd) (neg : Bool) : Bool :=
  match mode with
  | .rne | .sr => true | .rup => !neg | .rdn => neg | .rtz | .rto => false

/-- Outcome of R31 for a rounded value: the encoding in a floating-point format. -/
def Fmt.finish (f : Fmt) (mode : Rnd) (sat : Bool) (v : Val) : Nat :=
  match v with
  | .nan => f.canonNaN
  | .inf neg => f.encInf neg sat
  | .fin neg m e =>
    let (mm, me) := f.maxFin
    if Dy.lt ⟨mm, me⟩ ⟨m, e⟩ then
      (if mode.overflowsUp neg then f.encInf neg sat else f.signBit neg + f.encMag mm me)
    else f.signBit neg + f.encMag m e

/-- Range of an integer format. -/
def Fmt.intMin (f : Fmt) : Int := if f.isSigned then -((2 ^ (f.width - 1) : Nat) : Int) else 0
def Fmt.intMax (f : Fmt) : Int := if f.isSigned then (2 ^ (f.width - 1) : Nat) - 1 else (2 ^ f.width : Nat) - 1

/-- An integer narrowed to `w` bits: the low bits, or clamped under .sat (R24). -/
def narrowInt (f : Fmt) (sat : Bool) (n : Int) : Nat :=
  let n := if sat then max f.intMin (min f.intMax n) else n
  (n % (2 ^ f.width : Nat)).toNat

/-- Conversion of a value to an integer format (R32). -/
def toIntFmt (f : Fmt) (mode : Rnd) (sat : Bool) (p16 : Nat) (v : Val) : Nat :=
  match v with
  | .nan => 0
  | .inf neg => if sat then narrowInt f true (if neg then f.intMin else f.intMax) else 0
  | .fin _ _ _ => narrowInt f sat (roundInt v mode p16)

/-- `convert` of R158: a value into the bits of a format. -/
def convert (v : Val) (f : Fmt) (mode : Rnd) (sat : Bool) (p16 : Nat) : Nat :=
  if f.isInt then toIntFmt f mode sat p16 v else f.finish mode sat (roundFmt v f mode p16)

/-- `rn32` of R117. -/
def rn32 (v : Val) : Nat := convert v .fp32 .rne false 0

/-- Product with the specials of R25 and the sign rule of R27. -/
def Val.mul (a b : Val) : Val :=
  match a, b with
  | .nan, _ => .nan
  | _, .nan => .nan
  | .inf s, .inf t => .inf (s != t)
  | .inf s, .fin t m _ => if m = 0 then .nan else .inf (s != t)
  | .fin t m _, .inf s => if m = 0 then .nan else .inf (s != t)
  | .fin s m e, .fin t n f => .fin (s != t) (m * n) (e + f)

/-- Exact sum of values with the specials of R25 and the zero sign of R27. -/
def Val.sum (l : List Val) : Val :=
  if l.any Val.isNaN then .nan
  else if l.any (· == .inf false) then (if l.any (· == .inf true) then .nan else .inf false)
  else if l.any (· == .inf true) then .inf true
  else Val.ofDy (Dy.sum (l.map Val.dy)) (!l.isEmpty && l.all (fun v => v.isZero && v.isNeg))

/-- `fma32` of R117 on values: a * b + c, rounded once to FP32. -/
def fma32 (a b c : Val) : Nat := rn32 (Val.sum [a.mul b, c])

/-- Value of FP32 bits. -/
def f32 (x : Nat) : Val := Fmt.fp32.decode x

/-- Quotient rounded to a format, with the specials of R25 and R310. -/
def divRound (a b : Val) (f : Fmt) (mode : Rnd) : Nat :=
  match a, b with
  | .nan, _ => f.canonNaN
  | _, .nan => f.canonNaN
  | .inf _, .inf _ => f.canonNaN
  | .inf s, .fin t _ _ => f.encInf (s != t) false
  | .fin s _ _, .inf t => f.signBit (s != t)
  | .fin s m e, .fin t n k =>
    if n = 0 then (if m = 0 then f.canonNaN else f.encInf (s != t) false)
    else if m = 0 then f.signBit (s != t)
    else
      let d := e - k
      let x := if 0 ≤ d then Mag.frac (m * 2 ^ d.toNat) n else Mag.frac m (n * 2 ^ (-d).toNat)
      f.finish mode false (roundMag (s != t) x f mode 0)

/-- The magnitude of the square root of m * 2^e. -/
def sqrtMag (m : Nat) (e : Int) : Mag := if 0 ≤ e then .sqrt (m * 2 ^ e.toNat) 1 else .sqrt m (2 ^ (-e).toNat)

/-- Square root rounded to a format (R25, R310): -0 stays -0, a negative non-zero value gives NaN. -/
def sqrtRound (a : Val) (f : Fmt) (mode : Rnd) : Nat :=
  match a with
  | .nan => f.canonNaN
  | .inf neg => if neg then f.canonNaN else f.encInf false false
  | .fin neg m e =>
    if m = 0 then f.signBit neg
    else if neg then f.canonNaN
    else f.finish mode false (roundMag false (sqrtMag m e) f mode 0)

/-- a < b for values that are not NaN, with -0 = +0. -/
def Val.lt (a b : Val) : Bool :=
  match a, b with
  | .inf s, .inf t => s && !t
  | .inf s, _ => s
  | _, .inf t => !t
  | x, y => Dy.lt x.dy y.dy

/-- Equality of values that are not NaN, with -0 = +0. -/
def Val.eqv (a b : Val) : Bool := !a.lt b && !b.lt a

/-- a < b where -0 counts as less than +0 (R187, R260). -/
def Val.ltSigned (a b : Val) : Bool :=
  a.lt b || (a.isZero && b.isZero && a.isNeg && !b.isNeg)

/-- `fmin` and `fmax` of R187 on FP32 bits. -/
def fmin32 (p q : Nat) : Nat :=
  if (f32 p).isNaN || (f32 q).isNaN then Fmt.fp32.canonNaN else if (f32 q).ltSigned (f32 p) then q else p
def fmax32 (p q : Nat) : Nat :=
  if (f32 p).isNaN || (f32 q).isNaN then Fmt.fp32.canonNaN else if (f32 p).ltSigned (f32 q) then q else p

/-- floor(log2 |v|) of a finite non-zero value. -/
def Val.log2 : Val → Int
  | .fin _ m e => (Nat.log2 m : Int) + e
  | _ => 0

/-- Reversal of twelve bits (R36). -/
def bitrev12 (i : Nat) : Nat := (List.range 12).foldl (fun a b => a + if i / 2 ^ b % 2 = 1 then 2 ^ (11 - b) else 0) 0

/-- The Pepper table (R36); the index is taken modulo 4,096. -/
def pepperTable (i : Nat) : Nat := bitrev12 (i % 4096) * 16 + 8

/-- One step of the Pepper generator (R37). -/
def pepperStep (s : Word) : Word :=
  let t := s >>> 1
  if s.getLsbD 0 then t ^^^ 0xD800000000000000#64 else t

/-- The Pepper value of a lane in generator mode (R37). -/
def pepperGen (s : Word) (l : Nat) : Nat := (((s.setWidth 32).rotateLeft (l % 32)).setWidth 16).toNat

/-- The update of one F32 cell (R33): prior bits, k products and the two E8M0 scales. -/
def updateF32 (c : Nat) (a b : List Val) (sa sb : Nat) : Nat :=
  let cv := f32 c
  if cv.isNaN || sa == 255 || sb == 255 then Fmt.fp32.canonNaN else
  let ps := (a.zip b).map (fun (x, y) => x.mul y)
  if ps.any Val.isNaN then Fmt.fp32.canonNaN else
  let sc : Int := (sa : Int) + sb - 254
  let scaled := ps.map (fun p => match p with | .fin n m e => Val.fin n m (e + sc) | v => v)
  rn32 (Val.sum (cv :: scaled))

/-- emax of the MX targets (R40). -/
def Fmt.mxEmax : Fmt → Int
  | .e4m3 => 8 | .e5m2 => 15 | .e2m3 => 2 | .e3m2 => 4 | .e2m1 => 2 | _ => 0

/-- `mx_quant` of R40: the scale and the elements; `pep` gives each element's Pepper value. -/
def mxQuant (x : List Nat) (f : Fmt) (mode : Rnd) (pep : Nat → Nat) : Nat × List Nat :=
  let vs := x.map f32
  if vs.any (fun v => !v.isFin) then (0xFF, vs.map (fun _ => f.canonNaN))
  else
    let nz := vs.filter (fun v => !v.isZero)
    if nz.isEmpty then (0, vs.map (fun _ => 0))
    else
      let lm := nz.foldl (fun a v => max a v.log2) ((nz.headD .nan).log2)
      let xx := max (lm - f.mxEmax) (-127) + 127
      (xx.toNat, vs.zipIdx.map (fun (v, i) =>
        match v with
        | .fin n m e =>
          let z := roundFmt (.fin n m (e - (xx - 127))) f mode (pep i)
          let (mm, me) := f.maxFin
          (match z with
           | .fin zn zm ze => if Dy.lt ⟨mm, me⟩ ⟨zm, ze⟩ then f.signBit zn + f.encMag mm me else f.signBit zn + f.encMag zm ze
           | _ => 0)
        | _ => 0))

/-- `seed8` of R262: eight fraction bits of a positive real, toward zero. -/
def seed8 (x : Mag) : Val := let e := x.log2; .fin false (x.scaled (8 - e)).1 (e - 8)

/-- Subnormal encodings of a floating-point format. -/
def Fmt.isSubnormal (f : Fmt) (x : Nat) : Bool :=
  let (eb, mb, _) := f.layout
  x / 2 ^ mb % 2 ^ eb == 0 && x % 2 ^ mb != 0

/-- A subnormal read or written as zero of its sign (R26). -/
def ftzBits (f : Fmt) (ftz : Bool) (x : Nat) : Nat :=
  if ftz && f.isSubnormal x then x / 2 ^ (f.width - 1) % 2 * 2 ^ (f.width - 1) else x

/-- floor(log2 m) of a positive dyadic number. -/
def Dy.log2 (d : Dy) : Int := (Nat.log2 d.m.natAbs : Int) + d.e
def Dy.max (a b : Dy) : Dy := if a.lt b then b else a

/-- D modulo 2^32 of an exact sum of integers. -/
def Dy.mod32 (d : Dy) : Int := (shl d.m d.e) % 2 ^ 32

/-- A binned exact partial (R41). -/
structure Bx where
  a : Int
  ovf : Bool
  nan : Bool
  pinf : Bool
  ninf : Bool
  b0 : Int
  b1 : Int
  b2 : Int
  b3 : Int
  deriving DecidableEq, Repr

/-- The BX in a 32-byte image, byte 0 lowest (R41); reserved bits are ignored. -/
def Bx.ofBits (x : BitVec 256) : Bx :=
  let n := x.toNat
  { a := sintOf 16 n, ovf := x.getLsbD 16, nan := x.getLsbD 17, pinf := x.getLsbD 18, ninf := x.getLsbD 19,
    b0 := sintOf 48 (n / 2 ^ 32), b1 := sintOf 48 (n / 2 ^ 80), b2 := sintOf 48 (n / 2 ^ 128), b3 := sintOf 48 (n / 2 ^ 176) }

/-- The 32-byte image of a BX, reserved bits zero (R41). -/
def Bx.toBits (b : Bx) : BitVec 256 :=
  let u (w : Nat) (i : Int) : Nat := (i % (2 ^ w : Nat)).toNat
  let fl := (if b.ovf then 1 else 0) + (if b.nan then 2 else 0) + (if b.pinf then 4 else 0) + (if b.ninf then 8 else 0)
  BitVec.ofNat 256 (u 16 b.a + fl * 2 ^ 16 + u 48 b.b0 * 2 ^ 32 + u 48 b.b1 * 2 ^ 80 + u 48 b.b2 * 2 ^ 128 + u 48 b.b3 * 2 ^ 176)

/-- A BX of an anchor with zero bins and no flags. -/
def Bx.empty (a : Int) : Bx := ⟨a, false, false, false, false, 0, 0, 0, 0⟩

/-- `bx_units` of R42. -/
def Bx.units (b : Bx) : Int := b.b0 * 2 ^ 96 + b.b1 * 2 ^ 64 + b.b2 * 2 ^ 32 + b.b3

/-- `bx_accumulate` of R42. -/
def Bx.accumulate (b : Bx) (m : Int) : Bx :=
  let v := b.units + m
  if 2 ^ 143 ≤ v.natAbs then { b with ovf := true }
  else { b with b0 := v.fdiv (2 ^ 96), b1 := v.fdiv (2 ^ 64) % 2 ^ 32, b2 := v.fdiv (2 ^ 32) % 2 ^ 32, b3 := v % 2 ^ 32 }

/-- `bx_add_real` of R43. -/
def Bx.addReal (b : Bx) (x : Val) : Bx :=
  match x with
  | .nan => { b with nan := true }
  | .inf neg => if neg then { b with ninf := true } else { b with pinf := true }
  | .fin neg m e =>
    if m ≠ 0 ∧ b.a ≤ (Nat.log2 m : Int) + e then { b with ovf := true }
    else b.accumulate (roundInt (.fin neg m (e - (b.a - 128))) .rne 0)

/-- `bx_add` of R44 for equal anchors. -/
def Bx.add (p q : Bx) : Bx :=
  { p with ovf := p.ovf || q.ovf, nan := p.nan || q.nan, pinf := p.pinf || q.pinf, ninf := p.ninf || q.ninf }.accumulate q.units

/-- Re-anchoring to an anchor not below the present one (R45). -/
def Bx.reanchor (b : Bx) (a' : Int) : Bx :=
  if a' = b.a then b.accumulate 0
  else
    let u := b.units
    { b with a := a', b0 := 0, b1 := 0, b2 := 0, b3 := 0 }.accumulate (roundInt (.fin (u < 0) u.natAbs (b.a - a')) .rne 0)

/-- Conversion of a BX to a floating-point format (R46): saturation applies to the row without flags alone. -/
def Bx.toFmt (b : Bx) (f : Fmt) (mode : Rnd) (sat : Bool) (p16 : Nat) : Nat :=
  if b.ovf || b.nan || (b.pinf && b.ninf) then f.canonNaN
  else if b.pinf then f.encInf false false
  else if b.ninf then f.encInf true false
  else f.finish mode sat (roundFmt (Val.ofDy ⟨b.units, b.a - 128⟩) f mode p16)

/-- CRC-32C of a byte string (R399): reflected polynomial 0x82F63B78, initial value and final exclusive-or all ones. -/
def crc32c (bs : List Byte) : BitVec 32 :=
  let stepBit (c : BitVec 32) : BitVec 32 := if c.getLsbD 0 then (c >>> 1) ^^^ 0x82F63B78#32 else c >>> 1
  let stepByte (c : BitVec 32) (b : Byte) : BitVec 32 := (List.range 8).foldl (fun c _ => stepBit c) (c ^^^ b.setWidth 32)
  (bs.foldl stepByte 0xFFFFFFFF#32) ^^^ 0xFFFFFFFF#32

end Sys2Proof
end

