-- ==== Sys2Proof/Machine/State.lean ====
section
/-! DEFINITION. The state of one KX9 package as plain data, its reset value, and the reasons a step can stop. -/
namespace Sys2Proof.Machine
open Sys2Proof

/-- Why the model stops. Both reasons concern operands that name nothing in the package; no instruction of a placed hart raises them. -/
inductive Fault where
  /-- Raised by a slot instruction executed while no placed hart is in issue. Safe: the hardware never executes one. -/
  | noHart
  /-- Raised by an event that names a die, core, unit or link that the package does not have (R4 to R8). Safe. -/
  | noSuchAgent
  deriving DecidableEq, Repr

/-- Rejections. -/
inductive Refusal where
  /-- Raised only by `exec` for an instruction that has no meaning yet. Safe. -/
  | notModelled (mnemonic : String)
  deriving DecidableEq, Repr

/-- What a local address names (R84): a byte of memory under its one name, a register block with an offset, the broadcast block, or a hole; `remote` is an
address of another package. The stack of an HBM4 byte is named by the per-stack alias. -/
inductive Loc where
  | mem (key : Nat)
  | reg (blk off : Nat)
  | bcast (off : Nat)
  | hole
  | remote (pa : Nat)
  deriving DecidableEq, Repr

/-- A translated byte: what it names, its domain physical address, its attribute (R97) and the level of its leaf. -/
structure XOk where
  loc : Loc
  pa : Nat
  attr : Nat := 0
  level : Nat := 15
  deriving DecidableEq, Repr

/-- Control state of a hart (R57, R75). -/
structure Ctrl where
  ftz : Bool := false
  wtrap : Bool := false
  prot : Bool := false
  mm : Bool := false
  fw : Bool := false
  role : Role := .solo
  vl : Nat := 0
  mvl : Nat := 0
  mfc : Word := 0x0000000700000000#64
  dsel : Word := 0
  tol : Tbl Byte := []
  deriving DecidableEq, Repr

/-- The g, a and k registers (R74); g0 and k0 are hard-wired by their readers and writers. -/
structure Regs where
  g : Tbl Word := []
  a : Tbl VAddr := []
  k : Tbl Mask := []
  deriving DecidableEq, Repr

/-- The trap record (R376, R378) and the lane-group counters (R167). -/
structure TrapRegs where
  cause : Word := 0
  pc : VAddr := 0
  va : VAddr := 0
  info : Word := 0
  lg : Tbl (BitVec 16) := []
  deriving DecidableEq, Repr

/-- A packet as it stands in memory: header and slot words in the order S, L, V, M, absent ones 0 (R47). -/
structure Packet where
  hdr : BitVec 32 := 0
  s : Word := 0
  l : Word := 0
  v : Word := 0
  m : Word := 0
  deriving DecidableEq, Repr

/-- Carrel states (R245). -/
inductive CarState where | idle | recording | loaded | replaying
  deriving DecidableEq, Repr

/-- The Carrel of a hart (R245); each stored packet keeps the address it was recorded from (R249). -/
structure Carrel where
  st : CarState := .idle
  len : Nat := 0
  idx : Nat := 0
  trip : Nat := 0
  pos : Nat := 0
  count : Nat := 0
  first : Nat := 0
  cont : VAddr := 0
  body : Tbl (VAddr × Packet) := []
  deriving DecidableEq, Repr

/-- What the scoreboard names (R56, R251): a register, one grid row, any row, the Colophon with what updates leave there, or the locator. -/
inductive Dep where | g (n : Nat) | a (n : Nat) | k (n : Nat) | vl | vsc | row (i : Nat) | rows | grid | loc
  deriving DecidableEq, Repr

/-- A trap about to be entered (R376 to R378): cause, record contents, the slots to issue again (bit 0 S, 1 L, 2 V) and, where it is not the
packet's address, the address to record. -/
structure TrapReq where
  cause : Nat
  info : Nat := 0
  va : VAddr := 0
  ret : Nat := 0
  reissue : Nat := 0
  nrec : Nat := 0
  rdef : Bool := false
  tilep : Bool := false
  crl : Bool := false
  pc : Option VAddr := none
  deriving DecidableEq, Repr

/-- State of a queue entry that is not free (R199); `filled` entries become visible when their producer's access completes. -/
inductive EntSt where | reserved | filled | opened | visible
  deriving DecidableEq, Repr

/-- A queue entry (R198); `ne` and `form` describe the load that left it open (R168), and `poisEls` names the elements that hold the poison value in it (R170). -/
structure Entry where
  id : Nat := 0
  st : EntSt := .reserved
  fmt : Fmt := .fp32
  cnt : Nat := 0
  cells : Tbl Cell := []
  pois : Mask := 0
  ne : Nat := 0
  form : Nat := 0
  poisEls : List Nat := []
  since : Nat := 0
  deriving DecidableEq, Repr

/-- One element, or scale byte, of a vector load as its memory gave it: number, field, bits from bit `bo` of the bytes, whether they were uncorrectable, and the places they came from. -/
structure VRaw where
  e : Nat
  fl : Nat
  bo : Nat
  bytes : List Byte
  bad : Bool
  oks : List XOk
  deriving DecidableEq, Repr

/-- A vector load whose entries `id` of queue `q` are not visible yet (R157). While `live`, its elements may still be performed, each at a moment of its own (R289, R293); `ctrl` and `seed`
are what it converts with. -/
structure VRead where
  id : Nat
  q : Nat
  live : Bool := true
  ctrl : Ctrl
  seed : Word
  raws : List VRaw
  deriving DecidableEq, Repr

/-- An element of a vector atomic or SCC that has been performed: its old word with whether that was uncorrectable, whether it wrote, and the granules it targets. -/
structure VDone where
  e : Nat
  old : Nat := 0
  bad : Bool := false
  wrote : Bool := true
  grans : List Nat := []
  deriving DecidableEq, Repr

/-- A vector atomic or SCC under .ord.rel at domain or system scope between two of its elements (R177, R293): its slot word, whether it is a re-issue, its source and index entries, the
identifier of its return entry, and the elements performed. -/
structure VPend where
  word : Word
  again : Bool
  src : Entry
  idx : List Int
  ret : Nat := 0
  done : List VDone := []
  deriving DecidableEq, Repr

/-- A token place that a packet of a hart has reserved (R58): its FIFO, the identifiers of what the packet put in flight, `lo` and up and below `hi`, and the cycle in which its
register writes are complete (R53). -/
structure TokPlace where
  fifo : Nat
  lo : Nat
  hi : Nat
  due : Nat := 0
  deriving DecidableEq, Repr

/-- A hart (R74, R330). `opnd` and `octrl` are the registers as they stood when the packet in issue began (R49); `kOpnd`, `kCtrl`, `kSlots`, `kPc`, `kCrl`
and `pmask` are what the trap state keeps for a re-issue (R385); `crlNext` says that the packet a replay trapped on still stands at POS (R386); `bankG` and `bankA` hold whichever of the program's and the handler's
g24 to g31 and a14, a15 is not named at the moment (R382). `reqOks` has the places of the scalar access that `remoteReq` says is on its way; `kBits` the chunk bits that engines set in
the k registers of late, with the cycle and the register (R142); `gaveTurn` says that the last packet gave up its turn (R372), and `retry` that the tile fault in `tileNow` follows the packet issued whole again (R384). `owedK` and `owedLg` are the partial-completion mask and the lane-group counters of a faulting instruction that
has not ended yet (R167, R387), `stallOwed` what its packet raises once it has, and `pendAside` a serialising slot that waits on while the hart is in handler state (in handler state `pend` is the handler's own);
`vpend` is a vector atomic or SCC whose elements are performed one by one, `vreads` the vector loads whose entries are not visible yet;
`served` says that the waiting slot's request has been taken by its die; `pendTok` names, by `hi`, the token place of a packet whose serialising slot or stalled instruction waits (R58); `acqW` names the hart's writes by .acq accesses and `devW` those to device pages, which later accesses wait for (R295). -/
structure Hart where
  die : Nat := 0
  idx : Nat := 0
  pos : Nat := 0
  ctx : Nat := 0
  regs : Regs := {}
  vsc : Tbl Byte := []
  ctrl : Ctrl := {}
  opnd : Regs := {}
  octrl : Ctrl := {}
  pc : VAddr := 0
  pbc : Tbl Nat := []
  trap : TrapRegs := {}
  handler : Bool := false
  held : Tbl Word := []
  heldAside : Tbl Word := []
  bankG : Tbl Word := []
  bankA : Tbl VAddr := []
  kOpnd : Regs := {}
  kCtrl : Ctrl := {}
  kSlots : Tbl Word := []
  kPc : VAddr := 0
  kCrl : Bool := false
  crlNext : Bool := false
  pmask : Mask := 0
  reNow : Nat := 0
  tileNow : Option Nat := none
  tileInfo : Nat := 0
  cont : VAddr := 0
  owed : List TrapReq := []
  pend : Word := 0
  stall29 : List (List Byte) := []
  stallOwed : List TrapReq := []
  pendAside : Word := 0
  pendTok : Option Nat := none
  owedK : Tbl Mask := []
  owedLg : Option (Tbl (BitVec 16)) := none
  acqW : List Nat := []
  devW : List Nat := []
  was29 : Bool := false
  retSlot : Nat := 0
  carrel : Carrel := {}
  links : List (Nat × Nat) := []
  wt : Tbl Nat := []
  fresh : Bool := true
  modeNext : Bool := false
  ready : List (Dep × Nat) := []
  lastIssue : Option Nat := none
  minIssue : Nat := 0
  yieldUntil : Nat := 0
  divUntil : Nat := 0
  protBusy : Bool := false
  exited : Bool := false
  stopped : Bool := false
  remoteReq : Bool := false
  remoteAns : Option Answer := none
  reqOks : List XOk := []
  kBits : List (Nat × Nat × Mask) := []
  gaveTurn : Bool := false
  served : Bool := false
  retry : Bool := false
  tokens : List TokPlace := []
  accs : List Nat := []
  saw : List Nat := []
  vpend : Option VPend := none
  vreads : List VRead := []
  deriving DecidableEq, Repr

/-- A queue, head first, with the cycles of its latest reservation and dequeue and the number of entries that the latter freed (R199). -/
structure Queue where
  ents : List Entry := []
  resAt : Option Nat := none
  deqAt : Option Nat := none
  deqN : Nat := 0
  deriving DecidableEq, Repr

/-- A token FIFO (R203): tokens, reserved places, and what moved in the cycle `at_`. -/
structure Fifo where
  t : Nat := 0
  rs : Nat := 0
  at_ : Nat := 0
  added : Nat := 0
  popped : Nat := 0
  deriving DecidableEq, Repr

/-- What a V slot writes at its write cycle (R222, R255): cells by row and gang column in the groups `gs`, band tags, masks, vsc elements, and
the drain-queue entry that becomes visible; `keep` has the bits of written cells that stay as they are then (R270, R280). -/
structure VEff where
  gs : List Nat := []
  puts : List (Nat × Nat × Cell × Bool) := []
  keep : List (Nat × Nat × Cell) := []
  tags : List (Nat × Tag) := []
  masks : List (Nat × Mask) := []
  vsc : List (Nat × Byte) := []
  dq : Option (Nat × Nat) := none
  deriving DecidableEq, Repr

/-- What an update writes at its write cycle (R232): its operands, scales and footprint. -/
structure MEff where
  f : MU
  zero : Bool
  scaled : Bool
  len : Nat
  ea : Entry
  eb : Entry
  vsc : Tbl Byte
  gs : List Nat
  mir : Nat
  deriving DecidableEq, Repr

/-- The two kinds of write cycle. -/
inductive Eff where | v (e : VEff) | m (e : MEff)
  deriving DecidableEq, Repr

/-- A slot in flight: its settings (R221), on `rows` of `groups`, stand until its write cycle ends; `foot` has the rows whose cells an update writes (R232). -/
structure Flight where
  id : Nat
  slot : Nat
  due : Nat
  rows : List Nat := []
  foot : List Nat := []
  groups : List Nat := []
  deps : List Dep := []
  fault : Bool := false
  eff : Eff
  deriving DecidableEq, Repr

/-- A self-test in progress (R324). -/
structure STest where
  die : Nat
  slot : Nat
  core : Nat
  rd : Nat
  prio : Nat
  started : Nat
  deriving DecidableEq, Repr

/-- A cached translation (R95): a range of virtual addresses and what its leaf gives; `folio` names the map word and pool entry behind a Folio leaf, and whether the
entry was shared (R127). -/
structure Tlb where
  ctx : Nat
  global : Bool
  va : Nat
  size : Nat
  pa : Nat
  flags : Nat
  attr : Nat
  dirty : Bool
  level : Nat
  folio : Option (Nat × Nat × Bool) := none
  deriving DecidableEq, Repr

/-- A core (R4, R207, R74). `tlb` has the translations it has cached (R95), `corrected` the corrected errors of each physical group (R219), `frqFreed` the places of the
fault record queue freed in cycle `frqFreedAt` (R323), `front` the granules that the front end of the hart in a slot has read (R305). -/
structure Core where
  tlb : List Tlb := []
  corrected : Tbl Nat := []
  frqFreed : Nat := 0
  frqFreedAt : Nat := 0
  front : Tbl (List (Nat × List Byte)) := []
  grid : Tbl Cell := []
  pois : Tbl Bool := []
  tags : Tbl Tag := []
  chkrow : Tbl (Int × Int) := []
  chkcol : Tbl (Int × Int) := []
  dirty : Tbl Bool := []
  flight : List Flight := []
  vUntil : Nat := 0
  mUntil : Nat := 0
  q : Tbl Queue := []
  fifo : Tbl Fifo := []
  lmap : Word := 0x1F0000#64
  lat : Word := 0x0000FFFFFFFFFFFF#64
  pgseed : Word := 1
  pgNext : Option Word := none
  lmapNext : Option Word := none
  frq : List (BitVec 256) := []
  frqSeq : Nat := 0
  stest : Option STest := none
  freeAt : Tbl Nat := []
  gated : Tbl Bool := []
  issuedAt : Nat := 0
  issued : List (Nat × Nat) := []
  harts : Tbl (Option Hart) := []
  deriving DecidableEq, Repr

/-- A launch descriptor (R331). -/
structure Desc where
  raw : List Byte := []
  code : VAddr := 0
  param : VAddr := 0
  endva : VAddr := 0
  offs : List Nat := [0, 0, 0, 0]
  cmask : Nat := 0
  ncores : Nat := 1
  counts : List Nat := [0, 0, 0, 1]
  gmin : Nat := 0
  gmax : Nat := 0
  prio : Nat := 0
  deps : Nat := 0
  spres : Nat := 0
  nv : Bool := false
  nslot : Nat := 0
  nword : Nat := 0
  tag : Nat := 0
  thresh : Nat := 0
  qclaim : Nat := 0
  tclaim : Nat := 0
  qsize : List Nat := []
  ctx : Nat := 0
  deriving DecidableEq, Repr

/-- Where a gang lies on one core (R342). -/
structure Place where
  core : Nat := 0
  spbase : Nat := 0
  rgi : Nat := 6
  slots : List Nat := []
  deriving DecidableEq, Repr

/-- A gang barrier (R359); what reached it in cycle `at_` has been counted and not yet completed anything (R360). -/
structure Barrier where
  at_ : Nat := 0
  phase : Nat := 0
  narr : Nat := 0
  nbytes : Nat := 0
  arr : Nat := 0
  cred : Nat := 0
  next : Nat × Nat := (0, 0)
  nextv : Bool := false
  deriving DecidableEq, Repr

/-- The Colophon state of a gang on one core besides its cells (R233). -/
structure Colo where
  u : Nat := 0
  fmts : Nat := 0
  nfRow : Mask := 0
  nfCol : Mask := 0
  locR : Mask := 0
  locC : Mask := 0
  locUR : Mask := 0
  locUC : Mask := 0
  deriving DecidableEq, Repr

/-- Progress of a save or restore (R392, R396); `headed` names the core indices whose slice has its header since placement (R395). A reclaim save covers one core. A whole save
that began during one continues at its PROG: in core `first` at the unit `prog`, and when that slice's last section is done it goes round (`round`) to what comes before. `begun`
says that a whole save has taken what the stopped harts leave. -/
structure SaveSt where
  active : Bool := false
  whole : Bool := false
  restore : Bool := false
  done : Bool := false
  core : Nat := 0
  sec : Nat := 0
  nm : Nat := 0
  nb : Nat := 0
  groups : List Nat := []
  first : Nat := 0
  prog : Nat × Nat × Nat := (0, 0, 0)
  round : Bool := false
  begun : Bool := false
  headed : List Nat := []
  valid : Tbl (BitVec 256) := []
  stalled : Bool := false
  deriving DecidableEq, Repr

/-- State of a gang that no memory image lays down while it is saved (R393 "internal trap state", R394 Colophon records, forms of open entries). `imgs` has what was written for the
Colophon records of each gang group, `recs` the fault records taken from the core's queue (R388), `groups` the number of groups held. -/
structure Saved where
  harts : Tbl Hart := []
  forms : Tbl (Nat × List Nat) := []
  chkrow : Tbl (Int × Int) := []
  chkcol : Tbl (Int × Int) := []
  imgs : Tbl (BitVec 256) := []
  recs : List (BitVec 256) := []
  groups : Nat := 0
  deriving DecidableEq, Repr

/-- A gang record (R331 to R346). `markAt` names each core on which groups wait for the agreement to their release, with the cycle of the first mark (R346), and `agreed` the
logical groups of a core whose release is agreed and not yet done (R317); `byFw` says that a hart with HSTAT.FW launched it (R332); `unrestored` names, by core index and gang group, groups granted again whose saved columns are still to be
restored (R318), which `growStalled` says a fault of the save area has stopped (R397). -/
structure Rec where
  st : Nat := 0
  gen : Nat := 0
  handle : Nat := 0
  desc : Desc := {}
  ctx : Nat := 0
  deps : Nat := 0
  readyAt : Nat := 0
  placedAt : Nat := 0
  ringIdx : Option Nat := none
  order : Nat := 0
  places : List Place := []
  g : Nat := 0
  bars : Tbl Barrier := []
  colo : Tbl Colo := []
  markAt : List (Nat × Nat) := []
  agreed : Tbl (List Nat) := []
  byFw : Bool := false
  unrestored : List (Nat × Nat) := []
  growStalled : Bool := false
  save : SaveSt := {}
  saved : Tbl Saved := []
  keptPbc : Tbl (Tbl Nat) := []
  keptK : Tbl (Tbl Mask) := []
  endStatus : Option Nat := none
  cancelWait : Bool := false
  deriving DecidableEq, Repr

/-- Bytes that a copy command writes from a place on (R146): `keep` has the bits of a last byte that stay, `bad` says that a source granule had an
uncorrectable error (R147); `no` is the number that a failure reports, of the chunk or of the element (R136); `srcs` names the source granules that it comes from. -/
structure Piece where
  place : Nat
  no : Nat := 0
  bytes : List Byte
  keep : Byte := 0
  bad : Bool := false
  srcs : List Nat := []
  deriving DecidableEq, Repr

/-- A copy command in its queue (R131 to R145). A place is the number of a memory byte, or 2^60 and the domain address of a byte of another package.
`src` and `dst` are runs of offset, place and length, one list for each destination; `clash` says that source and destination share a location; `got` has the source granules as the
engine has read them (R301), `used` those of which it has written something, and `todo` the granules that each chunk still writes. -/
structure CopyCmd where
  kind : Nat := 0
  hart : Nat × Nat := (0, 0)
  handle : Nat := 0
  scope : Nat := 3
  k : Nat := 0
  cs : Nat := 0
  fb : Nat := 0
  len : Nat := 0
  desc : List Byte := []
  cw : List Nat := []
  flag : List Nat := []
  src : List (Nat × Nat × Nat) := []
  dst : List (List (Nat × Nat × Nat)) := []
  left : Nat := 0
  started : Bool := false
  clash : Bool := false
  got : Tbl (List Byte × Bool) := []
  used : List Nat := []
  todo : List (Nat × List Nat) := []
  fail : Option (Nat × Nat) := none
  cores : List Nat := []
  bad : Option Nat := none
  deriving DecidableEq, Repr

/-- An engine queue (R131, R133). -/
structure EngQ where
  cmds : List CopyCmd := []
  seq : Nat := 0
  deriving DecidableEq, Repr

/-- The slot of a Catalogue unit that a command names (R108). -/
structure CatSlot where
  ka : Nat
  kb : Nat
  vt : Nat
  nrows : Nat
  rowbase : Nat
  nk : Nat
  dh : Nat
  dv : Nat
  kf : Fmt
  vf : Fmt
  beta : Nat
  rstride : Nat
  opt : Nat
  deriving DecidableEq, Repr

/-- A write of a Catalogue unit that is still to come: bytes of one granule, with its mark, or 1 added to the version word at `bump` (R121). -/
structure CatPut where
  bump : Option Nat := none
  bytes : List (Nat × Byte) := []
  mark : Bool := false
  deriving DecidableEq, Repr

/-- An accepted Catalogue command (R113): the issuing die, the gang's context, the operands, the request block, and its ranges as runs of offset, place
and length: queries, outputs and index records of a CATQ, row list and gradients of a CATU. Once the unit has begun it, `slot` and `list` have its slot and its row list, `next` the query or
list position that comes next, `work` what the one before still writes, and `fail` the status and index to report. -/
structure CatCmd where
  upd : Bool := false
  die : Nat := 0
  ctx : Nat := 0
  slotNo : Nat := 0
  count : Nat := 0
  imm : Nat := 0
  block : List Byte := []
  cw : List Nat := []
  src : List (Nat × Nat × Nat) := []
  src2 : List (Nat × Nat × Nat) := []
  out : List (Nat × Nat × Nat) := []
  rcd : List (Nat × Nat × Nat) := []
  begun : Bool := false
  slot : Option CatSlot := none
  list : List (Nat × Bool) := []
  next : Nat := 0
  work : List CatPut := []
  fail : Nat × Nat := (0, 0)
  deriving DecidableEq, Repr

/-- A mesh port or Ibros link (R149, R151, R152). -/
structure Link where
  peer : Nat := 0
  swaps : Nat := 0
  shadow : Nat := 0
  down : Bool := false
  half : Bool := false
  train : Bool := false
  up : Bool := false
  crcerr : Nat := 0
  retry : Nat := 0
  thr : Byte := 4
  retrains : Nat := 0
  swapped : List Nat := []
  laneErr : Tbl Nat := []
  deriving DecidableEq, Repr

/-- A heartbeat (R407). -/
structure Beat where
  src : Nat := 0
  selfbad : Bool := false
  appeal : Bool := false
  down : Nat := 0
  round : Nat := 0
  accuse : Nat := 0
  readmit : Nat := 0
  fenced : Nat := 0
  bytes : List Byte := []
  deriving DecidableEq, Repr

/-- Witness state of a die, and the hub's view (R408, R410, R419); `hops` has the round of the latest strike of item 5 for each die, `heard` the heartbeats that arrived of late with the
round of their arrival, `selfFenced` says that the die, isolated, has fenced itself (R409), and `testing` that it, fenced, runs its self-test (R417). -/
structure Wit where
  pend : Nat := 0
  prob : Nat := 0
  late : Nat := 0
  bthr : Byte := 3
  miss : Tbl Nat := []
  strikes : Tbl (List Nat) := []
  hops : Tbl (List Nat) := []
  accuse : Nat := 0
  readmit : Nat := 0
  appealRun : Tbl Nat := []
  beats : List Beat := []
  heard : List (Nat × List Byte) := []
  silentRounds : Nat := 0
  selfFenced : Bool := false
  appeals : Nat := 0
  appealing : Bool := false
  testing : Bool := false
  deriving DecidableEq, Repr

/-- A SEMTS that waits in a die's queue for a bit (R356). -/
structure SemReq where
  bit : Nat
  core : Nat
  slot : Nat
  handle : Nat
  granted : Bool := false
  deriving DecidableEq, Repr

/-- A die (R5 to R7, R87). `catAway` has the commands of its harts that units of other packages have accepted (R115). `reqs` has the requests of harts that it has served in cycle `reqAt`: number of the hart, kind and semaphore bit (R355). `fullAt` is the cycle of the latest LAUNCH that found no FREE
resident slot (R364), and `lostCmds` has the commands that its engines held at its fence moment, which its guardian completes (R411, R414). -/
structure Die where
  ctxbase : Word := 0
  invva : Word := 0
  inv : Option Word := none
  inverr : Bool := false
  boot : Word := 0
  slotbase : Word := 0
  done : Word := 0
  cat : List CatCmd := []
  catAway : List CatCmd := []
  eng : Tbl EngQ := []
  port : Tbl Link := []
  ibros : Link := {}
  ntf : Tbl Word := []
  hold : Bool := false
  freeze : Bool := false
  recs : Tbl Rec := []
  ring : Tbl Rec := []
  ovrBase : VAddr := 0
  ovrSlots : Nat := 0
  trapvec : Word := 0
  savebase : Word := 0
  savestat : Word := 0
  chkErr : Word := 0
  chkMark : Word := 0
  chkLast : Word := 0
  wit : Wit := {}
  sem : Word := 0
  dat : Tbl Word := []
  semq : List SemReq := []
  reqAt : Nat := 0
  reqs : List (Nat × Nat × Nat) := []
  fullAt : Option Nat := none
  lostCmds : List CopyCmd := []
  deriving DecidableEq, Repr

/-- A host window (R421). -/
structure Window where
  base : Word := 0
  key : Word := 0
  npg : Word := 0
  deriving DecidableEq, Repr

/-- Evacuation states (R432). -/
inductive EvacSt where | idle | frozen | saving | copying | draining | ready | failed | released | armed | adopted | refused
  deriving DecidableEq, Repr

/-- Evacuation registers and the sequencer (R432 to R438): `offered` and `accepted` say how the offer stands, `claiming` that a CLAIM is out, and `absent` names the dies whose memory
is not copied (R434). -/
structure Evac where
  cfg : Word := 0
  st : EvacSt := .idle
  err : Nat := 0
  partial_ : Bool := false
  absent : Nat := 0
  goAt : Nat := 0
  rx : Word := 0
  offered : Bool := false
  accepted : Bool := false
  claiming : Bool := false
  indicator : Bool := false
  deriving DecidableEq, Repr

/-- What a host message asks for (R420); an atomic compares with `cmp` where there is one. -/
inductive HostOp where | write (data : List Byte) | read (n : Nat) | atomic (cmp : Option Word) (x : Word) | invalid
  deriving DecidableEq, Repr

/-- A message of a host (R420 to R423). `step` says how many granules the port takes at a time, 0 for all of them; `oks` has the places of its bytes once they are translated, `pos` the
granules done, and `got` what a READ has read. -/
structure HostMsg where
  rkey : BitVec 32 := 0
  off : Nat := 0
  op : HostOp := .invalid
  step : Nat := 0
  oks : Option (List XOk) := none
  pos : Nat := 0
  got : List Byte := []
  deriving DecidableEq, Repr

/-- An RDMA queue pair (R420, R424) with the messages that it has still to perform, in packet sequence order (R423). -/
structure QPair where
  connected : Bool := false
  error : Bool := false
  msgs : List HostMsg := []
  deriving DecidableEq, Repr

/-- A request of die `src` to die `dst` that was on its way when their route changed (R413): a write, or what the hart in slot `slot` of core `core` asks. -/
structure Hold where
  src : Nat
  dst : Nat
  write : Option Nat := none
  core : Nat := 0
  slot : Nat := 0
  deriving DecidableEq, Repr

/-- What the device sends outside: answers to hosts, the management bus and peers. -/
structure Reply where
  kind : Nat
  dest : Nat
  status : Nat
  data : List Byte := []
  deriving DecidableEq, Repr

/-- The hub die and what belongs to the package (R87, file 18). The port's priority is paused until the device timer reads `paused`, and `heldOut` has the answers that wait for it (R420). `lp6` says which LP6 channel groups are populated and train, bit g for group g, and what BOOT.STAT[19:16] reads;
the spec does not say what they are before stage 4 has looked: all four at power-on, until a RESET says otherwise (DESIGN CHOICE, log 69). `eepromFitted` says that the board has
the identity EEPROM (R3); `idKey` is the identity key, which never leaves the hub (R429). `ownPkg` is the number the package learns
at boot. The timer reads `devBase` at cycle `devAt` and runs `devPpm` parts per million fast (R425); `fset` is F, `fprev` F a
round ago, `downs` the mesh links that the last round's heartbeats reported DOWN (R406, R412), and `holds` what new requests
wait for since a route changed (R413). -/
structure Hub where
  pkgid : BitVec 10 := 0
  ownPkg : BitVec 10 := 0
  ilvG : Bool := false
  ilvErr : Bool := false
  ilvLock : Bool := false
  rt : Tbl Word := []
  ctxbase : Word := 0
  invva : Word := 0
  inv : Option Word := none
  inverr : Bool := false
  tlb : List Tlb := []
  frem : Nat := 0
  trem : Nat := 0
  win : Tbl Window := []
  nakAcc : Word := 0
  nakOp : Word := 0
  nakInv : Word := 0
  qps : Tbl QPair := []
  paused : Nat := 0
  heldOut : List Reply := []
  cnps : Nat := 0
  devBase : Int := 0
  devAt : Nat := 0
  devPpm : Int := 0
  everPlaced : Bool := false
  evac : Evac := {}
  tmax : BitVec 16 := 0
  pkgw : BitVec 16 := 0
  throt : Bool := false
  cap : BitVec 16 := 23000#16
  bootStage : Nat := 0
  bootCause : Nat := 0
  lp6 : Nat := 0xF
  eepromFitted : Bool := true
  meas : Tbl (List Byte) := []
  idKey : List Byte := []
  bank0 : List (Nat × Byte) := []
  bank1 : List (Nat × Byte) := []
  active : Bool := false
  pendActive : Bool := false
  eid : Byte := 0
  eeprom : Tbl Byte := []
  wit : Wit := {}
  fset : Nat := 0
  fprev : Nat := 0
  downs : List Nat := []
  holds : List Hold := []
  round : Nat := 0
  roundOpen : Bool := false
  roundNext : Nat := 0
  sent : Tbl (List Byte) := []
  powered : Bool := true
  deriving DecidableEq, Repr

/-- A write on its way to the moments of R292: phase 0 before its home moment, 1 before its domain moment, 2 before its system moment. `after` names writes, each with
the scope at which it must be visible before this one reaches its home moment (R293, R295); `keep` has the bits of a byte that stay as they are, for stores of parts of bytes (R185);
`cov` has bits of the same granule that the same instruction has written before, with their values (R399), and `old` what the host still sees of bytes that have reached their home
moment and not their system moment (R292). -/
structure PW where
  id : Nat
  hart : Option (Nat × Nat) := none
  bytes : List (Nat × Byte) := []
  mark : Bool := false
  remote : Bool := false
  cnt : Nat := 0
  phase : Nat := 0
  after : List (Nat × Nat) := []
  keep : List (Nat × Byte) := []
  cov : List (Nat × Byte × Byte) := []
  old : List (Nat × Byte) := []
  deriving DecidableEq, Repr

/-- An event record (R403, R404). -/
structure EvRec where
  src : Nat
  seq : Nat
  time : Nat
  what : Nat
  arg : Nat
  deriving DecidableEq, Repr

/-- Who accesses: the die (or 16 for the Ethernet port) and core, the context, the privilege, and the gang's scratchpad window. -/
structure Who where
  die : Nat := 0
  core : Nat := 0
  ctx : Nat := 0
  fw : Bool := false
  spbase : Nat := 0
  spsize : Nat := 0
  deriving DecidableEq, Repr

/-- The packet in issue: what its slots have still to do and what they have raised (R49, R379, R380). `ask` says that it waits for another
package, and `walk` names the scalar access whose table walk stands even where the packet does not take effect;
`grow` is the length for which a waiting SETVL or SETMVL has groups granted (R318, R319);
`late` is the class of a slot whose operand has not reached its chain latency (R56); `far` says that an access of the packet to another die is not answered at once (R104), `aside` that a slot of the program runs while its hart is in handler state (R387), `vec` that a vector atomic or SCC goes on with its next element (R293), and
`oks` has the places of an access that goes on its way. -/
structure Issue where
  active : Bool := false
  core : Nat := 0
  slot : Nat := 0
  slots : List Instr := []
  words : Tbl Word := []
  reps : List Nat := []
  again : Bool := false
  crl : Bool := false
  pc0 : VAddr := 0
  npc : VAddr := 0
  hdr : BitVec 32 := 0
  wait : Bool := false
  raised : Option TrapReq := none
  post : List TrapReq := []
  branched : Bool := false
  ask : Bool := false
  walk : Option (Who × VAddr × Nat × Acc) := none
  grow : Option Nat := none
  late : Option Nat := none
  far : Bool := false
  aside : Bool := false
  vec : Bool := false
  oks : List XOk := []
  deriving DecidableEq, Repr

/-- One KX9 package. `marks` and `badCheck` name granules that are marked or fail their check value (R399); `lost` names dies all of whose memory was marked at a
readmission, but for the granules `cleared` since (R418). -/
structure State where
  cycle : Nat := 0
  agenda : List (Arg × Instr) := []
  arg : Arg := {}
  draw : Nat := 0
  nextId : Nat := 0
  cores : Tbl Core := []
  dies : Tbl Die := []
  hub : Hub := {}
  mem : List Host.Cell := []
  marks : List Nat := []
  badCheck : List Nat := []
  lost : Nat := 0
  cleared : List Nat := []
  pw : List PW := []
  issue : Issue := {}
  events : List EvRec := []
  seqs : Tbl Nat := []
  outbox : List Reply := []
  orphans : List (Nat × Nat) := []
  deriving DecidableEq, Repr

/-- The package right after reset: every register at its reset value, no gang resident, memory with nothing listed. -/
def State.reset : State := {}

end Sys2Proof.Machine
end

