-- ==== Sys2Proof/Machine/Ops.lean ====
section
/-! DEFINITION. Named operations over the state: registers, agents' records, memory bytes and writes in flight, queues, token FIFOs, grid
cells, event records, and taking a trap with the return from it. -/
namespace Sys2Proof.Machine
open Sys2Proof

/-- Outcome of a meaning. -/
abbrev Out := Host.Outcome State Fault Refusal

/-! Cores, dies and harts. -/
def State.core (s : State) (p : Nat) : Core := tget {} s.cores p
def State.setCore (s : State) (p : Nat) (c : Core) : State := { s with cores := tset s.cores p c }
def State.modCore (s : State) (p : Nat) (f : Core → Core) : State := s.setCore p (f (s.core p))
def State.die (s : State) (d : Nat) : Die := tget {} s.dies d
def State.setDie (s : State) (d : Nat) (x : Die) : State := { s with dies := tset s.dies d x }
def State.modDie (s : State) (d : Nat) (f : Die → Die) : State := s.setDie d (f (s.die d))
def State.modHub (s : State) (f : Hub → Hub) : State := { s with hub := f s.hub }
/-- The hart placed in a slot of a core. -/
def State.hart? (s : State) (p h : Nat) : Option Hart := tget none (s.core p).harts h
def State.setHart (s : State) (p h : Nat) (x : Hart) : State := s.modCore p (fun c => { c with harts := tset c.harts h (some x) })
def State.modHart (s : State) (p h : Nat) (f : Hart → Hart) : State :=
  match s.hart? p h with
  | none => s
  | some x => s.setHart p h (f x)
/-- The hart whose packet is in issue. -/
def State.cur (s : State) : Option Hart := s.hart? s.issue.core s.issue.slot
def State.modCur (s : State) (f : Hart → Hart) : State := s.modHart s.issue.core s.issue.slot f
/-- A meaning of a slot: it needs a placed hart in issue. -/
def onHart (s : State) (k : Hart → State) : Out :=
  match s.cur with
  | none => .fault .noHart
  | some h => .next (k h)
/-- A meaning of an event of a core, a die or a unit below a bound. -/
def below (i n : Nat) (t : State) : Out := if i < n then .next t else .fault .noSuchAgent

/-! Registers. g0 reads 0 and k0 reads all ones; writes of both are discarded (R74). -/
def readG (r : Regs) (n : Nat) : Word := if n = 0 then 0 else tget 0 r.g n
def readA (r : Regs) (n : Nat) : VAddr := tget 0 r.a n
def readK (r : Regs) (n : Nat) : Mask := if n = 0 then BitVec.allOnes 256 else tget 0 r.k n
def writeG (r : Regs) (n : Nat) (v : Word) : Regs := if n = 0 then r else { r with g := tset r.g n v }
def writeA (r : Regs) (n : Nat) (v : VAddr) : Regs := { r with a := tset r.a n v }
def writeK (r : Regs) (n : Nat) (v : Mask) : Regs := if n = 0 then r else { r with k := tset r.k n v }

/-- Operands as they stood when the packet issued (R49). -/
def Hart.og (h : Hart) (n : Nat) : Word := readG h.opnd n
def Hart.oa (h : Hart) (n : Nat) : VAddr := readA h.opnd n
def Hart.ok (h : Hart) (n : Nat) : Mask := readK h.opnd n

def State.wrG (s : State) (n : Nat) (v : Word) : State := s.modCur (fun h => { h with regs := writeG h.regs n v })
def State.wrA (s : State) (n : Nat) (v : VAddr) : State := s.modCur (fun h => { h with regs := writeA h.regs n v })
/-- Bits that engines have set in a k register from a cycle on (R142). -/
def Hart.engineBits (h : Hart) (at_ n : Nat) : Mask := (h.kBits.filter (fun q => decide (at_ ≤ q.1) && q.2.1 == n)).foldl (fun m q => m ||| q.2.2) 0
/-- A hart's write of a k register in a cycle leaves the bits that engines set in that cycle or later (R142). -/
def Hart.putK (h : Hart) (at_ n : Nat) (v : Mask) : Hart := { h with regs := writeK h.regs n (v ||| h.engineBits at_ n) }
def State.wrK (s : State) (n : Nat) (v : Mask) : State := s.modCur (fun h => h.putK s.cycle n v)
def State.modCtrl (s : State) (f : Ctrl → Ctrl) : State := s.modCur (fun h => { h with ctrl := f h.ctrl })

/-- A hart is privileged as a firmware hart or in handler state (R325, R382). -/
def Hart.priv (h : Hart) : Bool := h.ctrl.fw || h.handler
/-- The context a hart's accesses translate in (R88, R382). -/
def Hart.curCtx (h : Hart) : Nat := if h.handler then 0 else h.ctx

/-! Outcomes of a slot besides its effect. -/
/-- The packet waits: nothing of it takes effect now. -/
def State.stall (s : State) : State := { s with issue := { s.issue with wait := true } }
/-- An operand of a slot of class `c` has not reached its chain latency (R56). -/
def State.late (s : State) (c : Nat) : State := { s with issue := { s.issue with late := some (min c (s.issue.late.getD c)) } }
/-- A precise trap: the packet has no effect, and only the first failure counts (R379, R380). -/
def State.raise (s : State) (t : TrapReq) : State :=
  { s with issue := { s.issue with raised := some (s.issue.raised.getD t) } }
/-- A post-effect trap of the packet (R379). -/
def State.after (s : State) (t : TrapReq) : State := { s with issue := { s.issue with post := s.issue.post ++ [t] } }
/-- The waiting slot of a packet that has issued stays pending; its operands stay in `opnd` (R353, R354). -/
def State.pend (s : State) (w : Word) : State := s.modCur (fun h => { h with pend := w, served := false })
/-- The waiting slot's request has been taken and goes on waiting. -/
def State.pendServed (s : State) (w : Word) : State := s.modCur (fun h => { h with pend := w, served := true })
/-- An illegal instruction found after decoding: subcause and class code (R378). -/
def State.illegal (s : State) (sub cls : Nat) : State := s.raise { cause := 1, info := sub + 256 * cls }
/-- An operand fault (R194, R213). -/
def State.operand (s : State) (sub : Nat) : State := s.raise { cause := 0x24, info := sub }

/-! Time and free values. -/
/-- DEVTIME in nanoseconds (R425). -/
def State.time (s : State) : Nat :=
  let e : Int := (Config.nsOfCycle s.cycle : Int) - Config.nsOfCycle s.hub.devAt
  (s.hub.devBase + e + e * s.hub.devPpm / 1000000).toNat
/-- A value that nothing constrains (log 4). -/
def State.freeVal (s : State) : BitVec 256 := Config.free s.draw
def State.drawn (s : State) : State := { s with draw := s.draw + 1 }

/-- Creates an event record of a source (R403, R404). -/
def State.event (s : State) (src what arg : Nat) : State :=
  let q := tget 0 s.seqs src
  { s with seqs := tset s.seqs src ((q + 1) % 2 ^ 32), events := s.events ++ [{ src := src, seq := q, time := s.time, what := what, arg := arg }] }
/-- Source identifiers (R403). -/
def srcService (d : Nat) : Nat := 5 * 256 + d
def srcLink (n : Nat) : Nat := 4 * 256 + n
def srcWitness (d : Nat) : Nat := 2 * 256 + d
/-- The package number of copy engine `e` of die `d` (R7). -/
def engineNo (d e : Nat) : Nat := 4 * d + e
def srcEngine (d e : Nat) : Nat := 256 + engineNo d e
def srcUnit (u : Nat) : Nat := 3 * 256 + u
/-- What the service record of a group's corrected errors says (R219, log 20). -/
def evCorrected : Nat := 0x84

/-! Gang records (R331 to R346). -/
def State.gang (s : State) (d i : Nat) : Rec := tget {} (s.die d).recs i
def State.setGang (s : State) (d i : Nat) (r : Rec) : State := s.modDie d (fun x => { x with recs := tset x.recs i r })
def State.modGang (s : State) (d i : Nat) (f : Rec → Rec) : State := s.setGang d i (f (s.gang d i))
def Rec.place? (r : Rec) (p : Nat) : Option Place := r.places.find? (fun q => q.core == p)

/-- Stops every hart of a gang at a packet boundary (R349, R389). -/
def State.stopGang (s : State) (d i : Nat) : State :=
  (s.gang d i).places.foldl (fun s q => q.slots.foldl (fun s h => s.modHart q.core h (fun x => { x with stopped := true })) s) s

/-- A placed gang is to end with a status (R349); the first status stands, and a save or restore is abandoned (R397). -/
def State.endGang (s : State) (d i status : Nat) : State :=
  (s.stopGang d i).modGang d i (fun r => { r with st := 7, endStatus := some (r.endStatus.getD status), save := { r.save with active := false } })

/-! Physical memory (R83 to R86, R195). -/
/-- Base of the per-stack alias. -/
def aliasBase : Nat := 0x20000000000
/-- `hbm_place` of R85. -/
def hbmPlace (a : Nat) (g : Bool) : Nat × Nat :=
  let sh := if g then 16 else 12
  (a / 2 ^ sh % 8, a / 2 ^ (sh + 3) * 2 ^ sh + a % 2 ^ sh)

/-- What a local address names (R84). -/
def localPlace (ilvG : Bool) (lp6 a : Nat) : Loc :=
  if a < 0x8000000000 then let (k, o) := hbmPlace a ilvG; .mem (aliasBase + k * 2 ^ 36 + o)
  else if a < 0x10000000000 then .hole
  else if a < 0x20000000000 then (if lp6.testBit ((a - 0x10000000000) / 2 ^ 38) then .mem a else .hole)
  else if a < 0x28000000000 then .mem a
  else if a < 0x30000000000 then .hole
  else if a < 0x30010000000 then .mem a
  else if a < 0x38000000000 then .hole
  else if a < 0x38011000000 then .reg ((a - 0x38000000000) / 2 ^ 24) ((a - 0x38000000000) % 2 ^ 24)
  else if a < 0x3801F000000 then .hole
  else if a < 0x38020000000 then .bcast ((a - 0x38000000000) % 2 ^ 24)
  else .hole

def State.loc (s : State) (a : Nat) : Loc := localPlace s.hub.ilvG s.hub.lp6 a

/-- The die that owns a memory byte: its stack's or LP6 group's die (R7), its scratchpad's, or the hub for the manifest buffer. -/
def dieOfKey (k : Nat) : Nat :=
  if 0x30010000000 ≤ k then 16
  else if k < 0x20000000000 then [0, 3, 12, 15].getD ((k - 0x10000000000) / 2 ^ 38) 0
  else if k < 0x28000000000 then [1, 2, 4, 7, 8, 11, 13, 14].getD ((k - aliasBase) / 2 ^ 36) 0
  else (k - 0x30000000000) / 2 ^ 24

/-- Address of a byte of a core's scratchpad (R195). -/
def padKey (p o : Nat) : Nat := 0x30000000000 + p * 2 ^ 23 + o

def State.byte (s : State) (k : Nat) : Byte := memGet s.mem k
def State.bytes (s : State) (ks : List Nat) : List Byte := ks.map (memGet s.mem)
def State.readAt (s : State) (k n : Nat) : List Byte := memRead s.mem k n

/-- A granule of main memory homed on a die that came back from a fence (R418). -/
def State.lostGran (s : State) (g : Nat) : Bool := decide (g * 64 < 0x30000000000) && s.lost.testBit (dieOfKey (g * 64))
/-- A granule is marked uncorrectable (R399). -/
def State.marked (s : State) (g : Nat) : Bool := s.marks.contains g || (s.lostGran g && !s.cleared.contains g)
/-- A granule holds an uncorrectable error: it is marked, or its check value fails (R399, R401). -/
def State.badGran (s : State) (g : Nat) : Bool := s.marked g || s.badCheck.contains g
/-- Sets or clears the mark of a granule; the die of a granule that it marks counts it (R402). -/
def State.setMark (s : State) (g : Nat) (b : Bool) : State :=
  let s := if b && !s.marked g && decide (dieOfKey (g * 64) < 16) then s.modDie (dieOfKey (g * 64)) (fun x => { x with chkMark := x.chkMark + 1 }) else s
  { s with marks := if b then insSorted s.marks g else s.marks.filter (· != g)
           cleared := if b then s.cleared.filter (· != g) else if s.lostGran g then insSorted s.cleared g else s.cleared }
def State.badKey (s : State) (k : Nat) : Bool := s.badGran (k / 64)

/-- Domain physical address of a granule of memory (R83). -/
def State.paOf (s : State) (g : Nat) : Nat := s.hub.pkgid.toNat * 2 ^ 46 + g * 64
/-- A read verifies check values: a granule that fails is counted and marked (R401, R402). -/
def State.verify (s : State) (gs : List Nat) : State :=
  gs.foldl (fun s g =>
    if !s.badCheck.contains g then s
    else
      let s1 : State := { s with badCheck := s.badCheck.filter (· != g) }
      let s2 := if dieOfKey (g * 64) < 16 then s1.modDie (dieOfKey (g * 64)) (fun x => { x with chkErr := x.chkErr + 1, chkLast := BitVec.ofNat 64 (s.paOf g) }) else s1
      s2.setMark g true) s

/-- The granules that a set of bytes touches. -/
def granules (ks : List Nat) : List Nat := (ks.map (· / 64)).eraseDups

/-- Breaks the links that a write to a granule breaks, except the writer's own where `keep` says so (R174). -/
def State.breakLinks (s : State) (keep : Option (Nat × Nat)) (gs : List Nat) : State :=
  { s with cores := s.cores.map (fun (p, c) => (p, { c with harts := c.harts.map (fun (i, h) =>
      (i, if keep = some (p, i) then h else h.map (fun h => { h with links := h.links.filter (fun l => !gs.contains l.2) }))) })) }

/-- Bytes that are written over are visible to the host as they now stand (R291, R292). -/
def PW.over (w : PW) (bs : List (Nat × Byte)) : PW := { w with old := w.old.filter (fun o => !bs.any (fun b => b.1 == o.1)) }
/-- A write reaches its bytes as one write (R399): data, then the marks of the granules it touches. `mark` says that the write brings the poison mark, `part` has the bits of its bytes that
it keeps, and `cov` bits that the same instruction has written before, with their values. A write that does not cover its granule is merged into it: the granule is verified first (R400). -/
def State.commit (s : State) (bs : List (Nat × Byte)) (mark : Bool) (keep : Option (Nat × Nat) := none) (part : List (Nat × Byte) := [])
    (cov : List (Nat × Byte × Byte) := []) : State :=
  let gs := granules (bs.map (·.1))
  let left (k : Nat) : Byte := if bs.any (fun b => b.1 == k) then ((part.find? (fun x => x.1 == k)).map (·.2)).getD 0 else 255
  let full (k : Nat) : Bool := cov.foldl (fun b x => if x.1 = k ∧ s.byte k &&& x.2.1 = x.2.2 then b &&& ~~~x.2.1 else b) (left k) == 0
  let whole (g : Nat) : Bool := (List.range 64).all (fun i => full (g * 64 + i))
  let s1 : State := gs.foldl (fun t g => if whole g then t.setMark g mark else if mark then (t.verify [g]).setMark g true else t.verify [g]) s
  ({ s1 with mem := memSetMany s.mem bs, pw := s.pw.map (·.over bs), badCheck := s.badCheck.filter (fun g => !gs.contains g) } : State).breakLinks keep gs

/-- Counts bytes into the pending-byte counters of scopes `lo` to system (R181, R298). -/
def Hart.count (h : Hart) (lo n : Nat) : Hart :=
  { h with pbc := (List.range 6).foldl (fun t i => if lo ≤ i then tmod 0 t i (· + n) else t) h.pbc }
/-- Bytes become visible at scopes `lo` to `hi`. -/
def Hart.uncount (h : Hart) (lo hi n : Nat) : Hart :=
  { h with pbc := (List.range 6).foldl (fun t i => if lo ≤ i ∧ i ≤ hi then tmod 0 t i (· - n) else t) h.pbc }

/-- A new identifier of something in flight. -/
def State.fresh (s : State) : Nat × State := (s.nextId, { s with nextId := s.nextId + 1 })

/-- The hart as writes in flight name it: its record and its hart number. -/
def Hart.name (h : Hart) : Nat × Nat := (h.die * 1024 + h.idx, h.pos)

/-- A write leaves the hart in issue towards its home moment, or has been acknowledged by another package (R181, R292, R298). -/
def State.send (s : State) (bs : List (Nat × Byte)) (n : Nat) (mark remote : Bool) : State :=
  let w : PW := { id := s.nextId, hart := (s.cur.map Hart.name), bytes := bs, mark := mark, remote := remote, cnt := n, phase := if remote then 1 else 0 }
  { s with nextId := s.nextId + 1, pw := s.pw ++ [w] }.modCur (·.count 0 n)

/-- A write that has reached its home moment at once, such as an atomic's: its domain and system moments are still to come. -/
def State.sendHome (s : State) (bs : List (Nat × Byte)) (n : Nat) (mark : Bool) : State :=
  let w : PW := { id := s.nextId, hart := (s.cur.map Hart.name), bytes := bs, cnt := n, phase := 1, old := bs.map (fun b => (b.1, s.byte b.1)) }
  { (({ s with nextId := s.nextId + 1 } : State).modCur (·.count 4 n)).commit bs mark with pw := s.pw ++ [w] }

/-- The hart in issue has a write to one of the granules that is not yet visible at system scope (R291, R292, R295). -/
def State.ownPending (s : State) (ks : List Nat) : Bool :=
  s.pw.any (fun w => w.hart == s.cur.map Hart.name && w.bytes.any (fun b => ks.any (fun k => k / 64 == b.1 / 64)))
/-- Some of the writes named are not yet visible at system scope. -/
def State.anyLive (s : State) (ids : List Nat) : Bool := s.pw.any (fun w => ids.contains w.id)

/-- Writes whose bytes a load returns before their domain or system moment (R297). -/
def State.seen (s : State) (ks : List Nat) : List Nat := (s.pw.filter (fun w => w.phase != 0 && !w.remote && w.bytes.any (fun b => ks.contains b.1))).map (·.id)
/-- A write is visible at a scope (R292, R298): every scope up to package from its home moment, and one homed in another package up to domain from its domain moment. -/
def State.visibleAt (s : State) (sc : Nat) (id : Nat) : Bool :=
  match s.pw.find? (fun w => w.id == id) with
  | none => true
  | some w => if sc ≤ 3 ∧ w.remote = false then decide (1 ≤ w.phase) else if sc ≤ 4 then decide (2 ≤ w.phase) else false

/-- No scalar access of the hart is on its way any more. -/
def Hart.answered (h : Hart) : Hart := { h with remoteReq := false, remoteAns := none, reqOks := [] }

/-- The vector loads of a hart have been performed. -/
def Hart.performed (h : Hart) : Hart := { h with vreads := h.vreads.map (fun v => { v with live := false }) }
/-- Every vector load of a core has been performed, as what takes a translation away waits for (R96, R127). -/
def Core.performed (c : Core) : Core := { c with harts := c.harts.map (fun q => (q.1, q.2.map Hart.performed)) }

/-- A pending-byte counter of the hart reads 0 (R177, R189). -/
def Hart.drained (h : Hart) (sc : Nat) : Bool := tget 0 h.pbc sc == 0

/-! Queues (R198 to R200) and token FIFOs (R203). Queue numbers 8 and 9 are dq0 and dq1. -/
def State.queue (s : State) (p q : Nat) : Queue := tget {} (s.core p).q q
def State.setQueue (s : State) (p q : Nat) (x : Queue) : State := s.modCore p (fun c => { c with q := tset c.q q x })

/-- An entry's own count of cells, beyond which it reads as zero with poison 0 (R198, R200). -/
def Entry.size (e : Entry) : Nat := if e.fmt = .bx then 8 * e.cnt else (e.cnt + e.fmt.perCell - 1) / e.fmt.perCell
def Entry.cell (e : Entry) (j : Nat) : Cell := if j < e.size then tget 0 e.cells j else 0
def Entry.poison (e : Entry) (j : Nat) : Bool := decide (j < e.size) && e.pois.getLsbD j

/-- Places left in a queue for a reservation in this cycle; the entries freed in a cycle count until the next, and one reservation goes per cycle. -/
def Queue.room (q : Queue) (cycle : Nat) : Nat :=
  if q.resAt = some cycle then 0 else 16 - (q.ents.length + if q.deqAt = some cycle then q.deqN else 0)

/-- The first `n` entries, where all are visible from an earlier cycle and none was dequeued in this one. -/
def Queue.heads (q : Queue) (cycle n : Nat) : Option (List Entry) :=
  let l := q.ents.take n
  if q.deqAt = some cycle ∨ l.length < n ∨ l.any (fun e => e.st != .visible || decide (cycle ≤ e.since)) then none else some l

def Queue.pop (q : Queue) (cycle n : Nat) : Queue := { q with ents := q.ents.drop n, deqAt := some cycle, deqN := n }
def Queue.push (q : Queue) (cycle : Nat) (es : List Entry) : Queue := { q with ents := q.ents ++ es, resAt := some cycle }
/-- Entries of an identifier become visible. -/
def Queue.show (q : Queue) (cycle id : Nat) : Queue :=
  { q with ents := q.ents.map (fun e => if e.id = id ∧ e.st ≠ .opened then { e with st := .visible, since := cycle } else e) }

/-- Tokens that a POP of this cycle may take, and places that a PUSH may reserve (R203). -/
def Fifo.canPop (f : Fifo) (cycle : Nat) : Bool := decide ((if f.at_ = cycle then f.added else 0) < f.t)
def Fifo.canPush (f : Fifo) (cycle : Nat) : Bool := decide (f.t + (if f.at_ = cycle then f.popped else 0) + f.rs < 32)
def Fifo.roll (f : Fifo) (cycle : Nat) : Fifo := if f.at_ = cycle then f else { f with at_ := cycle, added := 0, popped := 0 }
def Fifo.pop (f : Fifo) (cycle : Nat) : Fifo := let f := f.roll cycle; { f with t := f.t - 1, popped := f.popped + 1 }
def Fifo.reserve (f : Fifo) (cycle : Nat) : Fifo := let f := f.roll cycle; { f with rs := f.rs + 1 }
def Fifo.fill (f : Fifo) (cycle : Nat) : Fifo := let f := f.roll cycle; { f with t := f.t + 1, rs := f.rs - 1, added := f.added + 1 }
def State.fifo (s : State) (p n : Nat) : Fifo := tget {} (s.core p).fifo n
def State.modFifo (s : State) (p n : Nat) (f : Fifo → Fifo) : State := s.modCore p (fun c => { c with fifo := tmod {} c.fifo n f })

/-! Power (R439). -/
/-- The power limit in force (R439). -/
def Hub.limit (h : Hub) : Nat := min h.cap.toNat 23000
/-- Whether issue is throttled: the package exceeds its limit, or a die has reached 105 °C (R439). -/
def Hub.throttle (h : Hub) : Hub := { h with throt := decide (h.limit < h.pkgw.toNat) || decide (1050 ≤ h.tmax.toNat) }

/-! Routes of the die mesh (R148, R412). -/
/-- Hops, each a die and the port it leaves by, along x and along y. -/
def hopsX (y x x' : Nat) : List (Nat × Nat) :=
  if x < x' then (List.range (x' - x)).map (fun i => (4 * y + x + i, 0)) else (List.range (x - x')).map (fun i => (4 * y + x - i, 2))
def hopsY (x y y' : Nat) : List (Nat × Nat) :=
  if y < y' then (List.range (y' - y)).map (fun i => (4 * (y + i) + x, 1)) else (List.range (y - y')).map (fun i => (4 * (y - i) + x, 3))
def pathXY (a b : Nat) : List (Nat × Nat) := hopsX (a / 4) (a % 4) (b % 4) ++ hopsY (b % 4) (a / 4) (b / 4)
def pathYX (a b : Nat) : List (Nat × Nat) := hopsY (a % 4) (a / 4) (b / 4) ++ hopsX (b / 4) (a % 4) (b % 4)
/-- A path passes no fenced die and no DOWN link. -/
def Hub.clear (h : Hub) (l : List (Nat × Nat)) : Bool := l.all (fun q => !h.fset.testBit q.1 && !h.downs.contains (4 * q.1 + q.2))
/-- `route(a, b)` of R412: its hops, none where b cannot be reached. -/
def Hub.route (h : Hub) (a b : Nat) : Option (List (Nat × Nat)) :=
  if h.fset.testBit b then none
  else if h.clear (pathXY a b) then some (pathXY a b)
  else if h.clear (pathYX a b) then some (pathYX a b)
  else (((List.range 16).filter (fun m => m != a && m != b && !h.fset.testBit m)).map (fun m => (pathXY a m, pathXY m b))).find? (fun q => h.clear q.1 && h.clear q.2)
    |>.map (fun q => q.1 ++ q.2)
/-- `route(a, b)` exists. -/
def State.reach (s : State) (a b : Nat) : Bool :=
  let h := s.hub
  if h.fset = 0 ∧ h.downs.isEmpty then true
  else if h.fset.testBit b then false
  else a == b || h.clear (pathXY a b) || h.clear (pathYX a b)
    || (List.range 16).any (fun m => m != a && m != b && !h.fset.testBit m && h.clear (pathXY a m) && h.clear (pathXY m b))
/-- The die whose memory or register block a place belongs to. -/
def Loc.home : Loc → Option Nat
  | .mem k => if dieOfKey k < 16 then some (dieOfKey k) else none
  | .reg b _ => if b < 16 then some b else none
  | _ => none
/-- A die is fenced, or has fenced itself: nothing of it takes effect (R409, R411). -/
def State.dead (s : State) (d : Nat) : Bool := s.hub.fset.testBit d || (s.die d).wit.selfFenced
/-- A request that was on its way when its route changed is not answered yet (R413). -/
def State.holdOpen (s : State) (q : Hold) : Bool :=
  match q.write with
  | some id => s.pw.any (fun w => w.id == id && w.phase == 0)
  | none => (s.hart? q.core q.slot).any (fun h => h.remoteReq && h.remoteAns.isNone)
/-- New requests of die `d` to die `b` wait (R413). -/
def State.heldDie (s : State) (d b : Nat) : Bool := d != b && s.hub.holds.any (fun q => q.src == d && q.dst == b && s.holdOpen q)
def State.held (s : State) (d : Nat) (l : Loc) : Bool := l.home.any (s.heldDie d)
/-- Requests of a die (16: the hub) to a place are orphaned (R412, R415). -/
def State.cutOff (s : State) (d : Nat) (l : Loc) : Bool :=
  match l.home with
  | none => false
  | some b => if d < 16 then !s.reach d b else s.hub.fset.testBit b

/-! The lane allocation table, the lane map and grid cells (R207 to R220). -/
def latOwner (lat : Word) (g : Nat) : Nat := lat.toNat / 2 ^ (3 * g) % 8
def latSet (lat : Word) (g o : Nat) : Word :=
  BitVec.ofNat 64 (lat.toNat - latOwner lat g * 2 ^ (3 * g) + o * 2 ^ (3 * g))
def latPend (lat : Word) (g : Nat) : Bool := lat.getLsbD (48 + g)
def latSetPend (lat : Word) (g : Nat) (b : Bool) : Word :=
  BitVec.ofNat 64 (lat.toNat - (if latPend lat g then 2 ^ (48 + g) else 0) + (if b then 2 ^ (48 + g) else 0))
/-- Logical groups of a resident gang index, ascending: gang group m is entry m (R208). -/
def Core.groups (c : Core) (rgi : Nat) : List Nat := if rgi < 6 then (List.range 16).filter (fun g => latOwner c.lat g == rgi) else []
def lmapSplg (w : Word) : Nat := fldN w 20 16
def lmapDead (w : Word) (g : Nat) : Bool := w.getLsbD g
def lmapErr : Word := 0x8000000#64
/-- Physical group of a logical group (R208). -/
def Core.phys (c : Core) (g : Nat) : Nat := if lmapSplg c.lmap = g then 16 else g
/-- Physical column of gang column j of a set of logical groups. -/
def Core.col (c : Core) (gs : List Nat) (j : Nat) : Nat := c.phys (gs.getD (j / 16) 0) * 16 + j % 16
def cellKey (i col : Nat) : Nat := i * 272 + col
def Core.cell (c : Core) (gs : List Nat) (i j : Nat) : Cell := tget 0 c.grid (cellKey i (c.col gs j))
def Core.poison (c : Core) (gs : List Nat) (i j : Nat) : Bool := tget false c.pois (cellKey i (c.col gs j))
/-- Band tag as the gang sees it; the tag is the same in every group the gang holds (R212). -/
def Core.tag (c : Core) (gs : List Nat) (row : Nat) : Tag := match gs with | [] => .f32 | g :: _ => tget .f32 c.tags (row / 16 * 16 + g)
/-- Writes a cell and its poison bit, and marks the row dirty in the cell's logical group (R395). -/
def Core.putCell (c : Core) (gs : List Nat) (i j : Nat) (v : Cell) (p : Bool) : Core :=
  let k := cellKey i (c.col gs j)
  { c with grid := tset c.grid k v, pois := tset c.pois k p, dirty := tset c.dirty (i * 16 + gs.getD (j / 16) 0) true }
/-- Sets the tag of a row's band in every group the gang holds (R212). -/
def Core.putTag (c : Core) (gs : List Nat) (row : Nat) (t : Tag) : Core :=
  { c with tags := gs.foldl (fun m g => tset m (row / 16 * 16 + g) t) c.tags }

/-- Clears a logical group (R207): its cells, poison bits, band tags, Colophon cells and partials. -/
def Core.clearGroup (c : Core) (g : Nat) : Core :=
  let pg := c.phys g
  { c with
    grid := c.grid.filter (fun (k, _) => k % 272 / 16 != pg), pois := c.pois.filter (fun (k, _) => k % 272 / 16 != pg),
    tags := c.tags.filter (fun (k, _) => k % 16 != g), chkrow := c.chkrow.filter (fun (k, _) => k / 16 != pg),
    chkcol := c.chkcol.filter (fun (k, _) => k % 17 != pg),
    dirty := (List.range 256).foldl (fun t i => tset t (i * 16 + g) true) c.dirty }

/-- Logical groups that the hart's gang holds on its core, in gang order. -/
def State.heldGroups (s : State) (p : Nat) (h : Hart) : List Nat :=
  match (s.gang h.die h.idx).place? p with
  | none => []
  | some q => (s.core p).groups q.rgi
/-- The groups that the hart's views and updates reach: not those whose release is agreed (R217, R317). -/
def State.groupsOf (s : State) (p : Nat) (h : Hart) : List Nat :=
  (s.heldGroups p h).filter (fun g => !(tget [] (s.gang h.die h.idx).agreed p).contains g)

/-! Fault record queue (R166, R169, R387). -/
/-- A 32-byte fault record. -/
def faultRec (va : VAddr) (elem cause info slot src seq time : Nat) : List Byte :=
  leBytes 10 va.toNat ++ leBytes 2 elem ++ leBytes 1 cause ++ leBytes 2 info ++ leBytes 1 slot ++ leBytes 4 src ++ leBytes 4 seq ++ leBytes 8 time

/-- Places of a core's fault record queue that are not taken in this cycle: a place freed is usable from the next (R323). -/
def Core.frqRoom (c : Core) (cycle : Nat) : Nat := 64 - (c.frq.length + if c.frqFreedAt = cycle then c.frqFreed else 0)

/-- Pushes a record whose SEQ and TIME are those of the push, where the queue has room. -/
def State.pushRec (s : State) (p : Nat) (r : List Byte) : Option State :=
  let c := s.core p
  if c.frqRoom s.cycle = 0 then none
  else
    let b := r.take 20 ++ leBytes 4 c.frqSeq ++ leBytes 8 s.time
    some (s.setCore p { c with frq := c.frq ++ [BitVec.ofNat 256 (leNat b)], frqSeq := (c.frqSeq + 1) % 2 ^ 32 })

/-- Pushes records while there is room; answers those left. -/
def State.pushRecs (s : State) (p : Nat) : List (List Byte) → State × List (List Byte)
  | [] => (s, [])
  | r :: rs => match s.pushRec p r with
    | none => (s, r :: rs)
    | some s' => s'.pushRecs p rs

/-! Taking a trap (R376 to R383) and the return from it (R384). -/
/-- TRCAUSE of a trap (R376). -/
def trcause (t : TrapReq) : Word :=
  BitVec.ofNat 64 (t.cause + t.reissue * 2 ^ 8 + (if t.rdef then 2 ^ 11 else 0) + t.ret * 2 ^ 12 + (if t.crl then 2 ^ 14 else 0)
    + (if t.tilep then 2 ^ 15 else 0) + t.nrec * 2 ^ 16)

/-- The registers that exist twice, once for the program and once for handler state (R382). -/
def bankedG : List Nat := [24, 25, 26, 27, 28, 29, 30, 31]
def bankedA : List Nat := [14, 15]
/-- Exchanges the named and the unnamed bank. -/
def Hart.swapBank (h : Hart) : Hart :=
  { h with
    regs := { h.regs with g := tsetMany h.regs.g (bankedG.map (fun n => (n, tget 0 h.bankG n))),
                          a := tsetMany h.regs.a (bankedA.map (fun n => (n, tget 0 h.bankA n))) }
    bankG := bankedG.map (fun n => (n, tget 0 h.regs.g n)), bankA := bankedA.map (fun n => (n, tget 0 h.regs.a n)) }

/-- Exchanges the handler's and the program's sides of a hart in handler state: names, operands, and waiting slots. A serialising slot of the program goes on waiting while the hart
handles a trap (R387, R389), and acts on the program's registers. -/
def Hart.flip (h : Hart) : Hart :=
  { h.swapBank with handler := !h.handler, pend := h.pendAside, pendAside := h.pend, opnd := h.kOpnd, kOpnd := h.opnd, octrl := h.kCtrl, kCtrl := h.octrl }

/-- A faulting vector instruction has ended: its partial-completion mask and lane-group counters are written (R167). -/
def Hart.report (h : Hart) (cycle : Nat) : Hart :=
  { h.owedK.foldl (fun h q => h.putK cycle q.1 q.2) h with trap := { h.trap with lg := h.owedLg.getD h.trap.lg }, owedK := [], owedLg := none }

/-- The hart as it stands in handler state: trap record written, held slots set aside, next packet at the vector (R378, R382). The demand for CONV on the packet
after a mode change (R54) ends with the trap: the packet after it begins a convoy in any case (DESIGN CHOICE, log 69). -/
def Hart.enter (h : Hart) (vec : Word) (t : TrapReq) : Hart :=
  { h.swapBank with
    trap := { h.trap with cause := trcause t, pc := t.pc.getD h.pc, va := t.va, info := BitVec.ofNat 64 t.info },
    handler := true, heldAside := h.held, held := [], links := [], fresh := true, modeNext := false, pc := vec.setWidth 80 <<< 16 }

/-- TAKING A TRAP: the hart enters handler state; a trap in handler state is a double trap, which stops the hart and ends its gang with status
0x02 and a service event (R383). -/
def State.enterTrap (s : State) (p i : Nat) (t : TrapReq) : State :=
  match s.hart? p i with
  | none => s
  | some h =>
    if h.handler then ((s.modHart p i (fun h => { h with stopped := true })).endGang h.die h.idx 2).event (srcService (p / 2)) 0x83 (p * 8 + i)
    else s.setHart p i (h.enter (s.die (p / 2)).trapvec t)

/-- A replay moves on to its next packet; a body that ends ends its trip, and the last trip ends the replay (R248). -/
def Carrel.advance (c : Carrel) : Carrel :=
  if c.pos + 1 < c.len then { c with pos := c.pos + 1 }
  else { c with pos := 0, trip := c.trip + 1, st := if c.trip + 1 < c.count then .replaying else .loaded }

/-- The packet that a replay trapped on is over (R386). -/
def Hart.moveOn (h : Hart) : Hart := if h.crlNext then { h with carrel := h.carrel.advance, crlNext := false } else h

/-- The hart as it stands after leaving handler state (R384, R386): the program's bank and held slots come back, and RET says where it goes on. A serialising slot of the program that
still waits comes first (R353). -/
def Hart.leave (h : Hart) : Hart :=
  let tc := h.trap.cause
  let re := fldN tc 10 8
  let tile := if tc.getLsbD 15 then some h.tileInfo else none
  let h1 := { h.swapBank with handler := false, held := h.heldAside, heldAside := [], fresh := true, modeNext := false }
  if fldN tc 7 0 = 0x29 then { h1 with pc := h.cont }
  else
  let h1 : Hart := if h.pendAside = 0 then h1 else { h1 with pend := h.pendAside, pendAside := 0, opnd := h.kOpnd, octrl := h.kCtrl }
  match fldN tc 13 12 with
  | 0 => { h1 with pc := if tc.getLsbD 14 then h.cont else h.trap.pc, tileNow := tile, retry := true }
  | 1 => { (if re = 0 ∧ tile = none then h1.moveOn else h1) with pc := h.cont, reNow := re, tileNow := tile }
  | _ => { h1.moveOn with pc := h.cont, tileNow := tile }

/-- RETURN FROM A TRAP: RET = TERMINATE ends the gang with status 0x02; otherwise the hart leaves handler state. -/
def State.leaveTrap (s : State) (p i : Nat) : State :=
  match s.hart? p i with
  | none => s
  | some h => if fldN h.trap.cause 13 12 = 3 then s.endGang h.die h.idx 2 else s.setHart p i h.leave

end Sys2Proof.Machine
end

