-- ==== Sys2Proof/Machine/Flags.lean ====
section
/-! DEFINITION. Status words and the results that say how values compare: HSTAT (R57), the compare and class results (R311), OVR.SIZE (R338). -/
namespace Sys2Proof.Machine
open Sys2Proof

def bit (b : Bool) (n : Nat) : Nat := if b then 2 ^ n else 0

/-- HSTAT (R57); FW reads 1 in handler state (R382). -/
def hstatWord (c : Ctrl) (handler : Bool) : Word :=
  BitVec.ofNat 64 (bit c.ftz 0 + bit c.wtrap 1 + bit c.prot 2 + bit c.mm 3 + c.role.code * 16 + bit (c.fw || handler) 6)

/-- The truth value that a compare writes (R308, R311). -/
def flag (b : Bool) : Word := if b then 1 else 0

/-- FP32 value of the low half of a g register (R310). -/
def f32of (x : Word) : Val := f32 (x.toNat % 2 ^ 32)

/-- FCMPEQ, FCMPLT and FCMPLE: a NaN gives 0, and the zeros are equal (R311). -/
def fpEq (a b : Val) : Bool := !a.isNaN && !b.isNaN && a.eqv b
def fpLt (a b : Val) : Bool := !a.isNaN && !b.isNaN && a.lt b
def fpLe (a b : Val) : Bool := !a.isNaN && !b.isNaN && !b.lt a

/-- Class number of an FP32 encoding (R311). -/
def fpClass (x : Nat) : Nat :=
  match f32 x with
  | .nan => 8
  | .inf neg => if neg then 0 else 7
  | .fin neg m _ => if m = 0 then (if neg then 3 else 4) else if Fmt.fp32.isSubnormal x then (if neg then 2 else 5) else (if neg then 1 else 6)

/-- Ring slots held by records (R338). -/
def Die.ringUsed (d : Die) : Nat := (d.ring.filter (fun (_, r) => r.st != 0)).length
def ovrSizeWord (d : Die) : Word := BitVec.ofNat 64 (d.ovrSlots + d.ringUsed * 2 ^ 32)

end Sys2Proof.Machine
end

