-- ==== Sys2Proof/Machine/Control.lean ====
section
/-! DEFINITION. Control registers (R75, R314, R315), PGSEED, LMAP and LAT (R38, R216, R219), and the meanings of MOVS, MOVD and the rows that
write the per-core registers. -/
namespace Sys2Proof.Machine
open Sys2Proof

/-- Value of a control register, with 80 bits where it has them (R75, R315). Registers of the hart read as they stood at issue. -/
def State.crRead (s : State) (p : Nat) (h : Hart) (n : Nat) : BitVec 80 :=
  let c := s.core p
  let d := s.die (p / 2)
  let w (x : Word) : BitVec 80 := x.setWidth 80
  let k (x : Nat) : BitVec 80 := BitVec.ofNat 80 x
  match n with
  | 0 => w (hstatWord h.octrl h.handler)
  | 1 => k h.octrl.vl
  | 2 => k h.octrl.mvl
  | 3 => w h.octrl.mfc
  | 4 => w h.octrl.dsel
  | 5 => w c.pgseed
  | 32 => w c.lmap
  | 33 => w c.lat
  | 64 => w h.trap.cause
  | 65 => h.trap.pc
  | 66 => h.trap.va
  | 67 => w h.trap.info
  | 96 => d.ovrBase
  | 97 => w (ovrSizeWord d)
  | _ =>
    if 16 ≤ n ∧ n < 32 then k (tget 0 h.octrl.tol (n - 16)).toNat
    else if 48 ≤ n ∧ n < 54 then k (tget 0 h.pbc (n - 48) % 2 ^ 64)
    else if 80 ≤ n ∧ n < 96 then k (tget 0 h.trap.lg (n - 80)).toNat
    else 0

/-- Bits of MFC that are not RZ (R154). -/
def mfcMask : Word := 0xFF737FFFFFF#64
/-- Bits of TRCAUSE and TRINFO that are not RZ (R105, R376); TRINFO also carries other causes' fields (R378). -/
def trcauseMask : Word := 0xFFFFFFF#64

/-- A write of LMAP: refused with ERR, or stored with the LAT owners of the groups whose DEAD bits change (R216, R218, R219); a group that becomes free is free from now on
(R220). -/
def Core.writeLmap (c : Core) (cycle : Nat) (w : Word) : Core :=
  let owned (g : Nat) : Bool := decide (latOwner c.lat g < 6)
  let changes (g : Nat) : Bool := (lmapDead c.lmap g != lmapDead w g) || ((lmapSplg c.lmap == g) != (lmapSplg w == g))
  if (List.range 16).any (fun g => owned g && changes g) ∨ (16 ≤ lmapSplg w ∧ lmapSplg w < 31) ∨ (lmapSplg w ≠ 31 ∧ w.getLsbD 26) then
    { c with lmap := c.lmap ||| lmapErr }
  else
    let err := if w.getLsbD 27 then 0 else c.lmap &&& lmapErr
    { c with
      lmap := (w &&& 0x41FFFFF#64) ||| err
      freeAt := (List.range 16).foldl (fun t g => if lmapDead c.lmap g && !lmapDead w g then tset t g cycle else t) c.freeAt
      lat := (List.range 16).foldl (fun l g =>
        if lmapDead w g then latSet l g 6 else if lmapDead c.lmap g then latSet l g 7 else l) c.lat }

/-- A firmware write of LAT (R216); a group that becomes free is free from now on (R220). -/
def Core.writeLat (c : Core) (cycle : Nat) (w : Word) : Core :=
  if (List.range 16).any (fun g => latOwner c.lat g < 6) then { c with lmap := c.lmap ||| lmapErr }
  else
    let lat := (List.range 16).foldl (fun l g => if lmapDead c.lmap g then latSet l g 6 else l) w
    { c with lat := lat, freeAt := (List.range 16).foldl (fun t g => if latOwner c.lat g ≠ 7 ∧ latOwner lat g = 7 then tset t g cycle else t) c.freeAt }

/-- A load of PGSEED; zero loads 1 (R38). -/
def Core.writePgseed (c : Core) (w : Word) : Core := { c with pgseed := if w = 0 then 1 else w }

/-- A write of OVR.BASE or OVR.SIZE is ignored while a ring slot is held (R338). -/
def Die.writeOvr (d : Die) (base : VAddr) (size : Option Word) : Die :=
  if d.ringUsed ≠ 0 then d
  else { d with ovrBase := base >>> 16 <<< 16, ovrSlots := match size with | some w => fldN w 19 0 | none => d.ovrSlots }

/-- An 80-bit register with its low 64 bits, or its high 16, replaced (R315). -/
def widePart (old : BitVec 80) (hi : Bool) (v : Word) : BitVec 80 :=
  if hi then (v.setWidth 16 ++ old.setWidth 64 : BitVec 80) else ((old >>> 64).setWidth 16 ++ v : BitVec 80)

/-- Writes a control register (R12, R75, R314, R315). -/
def State.crWrite (s : State) (n : Nat) (hi : Bool) (v : Word) : State :=
  let p := s.issue.core
  match n with
  | 0 => s.modCur (fun h => { h with
      ctrl := { h.ctrl with ftz := v.getLsbD 0, wtrap := v.getLsbD 1, prot := v.getLsbD 2 }
      protBusy := h.protBusy || (v.getLsbD 2 && !h.ctrl.prot) })
  | 3 => s.modCtrl (fun c => { c with mfc := v &&& mfcMask })
  | 4 => s.modCtrl (fun c => { c with dsel := v &&& 1#64 })
  | 5 => s.modCore p (fun c => { c with pgNext := some v })
  | 32 => s.modCore p (fun c => { c with lmapNext := some v })
  | 33 => s.modCore p (·.writeLat s.cycle v)
  | 64 => s.modCur (fun h => { h with trap := { h.trap with cause := v &&& trcauseMask } })
  | 65 => s.modCur (fun h => { h with trap := { h.trap with pc := widePart h.trap.pc hi v } })
  | 66 => s.modCur (fun h => { h with trap := { h.trap with va := widePart h.trap.va hi v } })
  | 67 => s.modCur (fun h => { h with trap := { h.trap with info := v } })
  | 96 => s.modDie (p / 2) (fun d => d.writeOvr (widePart d.ovrBase hi v) none)
  | 97 => s.modDie (p / 2) (fun d => d.writeOvr d.ovrBase (some v))
  | _ =>
    if 16 ≤ n ∧ n < 32 then s.modCtrl (fun c => { c with tol := tset c.tol (n - 16) (v.setWidth 8) })
    else if 80 ≤ n ∧ n < 96 then s.modCur (fun h => { h with trap := { h.trap with lg := tset h.trap.lg (n - 80) (v.setWidth 16) } })
    else s

/-- MOVS: bits [63:0], or under .h bits [79:64], of a control register (R314, R315). -/
def execMovs (f : SC) (s : State) : Out :=
  onHart s (fun h =>
    let v := s.crRead s.issue.core h f.cr.toNat
    s.wrG f.d.toNat (if f.s1.getLsbD 0 then (v >>> 64).setWidth 64 else v.setWidth 64))

/-- MOVD (R314, R315). -/
def execMovd (f : SC) (s : State) : Out := onHart s (fun h => s.crWrite f.cr.toNat (f.d.getLsbD 0) (h.og f.s1.toNat))

/-- LMAP_WRITE: the write takes effect (R219). -/
def execLmapWrite (s : State) : Out := below s.arg.core 32 (s.modCore s.arg.core (fun c => { c.writeLmap s.cycle s.arg.w with lmapNext := none }))
/-- LAT_WRITE (R216). -/
def execLatWrite (s : State) : Out := below s.arg.core 32 (s.modCore s.arg.core (·.writeLat s.cycle s.arg.w))
/-- PGSEED_WRITE: the generator state is loaded when the cycle ends, in place of its step, so that the roundings of this cycle use the old state (R38). -/
def execPgseedWrite (s : State) : Out := below s.arg.core 32 (s.modCore s.arg.core (fun c => { c with pgNext := some s.arg.w }))

/-- One core cycle passes on a core: its generator steps, and register writes of the cycle before take effect (R37, R38, R219). -/
def Core.tick (c : Core) (cycle : Nat) : Core :=
  let c := match c.lmapNext with | some w => { c.writeLmap cycle w with lmapNext := none } | none => c
  match c.pgNext with
  | some w => { c.writePgseed w with pgNext := none }
  | none => { c with pgseed := pepperStep c.pgseed }

end Sys2Proof.Machine
end

