-- ==== Sys2Proof/Machine/Operands.lean ====
section
/-! DEFINITION. Operand forms: the views of R67 and R210, V-slot sources (R211, R213, R255), packed sub-elements (R19), Pepper values
(R35 to R37), and the fields of MFC (R154). -/
namespace Sys2Proof.Machine
open Sys2Proof

/-! Packed cells (R19, R156). -/
/-- Sub-elements of a cell of `n` elements of `w` bits. -/
def subsOf (n w : Nat) (x : Nat) : List Nat := (List.range n).map (fun i => x / 2 ^ (w * i) % 2 ^ w)
def joinOf (w : Nat) (l : List Nat) : Nat := l.foldr (fun x a => x + 2 ^ w * a) 0
def subs (t : Tag) (c : Cell) : List Nat := subsOf t.n (if t = .bx then 32 else t.fmt.width) c.toNat
def join (t : Tag) (l : List Nat) : Cell := BitVec.ofNat 32 (joinOf (if t = .bx then 32 else t.fmt.width) l)
/-- Replaces one sub-element of a cell. -/
def putSub (t : Tag) (c : Cell) (i x : Nat) : Cell := join t ((subs t c).set i x)

/-! What a grid slot of a hart sees. -/
/-- The hart in issue with its core, its gang's groups, its length, the counted width and the distance to the mirror columns (R214, R223,
R224); `ents` are the queue entries that the slot dequeues. -/
structure VCtx where
  h : Hart
  p : Nat
  c : Core
  gs : List Nat
  len : Nat
  width : Nat
  mir : Nat
  ents : List (Nat × Entry) := []

/-- The core with the tags that its slot's own earlier packets set, issued and not yet written: a view is checked against those (R213). -/
def Core.tagsAhead (c : Core) (slot : Nat) : Core :=
  c.flight.foldl (fun k f => match f.eff with
    | .v e => if f.slot == slot then e.tags.foldl (fun k q => k.putTag e.gs q.1 q.2) k else k
    | .m _ => k) c

/-- Columns of the primary half in protected mode, all columns otherwise. -/
def protCols (prot : Bool) (g : Nat) : Nat := if prot then 16 * (g / 2) else 16 * g

def State.vctx (s : State) (h : Hart) (len : Nat) : VCtx :=
  let gs := s.groupsOf s.issue.core h
  { h := h, p := s.issue.core, c := (s.core s.issue.core).tagsAhead s.issue.slot, gs := gs, len := len, width := protCols h.octrl.prot gs.length,
    mir := if h.octrl.prot then protCols true gs.length else 0 }

/-- Element j of a grid view: row and gang column (R210); `b` is the row within a row block (R256). -/
def vAt (v : View) (b j : Nat) : Nat × Nat :=
  match v with
  | .row i => (i + b, j)
  | .col i => (j, i)
  | .diag i => (j, (i + j) % 256)
  | _ => (0, j)

def vIsGrid : View → Bool | .row _ | .col _ | .diag _ => true | _ => false

/-- Rows that a view names at a length, for a block of `blk` rows (R210, R256). -/
def vRows (v : View) (len blk : Nat) : List Nat :=
  match v with
  | .row i => if len = 0 then [] else (List.range blk).map (· + i)
  | .col _ | .diag _ => List.range len
  | _ => []

/-- Gang columns that a view names. -/
def vCols (v : View) (len : Nat) : List Nat :=
  match v with
  | .row _ | .chkrow => List.range len
  | .col i => if len = 0 then [] else [i]
  | .diag i => (List.range len).map (fun j => (i + j) % 256)
  | _ => []

/-- Order 1 of R213. -/
def VCtx.wide (x : VCtx) (v : View) : Bool := (vCols v x.len).any (fun c => decide (x.width ≤ c))
/-- Tags of the bands a view touches. -/
def VCtx.tags (x : VCtx) (v : View) (blk : Nat) : List Tag := ((vRows v x.len blk).map (fun r => x.c.tag x.gs (min r 255))).eraseDups
/-- Orders 1 to 3 of R213 over all views of a slot; rows of a block in bands of different tags count under order 2 (R256). -/
def VCtx.probe (x : VCtx) (vs : List View) (blk : Nat) : Option Nat :=
  if vs.any x.wide then some 0x12
  else if vs.any (fun v => vIsGrid v && decide (1 < (x.tags v blk).length)) then some 0x11
  else if vs.any (fun v => match v with | .col _ | .diag _ => (x.tags v blk).contains .bx | _ => false) then some 0x13
  else none

/-- The tag that a source carries (R213): `none` where it carries none, `some none` for an entry whose format has no tag. -/
def VCtx.srcTag (x : VCtx) (v : View) (blk : Nat) : Option (Option Tag) :=
  if x.len = 0 then none
  else match v with
  | .row _ | .col _ | .diag _ => (x.tags v blk).head?.map some
  | .chkrow | .chkcol => some (some .f32)
  | .vscLo | .vscHi => some (some .i32)
  | .q n => (x.ents.find? (fun e => e.1 == n)).map (fun e => e.2.fmt.tag)
  | _ => none

/-- The FP32 bits of an exact Colophon value (R211). -/
def colBits (m e : Int) : Nat := rn32 (Val.ofDy ⟨m, e⟩)
def Core.chkRowAt (c : Core) (gs : List Nat) (j : Nat) : Int × Int := tget (0, 0) c.chkrow (c.col gs j)
/-- The chkcol value of a row: the sum of its partials in the gang's groups (R228). -/
def Core.chkColAt (c : Core) (gs : List Nat) (i : Nat) : Dy :=
  Dy.sum (gs.map (fun g => let x := tget (0, 0) c.chkcol (i * 17 + c.phys g); ⟨x.1, x.2⟩))

/-- Cell j of a source with its poison bit, read from the primary (`off` = 0) or the mirror columns; `t` is the tag a broadcast takes
(R200, R211, R255). -/
def VCtx.src (x : VCtx) (v : View) (t : Tag) (b off j : Nat) : Cell × Bool :=
  match v with
  | .row _ | .col _ | .diag _ =>
    let (r, c) := vAt v b j
    (x.c.cell x.gs r (c + off), x.c.poison x.gs r (c + off))
  | .g n =>
    let w := if t = .bx then 32 else t.fmt.width
    (join t (List.replicate t.n ((x.h.og n).toNat % 2 ^ w)), false)
  | .chkrow => let y := x.c.chkRowAt x.gs j; (BitVec.ofNat 32 (colBits y.1 y.2), false)
  | .chkcol => let y := x.c.chkColAt x.gs j; (BitVec.ofNat 32 (colBits y.m y.e), false)
  | .vscLo => ((tget 0x7F x.h.vsc j).setWidth 32, false)
  | .vscHi => ((tget 0x7F x.h.vsc (256 + j)).setWidth 32, false)
  | .q n =>
    match x.ents.find? (fun e => e.1 == n) with
    | some (_, e) => (e.cell j, e.poison j)
    | none => (0, false)
  | .dq _ => (0, false)

/-- The Pepper value of an index and a lane under DSEL (R35 to R37). -/
def pepper (dsel : Word) (seed : Word) (idx lane : Nat) : Nat := if dsel.getLsbD 0 then pepperGen seed lane else pepperTable idx
/-- Pepper value of sub-element i of a destination cell: its grid index, or its element number in a drain entry (R36, R258). In generator mode the rounding of a slot in flight
takes the generator state of the slot's issue cycle; R37 does not say in which cycle of the slot's latency it rounds (DESIGN CHOICE, log 69). -/
def VCtx.pep (x : VCtx) (dst : View) (t : Tag) (b j i : Nat) : Nat :=
  match dst with
  | .dq _ => pepper x.h.octrl.dsel x.c.pgseed (t.n * j + i) j
  | v => let (r, c) := vAt v b j; pepper x.h.octrl.dsel x.c.pgseed (t.n * (256 * r + c) + i) c

/-- The groups that a set of gang columns touches, the mirror included. -/
def VCtx.groupsAt (x : VCtx) (cols : List Nat) : List Nat :=
  ((cols ++ (if x.mir = 0 then [] else cols.map (· + x.mir))).map (fun c => x.gs.getD (c / 16) 99)).eraseDups

/-- A setting of another hart stands on one of the rows in one of the groups (R221). -/
def State.rowsBusy (s : State) (p slot : Nat) (rows groups : List Nat) : Bool :=
  (s.core p).flight.any (fun f => f.slot != slot && f.rows.any rows.contains && f.groups.any groups.contains)

/-- Settings of any hart on a row of the gang's groups (R224). -/
def State.anyBusy (s : State) (p : Nat) (groups : List Nat) : Bool :=
  (s.core p).flight.any (fun f => !f.rows.isEmpty && f.groups.any groups.contains)

/-- A flight that will write cells or tags; the rows that it writes, a band whose tag it sets among them (R282). -/
def Flight.writes (f : Flight) : Bool := match f.eff with | .m _ => true | .v e => !e.puts.isEmpty || !e.tags.isEmpty
def Flight.wrote (f : Flight) : List Nat :=
  match f.eff with | .m _ => f.foot | .v _ => f.rows
def Flight.isUpdate (f : Flight) : Bool := match f.eff with | .m _ => true | .v _ => false

/-- A row that the hart's own earlier slots are still writing, of those that `which` picks (R56, R222, R251). -/
def State.rowsLate (s : State) (p slot : Nat) (h : Hart) (which : Flight → Bool) (rows groups : List Nat) : Bool :=
  (s.core p).flight.any (fun f => f.slot == slot && which f && f.wrote.any rows.contains && f.groups.any groups.contains)
    || h.ready.any (fun q => decide (s.cycle < q.2) && (match q.1 with | .row i => rows.contains i | _ => false))

/-! Fields of MFC (R154). -/
def mfcLmem (m : Word) : Nat := fldN m 4 0
def mfcLreg (m : Word) : Nat := fldN m 9 5
def mfcLrm (m : Word) : Nat := fldN m 12 10
def mfcLsat (m : Word) : Bool := m.getLsbD 13
def mfcLsc (m : Word) : Nat := fldN m 15 14
def mfcSmem (m : Word) : Nat := fldN m 20 16
def mfcSrm (m : Word) : Nat := fldN m 23 21
def mfcSsat (m : Word) : Bool := m.getLsbD 24
def mfcSsc (m : Word) : Nat := fldN m 26 25
def mfcIsh (m : Word) : Nat := fldN m 29 28
def mfcPck (m : Word) : Nat := fldN m 34 32
def mfcLsa (m : Word) : Nat := fldN m 39 36
def mfcSsa (m : Word) : Nat := fldN m 43 40

/-- The declared entry size of a queue in cells (R201); a packet that names a queue its gang does not claim is refused first (R202). -/
def State.queueCells (s : State) (h : Hart) (q : Nat) : Nat := (s.gang h.die h.idx).desc.qsize.getD q 1024 / 4

end Sys2Proof.Machine
end

