-- ==== Sys2Proof/Machine/Vector.lean ====
section
/-! DEFINITION. V slots (11_vector_instructions.md) but for conversions and BX: how a V slot executes (R255 to R259, R282 to R286), elementwise
arithmetic, compares, masks, moves, permutes and reductions. -/
namespace Sys2Proof.Machine
open Sys2Proof

/-! How a V slot executes. -/
/-- What a V slot computes: cells by row and gang column with the bits of them that it leaves as they are, masks, vsc bytes, tags, and a fault found at write-back (subcause and BX element). -/
structure VOut where
  puts : List (Nat × Nat × Cell × Bool) := []
  keep : List (Nat × Nat × Cell) := []
  masks : List (Nat × Mask) := []
  vsc : List (Nat × Byte) := []
  tags : List (Nat × Tag) := []
  err : Option (Nat × Nat) := none

/-- A V slot's shape: its source views, destination view, block, timing, the rows it reads and writes, its tag and range checks, and its
computation at a distance from the primary columns; `beyond` is order 1 of R213 on cells that no view names, `band` says that the slot sets a tag, and `elems` is the tag in which the
elements of the destination are numbered, given that of the sources. -/
structure VSpec where
  srcs : List View
  dst : Option View := none
  blk : Nat := 1
  lat : Nat := 4
  hold : Nat := 1
  elems : Tag → Tag := id
  beyond : VCtx → Bool := fun _ => false
  band : Bool := false
  reads : Nat → List Nat
  writes : Nat → List Nat
  cols : Nat → List Nat
  check : VCtx → Except Nat Tag
  body : VCtx → Tag → Nat → VOut

/-- The rows that a slot with a destination sets busy of those that it writes: none for a drain queue and at length 0 (R221, R282). -/
def rowsOf (dst : Option View) (len : Nat) (writes : List Nat) : List Nat :=
  match dst with
  | some (.dq _) => []
  | _ => if len = 0 then [] else writes
def VSpec.rowsAt (sp : VSpec) (len : Nat) : List Nat := rowsOf sp.dst len (sp.writes len)
/-- The write-back fault of a V slot, found in either copy (R284): DEDUCED for the mirror copy, whose elements are computed as the primary's are (R223; log 71). -/
def VOut.bad (a b : VOut) : Option (Nat × Nat) :=
  match a.err, b.err with
  | some x, some y => some (if y.2 < x.2 then y else x)
  | some x, none => some x
  | none, y => y

/-- The groups that a V slot touches: those of its columns, and where it sets a tag every group of the gang (R212, R221). -/
def VSpec.groups (sp : VSpec) (x : VCtx) : List Nat := if sp.band && x.len != 0 then x.gs else x.groupsAt (sp.cols x.len)

def vw (b : BitVec 12) : View := (View.ofBits b).getD (.row 0)

/-- Number of an element of a destination of a tag from its cell and its place in the cell, a BX element being eight cells (R225, R280). -/
def elemNo (t : Tag) (cell i : Nat) : Nat := if t = .bx then cell / 8 else cell * t.n + i
/-- First element at which primary and mirror results differ, counted as for a row view in the tag that the destination has after the slot (R223, R225, R286). -/
def mismatch (t0 : Tag) (dst : Option View) (a b : VOut) : Option Nat :=
  let pos (q : Nat × Nat × Cell × Bool) : Nat := match dst with | some (.col _) | some (.diag _) => q.1 | _ => q.2.1
  let t := ((a.tags.head?).map (·.2)).getD t0
  let cellDiff := (a.puts.zip b.puts).filterMap (fun (x, y) =>
    if x.2.2 = y.2.2 then none else some (elemNo t (pos x) ((((subs t x.2.2.1).zip (subs t y.2.2.1)).findIdx? (fun p => p.1 != p.2)).getD 0)))
  let maskDiff := (a.masks.zip b.masks).flatMap (fun (x, y) => (List.range 256).filter (fun i => x.2.getLsbD i != y.2.getLsbD i))
  let vscDiff := (a.vsc.zip b.vsc).filterMap (fun (x, y) => if x = y then none else some (x.1 % 256))
  (cellDiff ++ maskDiff ++ vscDiff).min?

/-- Distinct queues among source views, in order (R255). -/
def queuesOf (vs : List View) : List Nat := (vs.filterMap (fun v => match v with | .q n => some n | _ => none)).eraseDups

/-- What a V slot of the hart in issue sees: its gang's grid, its length, and the heads of the queues among its sources. -/
def State.vIn (s : State) (h : Hart) (srcs : List View) : VCtx :=
  { s.vctx h h.octrl.vl with ents := (queuesOf srcs).map (fun q => (q, ((((s.queue s.issue.core q).heads s.cycle 1).getD []).headD {}))) }

/-- The core after a V slot is taken up: the engine held, the flight under way. -/
def Core.takeV (c : Core) (cycle hold : Nat) (f : Flight) : Core := { c with vUntil := cycle + hold, flight := c.flight ++ [f] }

/-- Dequeues one entry of each queue. -/
def State.popAll (s : State) (p : Nat) (qs : List Nat) : State := qs.foldl (fun s q => s.setQueue p q ((s.queue p q).pop s.cycle 1)) s

/-- The write-back of what a V slot computed: a fault found there takes none of it and is a post-effect trap (R284 to R286). -/
def vTake (sp : VSpec) (s : State) (x : VCtx) (t : Tag) (qs groups : List Nat) (dq : Option Nat) : State :=
  let p := s.issue.core
  let r0 : VOut := sp.body x t 0
  let r : VOut := if x.len = 0 then { masks := r0.masks } else r0
  let r1 : VOut := if x.mir = 0 ∨ x.len = 0 then r else sp.body x t x.mir
  let m : Option Nat := if x.mir = 0 ∨ x.len = 0 then none else mismatch (sp.elems t) sp.dst r r1
  let fl : Flight := { id := s.nextId, slot := s.issue.slot, due := s.cycle + sp.lat - 1, rows := sp.rowsAt x.len, groups := groups, eff := .v {} }
  let fly (s : State) (f : Flight) : State := { s.modCore p (·.takeV s.cycle sp.hold f) with nextId := s.nextId + 1 }
  match r.bad r1, m with
  | some (sub, e), _ => (fly s { fl with fault := true }).after { cause := 0x24, info := sub + e * 2 ^ 8 + 2 ^ 16, ret := 1, reissue := 4 }
  | none, some e => (fly s { fl with fault := true }).after { cause := 0x25, info := e + 2 ^ 16, ret := 1, reissue := 4 }
  | none, none =>
    let s1 := s.popAll p qs
    let s2 : State := match dq with
      | none => s1
      | some n =>
        let e : Entry := { id := s.nextId, st := .reserved, fmt := t.fmt, cnt := if t = .bx then x.len / 8 else x.len * t.n,
                           cells := tsetMany [] (r.puts.map (fun q => (q.2.1, q.2.2.1))),
                           pois := BitVec.ofNat 256 (maskOf 256 (fun j => r.puts.any (fun q => q.2.1 == j && q.2.2.2))) }
        s1.setQueue p (8 + n) ((s1.queue p (8 + n)).push s.cycle [e])
    let puts : List (Nat × Nat × Cell × Bool) :=
      if dq.isSome then [] else r.puts ++ (if x.mir = 0 then [] else r.puts.map (fun q => (q.1, q.2.1 + x.mir, q.2.2)))
    let keep := r.keep ++ (if x.mir = 0 then [] else r.keep.map (fun q => (q.1, q.2.1 + x.mir, q.2.2)))
    fly s2 { fl with
      deps := (r.masks.filter (fun q => q.1 != 0)).map (fun q => Dep.k q.1) ++ (if r.vsc.isEmpty then [] else [Dep.vsc]),
      eff := .v { gs := x.gs, puts := puts, keep := keep, tags := r.tags, masks := r.masks, vsc := r.vsc, dq := dq.map (fun n => (8 + n, s.nextId)) } }

/-- A V slot (R255): waits for its own earlier writes, the engine, its queue heads, busy rows and a drain entry; takes its faults in the order of R284; computes
from the cells as they stand, twice in protected mode (R223); and is in flight until its write cycle. -/
def vDrive (sp : VSpec) (s0 : State) (h : Hart) : State :=
  let p := s0.issue.core
  let x := s0.vIn h sp.srcs
  let groups := sp.groups x
  let qs := queuesOf sp.srcs
  let s := if s0.rowsLate p s0.issue.slot h Flight.writes (sp.reads x.len) groups then s0.late 2 else s0
  if s.cycle < x.c.vUntil ∨ qs.any (fun q => ((s.queue p q).heads s.cycle 1).isNone) then s.stall
  else if s.rowsBusy p s.issue.slot (sp.reads x.len ++ sp.rowsAt x.len) groups then s.stall
  else if sp.beyond x then s.operand 0x12
  else match x.probe (sp.srcs ++ sp.dst.toList) sp.blk with
  | some sub => s.operand sub
  | none =>
    match sp.check x with
    | .error sub => s.operand sub
    | .ok t =>
      let dq : Option Nat := match sp.dst with | some (.dq n) => if x.len = 0 then none else some n | _ => none
      if dq.any (fun n => decide (s.queueCells h (8 + n) < x.len)) then s.operand 0x36
      else if dq.any (fun n => (s.queue p (8 + n)).room s.cycle == 0) then s.stall
      else vTake sp s x t qs groups dq

/-! Tag rules (R257). -/
def tagA (t : Tag) : Bool := t == .f32 || t == .bf16x2 || t == .f16x2 || t == .i32 || t == .i8x4
def tagF (t : Tag) : Bool := t == .f32 || t == .bf16x2 || t == .f16x2
def tagI (t : Tag) : Bool := t == .i32 || t == .i8x4
def tagC (t : Tag) : Bool := t != .bx
def tagAny (_ : Tag) : Bool := true

/-- Sources of one tag in a class, and the destination view of the same tag: 0x16 before 0x10. A broadcast takes the tag of the others, then the
destination's, then the first of F32 and I32 that the class admits (R213). -/
def tagEq (acc : Tag → Bool) (srcs : List (Option (Option Tag))) (dst : Option Tag) : Except Nat Tag :=
  let ks := srcs.filterMap id
  let bad (o : Option Tag) : Bool := match o with | some t => !acc t | none => true
  let all := ks ++ (dst.toList.map some)
  if all.any bad then .error 0x16
  else match all with
  | [] => .ok (if acc .f32 then .f32 else .i32)
  | a :: r => if r.any (· != a) then .error 0x10 else .ok (a.getD .f32)

/-- Tag of a destination view, `none` for a drain queue or at length 0. -/
def VCtx.dstTag (x : VCtx) (v : View) (blk : Nat) : Option Tag := if x.len = 0 ∨ !vIsGrid v then none else (x.tags v blk).head?

/-- A row block must end within row 255 (R256). -/
def blkOk (blk : Nat) (vs : List View) : Bool := vs.all (fun v => match v with | .row i => decide (i + blk ≤ 256) | _ => true)

/-! Elementwise slots: arithmetic, moves and selection by cell. -/
/-- The inputs of one cell. -/
structure VIn where
  t : Tag
  a : Cell
  b : Cell
  d : Cell
  pa : Bool
  pb : Bool
  pd : Bool
  k : Bool
  pep : Nat → Nat

/-- Sub-element by sub-element, with the OR of the sources' poison (R227). -/
def lanes (useB useD : Bool) (g : Tag → Nat → Nat → Nat → Nat → Nat) (v : VIn) : Cell × Bool :=
  let l := (List.range v.t.n).map (fun i =>
    g v.t (v.pep i) ((subs v.t v.a).getD i 0) ((subs v.t v.b).getD i 0) ((subs v.t v.d).getD i 0))
  (join v.t l, v.pa || (useB && v.pb) || (useD && v.pd))

/-- The block of a row-block form (R256). -/
def blkOf' (f : VV) : Nat := f.imm.toNat % 64 + 1

/-- An elementwise slot over a class of tags; `all` writes inactive cells too, `useA` and `useB` name the sources (R255, R256). -/
def vElem (f : VV) (s : State) (acc : Tag → Bool) (useA useB useD all : Bool) (cell : VCtx → VIn → Cell × Bool) : Out :=
  onHart s (fun h =>
    let va := vw f.vs1
    let vb := vw f.vs2
    let vd := vw f.vd
    let blk := blkOf' f
    let srcs := (if useA then [va] else []) ++ (if useB then [vb] else [])
    vDrive {
      srcs := srcs, dst := some vd, blk := blk, lat := if blk = 1 then 4 else 5
      reads := fun l => srcs.flatMap (fun v => vRows v l blk) ++ (if useD then vRows vd l blk else [])
      writes := fun l => vRows vd l blk
      cols := fun l => (vd :: srcs).flatMap (fun v => vCols v l)
      check := fun x =>
        match tagEq acc (srcs.map (fun v => x.srcTag v blk)) (x.dstTag vd blk) with
        | .error e => .error e
        | .ok t => if blkOk blk (vd :: srcs) then .ok t else .error 0x19
      body := fun x t off => { puts :=
        (List.range blk).flatMap (fun b => (List.range x.len).filterMap (fun j =>
          let k := (x.h.ok f.k.toNat).getLsbD j
          if !k && !all then none
          else
            let (a, pa) := if useA then x.src va t b off j else (0, false)
            let (y, pb) := if useB then x.src vb t b off j else (0, false)
            let (d, pd) := if useD then x.src vd t b off j else (0, false)
            let (r, c) := vAt vd b j
            let o := cell x { t := t, a := a, b := y, d := d, pa := pa, pb := pb, pd := pd, k := k, pep := x.pep vd t b j }
            some (r, c, o.1, o.2))) } } s h)

def Rm (f : VV) : Rnd := (Rnd.ofCode f.rm.toNat).getD .rne
def Sat (f : VV) : Bool := f.sat == 1

/-- Reads a sub-element as a value, subnormals flushed under HSTAT.FTZ (R26). -/
def rd (x : VCtx) (t : Tag) (v : Nat) : Val := t.fmt.decode (ftzBits t.fmt x.h.octrl.ftz v)
/-- Rounds a value into a sub-element (R258). -/
def wr (x : VCtx) (f : VV) (t : Tag) (p : Nat) (v : Val) : Nat := ftzBits t.fmt x.h.octrl.ftz (convert v t.fmt (Rm f) (Sat f) p)
def si (t : Tag) (v : Nat) : Int := sintOf t.fmt.width v

/-- Arithmetic with a float and an integer meaning (R260). -/
def vArith (f : VV) (s : State) (useB useD : Bool) (gf : Val → Val → Val → Val) (gi : Int → Int → Int → Int) : Out :=
  vElem f s tagA true useB useD false (fun x => lanes useB useD (fun t p a b d =>
    if t.fmt.isInt then narrowInt t.fmt (Sat f) (gi (si t a) (si t b) (si t d))
    else wr x f t p (gf (rd x t a) (rd x t b) (rd x t d))))

def execVadd (f : VV) (s : State) : Out := vArith f s true false (fun a b _ => Val.sum [a, b]) (fun a b _ => a + b)
def execVsub (f : VV) (s : State) : Out := vArith f s true false (fun a b _ => Val.sum [a, b.neg]) (fun a b _ => a - b)
def execVmul (f : VV) (s : State) : Out := vArith f s true false (fun a b _ => a.mul b) (fun a b _ => a * b)
def execVfma (f : VV) (s : State) : Out := vArith f s true true (fun a b d => Val.sum [a.mul b, d]) (fun a b d => a * b + d)
def execVfms (f : VV) (s : State) : Out := vArith f s true true (fun a b d => Val.sum [a.mul b, d.neg]) (fun a b d => a * b - d)
def execVfnma (f : VV) (s : State) : Out := vArith f s true true (fun a b d => Val.sum [d, (a.mul b).neg]) (fun a b d => d - a * b)

/-- An exact operation on encodings: NaN is canonical, subnormals are flushed under HSTAT.FTZ. -/
def vExact (f : VV) (s : State) (useB : Bool) (gf : Fmt → Nat → Nat → Nat) (gi : Tag → Int → Int → Int) : Out :=
  vElem f s tagA true useB false false (fun x => lanes useB false (fun t _ a b _ =>
    if t.fmt.isInt then narrowInt t.fmt (Sat f) (gi t (si t a) (si t b))
    else gf t.fmt (ftzBits t.fmt x.h.octrl.ftz a) (ftzBits t.fmt x.h.octrl.ftz b)))

/-- The lesser or greater encoding, -0 below +0, equal values giving the first (R187, R260). -/
def minBits (m : Fmt) (a b : Nat) : Nat :=
  if (m.decode a).isNaN || (m.decode b).isNaN then m.canonNaN else if (m.decode b).ltSigned (m.decode a) then b else a
def maxBits (m : Fmt) (a b : Nat) : Nat :=
  if (m.decode a).isNaN || (m.decode b).isNaN then m.canonNaN else if (m.decode a).ltSigned (m.decode b) then b else a
def absBits (m : Fmt) (a : Nat) : Nat := if (m.decode a).isNaN then m.canonNaN else a % 2 ^ (m.width - 1)
def negBits (m : Fmt) (a : Nat) : Nat := if (m.decode a).isNaN then m.canonNaN else (a + 2 ^ (m.width - 1)) % 2 ^ m.width

def execVmin (f : VV) (s : State) : Out := vExact f s true minBits (fun _ a b => min a b)
def execVmax (f : VV) (s : State) : Out := vExact f s true maxBits (fun _ a b => max a b)
def execVabs (f : VV) (s : State) : Out := vExact f s false (fun m a _ => absBits m a) (fun _ a _ => a.natAbs)
def execVneg (f : VV) (s : State) : Out := vExact f s false (fun m a _ => negBits m a) (fun _ a _ => -a)

/-- Bitwise operations on whole cells (R261). -/
def vBits (f : VV) (s : State) (g : Cell → Cell → Cell) : Out :=
  vElem f s tagC true true false false (fun _ v => (g v.a v.b, v.pa || v.pb))
def execVand (f : VV) (s : State) : Out := vBits f s (· &&& ·)
def execVor (f : VV) (s : State) : Out := vBits f s (· ||| ·)
def execVxor (f : VV) (s : State) : Out := vBits f s (· ^^^ ·)

/-- Shifts of integer sub-elements by the low log2(w) bits of the second source (R261). -/
def vShift (f : VV) (s : State) (g : Nat → Nat → Nat → Int) : Out :=
  vElem f s tagI true true false false (fun _ => lanes true false (fun t _ a b _ =>
    (g t.fmt.width a (b % t.fmt.width) % (2 ^ t.fmt.width : Nat)).toNat))
def execVshl (f : VV) (s : State) : Out := vShift f s (fun _ a n => (a * 2 ^ n : Nat))
def execVshr (f : VV) (s : State) : Out := vShift f s (fun _ a n => (a / 2 ^ n : Nat))
def execVsra (f : VV) (s : State) : Out := vShift f s (fun w a n => (sintOf w a).fdiv (2 ^ n : Nat))

/-- Float-only slots of one or two sources (R262, R263). -/
def vFloat (f : VV) (s : State) (useB : Bool) (g : VCtx → Tag → Nat → Val → Val → Nat) : Out :=
  vElem f s tagF true useB false false (fun x => lanes useB false (fun t p a b _ => g x t p (rd x t a) (rd x t b)))
/-- Rounds a seed under RNE, non-saturating (R262). -/
def seedOut (x : VCtx) (t : Tag) (v : Val) : Nat := ftzBits t.fmt x.h.octrl.ftz (convert v t.fmt .rne false 0)
/-- The reciprocal of m * 2^e as a fraction. -/
def recipFrac (m : Nat) (e : Int) : Nat × Nat := if 0 ≤ e then (1, m * 2 ^ e.toNat) else (2 ^ (-e).toNat, m)
def withSign (n : Bool) : Val → Val
  | .fin _ m e => .fin n m e
  | v => v
def rcpSeed : Val → Val
  | .nan => .nan
  | .inf n => .fin n 0 0
  | .fin n m e => if m = 0 then .inf n else let (a, b) := recipFrac m e; withSign n (seed8 (.frac a b))
def rsqSeed : Val → Val
  | .nan => .nan
  | .inf n => if n then .nan else .fin false 0 0
  | .fin n m e => if m = 0 then .inf n else if n then .nan else let (a, b) := recipFrac m e; seed8 (.sqrt a b)
def execVrcpe (f : VV) (s : State) : Out := vFloat f s false (fun x t _ a _ => seedOut x t (rcpSeed a))
def execVrsqe (f : VV) (s : State) : Out := vFloat f s false (fun x t _ a _ => seedOut x t (rsqSeed a))

/-- floor(log2 |x|) as a value: -inf for a zero, +inf for an infinity (R263). -/
def getExp : Val → Val
  | .nan => .nan
  | .inf _ => .inf false
  | .fin n m e => if m = 0 then .inf true else Val.ofDy ⟨(Val.fin n m e).log2, 0⟩
def execVgetexp (f : VV) (s : State) : Out := vFloat f s false (fun _ t _ a _ => convert (getExp a) t.fmt .rne false 0)
/-- The scale exponent of VSCALEB: truncated and clamped to -1,024 to 1,024. -/
def scaleExp : Val → Int
  | .nan => 0
  | .inf n => if n then -1024 else 1024
  | v => max (-1024) (min 1024 (roundInt v .rtz 0))
def scaleB (a b : Val) : Val :=
  if b.isNaN then .nan
  else match a with
  | .fin n m e => .fin n m (e + scaleExp b)
  | v => v
/-- VSCALEB: an infinite first source passes through whatever SAT says (R263). -/
def execVscaleb (f : VV) (s : State) : Out :=
  vFloat f s true (fun x t p a b => match scaleB a b with | .inf n => t.fmt.encInf n false | v => wr x f t p v)
/-- Rounding to an integral value in the element's own format. -/
def rintVal (v : Val) (m : Rnd) (p : Nat) : Val :=
  match v with
  | .fin n _ _ => .fin n (roundInt v m p).natAbs 0
  | w => w
def execVrint (f : VV) (s : State) : Out :=
  vFloat f s false (fun x t p a _ => ftzBits t.fmt x.h.octrl.ftz (t.fmt.finish .rne false (rintVal a (Rm f) p)))

/-! Moves by cell (R266, R267). -/
def execVsel (f : VV) (s : State) : Out :=
  vElem f s tagAny true true false true (fun _ v => if v.k then (v.a, v.pa) else (v.b, v.pb))
def execVmov (f : VV) (s : State) : Out := vElem f s tagAny true false false false (fun _ v => (v.a, v.pa))
/-- VZERO leaves the tag (R266). -/
def execVzero (f : VV) (s : State) : Out := vElem f s tagAny false false false false (fun _ _ => (0, false))

/-- A slot that moves cells of one source about; `go` gives destination element, cell and poison (R267). -/
def vMove (f : VV) (s : State) (acc : Tag → Bool) (lat hold : Nat) (useB : Bool) (limit : Tag → Nat → Bool)
    (go : VCtx → Tag → (Nat → Cell × Bool) → (Nat → Cell × Bool) → List (Nat × Cell × Bool)) : Out :=
  onHart s (fun h =>
    let va := vw f.vs1
    let vb := vw f.vs2
    let vd := vw f.vd
    let srcs := va :: (if useB then [vb] else [])
    vDrive {
      srcs := srcs, dst := some vd, lat := lat, hold := hold
      reads := fun l => srcs.flatMap (fun v => vRows v l 1)
      writes := fun l => vRows vd l 1
      cols := fun l => (vd :: srcs).flatMap (fun v => vCols v l)
      check := fun x =>
        let idx := if useB then x.srcTag vb 1 else none
        if idx.any (· != some .i32) then .error 0x16
        else match tagEq acc [x.srcTag va 1] (x.dstTag vd 1) with
        | .error e => .error e
        | .ok t => if limit t x.len then .ok t else .error 0x19
      body := fun x t off => { puts :=
        (go x t (x.src va t 0 off) (if useB then x.src vb .i32 0 off else fun _ => (0, false))).map (fun (j, c, p) =>
          let (r, q) := vAt vd 0 j
          (r, q, c, p)) } } s h)

def active (x : VCtx) (k : BitVec 3) : List Nat := (List.range x.len).filter (fun j => (x.h.ok k.toNat).getLsbD j)

def execVbcast (f : VV) (s : State) : Out :=
  vMove f s tagC 4 1 false (fun t l => decide (f.imm.toNat < t.n * l)) (fun x t a _ =>
    let e := f.imm.toNat
    let (c, p) := a (e / t.n)
    let y := (subs t c).getD (e % t.n) 0
    (active x f.k).map (fun j => (j, join t (List.replicate t.n y), p)))
def execVperm (f : VV) (s : State) : Out :=
  vMove f s tagC 6 2 true (fun _ _ => true) (fun x _ a b =>
    (active x f.k).map (fun j =>
      let i := (b j).1.toInt
      if 0 ≤ i ∧ i < x.len then (j, a i.toNat) else (j, 0, false)))
def execVrot (f : VV) (s : State) : Out :=
  vMove f s tagC 4 1 false (fun _ _ => true) (fun x _ a _ => (active x f.k).map (fun j => (j, a ((j + f.imm.toNat) % x.len))))
def execVcompress (f : VV) (s : State) : Out :=
  vMove f s tagC 6 2 false (fun _ _ => true) (fun x _ a _ =>
    let l := active x f.k
    (List.range x.len).map (fun j => match l[j]? with | some i => (j, a i) | none => (j, 0, false)))
def execVexpand (f : VV) (s : State) : Out :=
  vMove f s tagC 6 2 false (fun _ _ => true) (fun x _ a _ => (active x f.k).zipIdx.map (fun (j, c) => (j, a c)))

/-- GXPOSE: a square block transposed in place (R268). -/
def execGxpose (f : VV) (s : State) : Out :=
  onHart s (fun h =>
    let i := match vw f.vd with | .row i => i | _ => 0
    let j := match vw f.vs1 with | .col j => j | _ => 0
    let rows (l : Nat) : List Nat := (List.range l).map (· + i)
    let l := h.octrl.vl
    vDrive {
      srcs := [], lat := l + 4, hold := max l 1
      reads := rows, writes := rows, cols := fun l => (List.range l).map (· + j)
      check := fun x =>
        if x.len = 0 then .ok .f32
        else if x.width < j + x.len then .error 0x12
        else if 256 < i + x.len then .error 0x19
        else match (((rows x.len).map (fun r => x.c.tag x.gs r)).eraseDups) with
        | [t] => if t = .f32 ∨ t = .i32 then .ok t else .error 0x16
        | _ => .error 0x11
      body := fun x _ off => { puts := (List.range x.len).flatMap (fun a => (List.range x.len).map (fun b =>
        (i + a, j + b, x.c.cell x.gs (i + b) (j + a + off), x.c.poison x.gs (i + b) (j + a + off)))) } } s h)

/-- Rows of a band. -/
def bandRows (row : Nat) : List Nat := (List.range 16).map (· + row / 16 * 16)

/-- VTAG sets the tag of a band (R269). -/
def execVtag (f : VV) (s : State) : Out :=
  onHart s (fun h =>
    let i := match vw f.vd with | .row i => i | _ => 0
    vDrive { srcs := [], band := true, reads := fun _ => [], writes := fun _ => bandRows i, cols := fun _ => [], check := fun _ => .ok .f32,
             body := fun _ _ _ => { tags := [(i, (Tag.ofCode (f.imm.toNat % 16)).getD .f32)] } } s h)

/-! Compares and masks (R264, R265). -/
/-- A compare: bit j holds when the condition holds for every sub-element of cell j. -/
def vCompare (f : VV) (s : State) (acc : Tag → Bool) (c : VCtx → Tag → Nat → Nat → Bool) : Out :=
  onHart s (fun h =>
    let va := vw f.vs1
    let vb := vw f.vs2
    vDrive {
      srcs := [va, vb], lat := 3
      reads := fun l => [va, vb].flatMap (fun v => vRows v l 1), writes := fun _ => []
      cols := fun l => [va, vb].flatMap (fun v => vCols v l)
      check := fun x => tagEq acc [x.srcTag va 1, x.srcTag vb 1] none
      body := fun x t off => { masks := [(f.imm.toNat % 8, BitVec.ofNat 256 (maskOf 256 (fun j =>
        decide (j < x.len) && (x.h.ok f.k.toNat).getLsbD j &&
          ((subs t (x.src va t 0 off j).1).zip (subs t (x.src vb t 0 off j).1)).all (fun q => c x t q.1 q.2))))] } } s h)

/-- A signed or floating condition. -/
def vCmp (f : VV) (s : State) (gf : Val → Val → Bool) (gi : Int → Int → Bool) : Out :=
  vCompare f s tagA (fun x t a b => if t.fmt.isInt then gi (si t a) (si t b) else gf (rd x t a) (rd x t b))
def execVcmpeq (f : VV) (s : State) : Out := vCmp f s (fun a b => !a.isNaN && !b.isNaN && a.eqv b) (· == ·)
def execVcmpne (f : VV) (s : State) : Out := vCmp f s (fun a b => !(!a.isNaN && !b.isNaN && a.eqv b)) (· != ·)
def execVcmplt (f : VV) (s : State) : Out := vCmp f s (fun a b => !a.isNaN && !b.isNaN && a.lt b) (fun a b => decide (a < b))
def execVcmple (f : VV) (s : State) : Out := vCmp f s (fun a b => !a.isNaN && !b.isNaN && !b.lt a) (fun a b => decide (a ≤ b))
def execVcmpltu (f : VV) (s : State) : Out := vCompare f s tagI (fun _ _ a b => decide (a < b))
def execVcmpleu (f : VV) (s : State) : Out := vCompare f s tagI (fun _ _ a b => decide (a ≤ b))

/-- A mask instruction on whole mask registers. -/
def kOp (f : VV) (s : State) (g : Mask → Mask → Mask) : Out :=
  onHart s (fun h =>
    vDrive { srcs := [], lat := 3, reads := fun _ => [], writes := fun _ => [], cols := fun _ => [], check := fun _ => .ok .f32,
             body := fun x _ _ => { masks := [(f.imm.toNat % 8, g (x.h.ok (f.imm.toNat / 8 % 8)) (x.h.ok (f.fx.toNat % 8)))] } } s h)
def execKand (f : VV) (s : State) : Out := kOp f s (· &&& ·)
def execKor (f : VV) (s : State) : Out := kOp f s (· ||| ·)
def execKxor (f : VV) (s : State) : Out := kOp f s (· ^^^ ·)
def execKnot (f : VV) (s : State) : Out := kOp f s (fun a _ => ~~~a)
def execKmov (f : VV) (s : State) : Out := kOp f s (fun a _ => a)

/-- KPOP and KFIRST write one number into element 0 of a view (R265), all of whose elements below L are checked (R213). -/
def kCount (f : VV) (s : State) (g : List Nat → Int) : Out :=
  onHart s (fun h =>
    let vd := vw f.vd
    vDrive {
      srcs := [], dst := some vd
      reads := fun _ => [], writes := fun _ => [(vAt vd 0 0).1], cols := fun _ => [(vAt vd 0 0).2]
      check := fun x =>
        match x.dstTag vd 1 with
        | some t => if t = .f32 ∨ t = .i32 then .ok t else .error 0x16
        | none => .ok .f32
      body := fun x t _ =>
        let n := g ((List.range x.len).filter (fun j => (x.h.ok (f.imm.toNat / 8 % 8)).getLsbD j))
        let (r, c) := vAt vd 0 0
        { puts := [(r, c, BitVec.ofNat 32 (if t = .i32 then narrowInt .i32 false n else rn32 (Val.ofDy ⟨n, 0⟩)), false)] } } s h)
def execKpop (f : VV) (s : State) : Out := kCount f s (fun l => l.length)
def execKfirst (f : VV) (s : State) : Out := kCount f s (fun l => match l with | [] => -1 | j :: _ => j)

/-- KPOIS moves poison bits into a mask (R265). -/
def execKpois (f : VV) (s : State) : Out :=
  onHart s (fun h =>
    let va := vw f.vs1
    vDrive {
      srcs := [va], lat := 3, reads := fun l => vRows va l 1, writes := fun _ => [], cols := fun l => vCols va l
      check := fun x => tagEq tagAny [x.srcTag va 1] none
      body := fun x t off => { masks := [(f.imm.toNat % 8, BitVec.ofNat 256 (maskOf 256 (fun j =>
        decide (j < x.len) && (x.h.ok f.k.toNat).getLsbD j && (x.src va t 0 off j).2)))] } } s h)

/-! Reductions (R270, R271). -/
/-- Bits of a cell outside sub-element i (R270). -/
def keepBits (t : Tag) (i : Nat) : Cell := ~~~(putSub t 0 i (2 ^ t.fmt.width - 1))

/-- A reduction of the sub-elements of the active source cells into one sub-element of the destination, whose other sub-elements stay as they are at the write. -/
def vReduce (f : VV) (s : State) (acc : Tag → Bool) (g : VCtx → Tag → Nat → List Nat → Nat) : Out :=
  onHart s (fun h =>
    let va := vw f.vs1
    let vd := vw f.vd
    let e := f.imm.toNat
    let n := (((s.vctx h h.octrl.vl).dstTag vd 1).getD .f32).n
    vDrive {
      srcs := [va], dst := some vd, lat := 8
      reads := fun l => vRows va l 1
      writes := fun _ => [(vAt vd 0 (e / n)).1]
      cols := fun l => vCols va l ++ vCols vd l
      check := fun x =>
        match tagEq acc [x.srcTag va 1] (x.dstTag vd 1) with
        | .error er => .error er
        | .ok t => if e < t.n * x.len then .ok t else .error 0x19
      body := fun x t off =>
        let js := active x f.k
        let src := js.map (fun j => x.src va t 0 off j)
        let j := e / t.n
        let y := g x t (x.pep vd t 0 j (e % t.n)) (src.flatMap (fun q => subs t q.1))
        let (r, c) := vAt vd 0 j
        { puts := [(r, c, putSub t 0 (e % t.n) y, src.any (·.2))], keep := if t.n ≤ 1 then [] else [(r, c, keepBits t (e % t.n))] } } s h)

def execVrsum (f : VV) (s : State) : Out :=
  vReduce f s tagA (fun x t p l =>
    if t.fmt.isInt then narrowInt t.fmt (Sat f) ((l.map (si t)).foldl (· + ·) 0)
    else wr x f t p (Val.sum (l.map (rd x t))))
/-- The greatest or least of a list under a strict order, from a start. -/
def pick {α : Type} (lt : α → α → Bool) (a : α) (l : List α) : α := l.foldl (fun m y => if lt m y then y else m) a

/-- Exact reductions: any NaN gives the canonical NaN; an empty list gives the start. -/
def redExact (x : VCtx) (t : Tag) (l : List Nat) (startF : Val) (gf : List Val → Val) (startI : Int) (gi : List Int → Int) : Nat :=
  if t.fmt.isInt then narrowInt t.fmt false (if l.isEmpty then startI else gi (l.map (si t)))
  else
    let vs := l.map (rd x t)
    t.fmt.finish .rne false (if vs.any Val.isNaN then .nan else if vs.isEmpty then startF else gf vs)
def execVrmax (f : VV) (s : State) : Out :=
  vReduce f s tagA (fun x t _ l => redExact x t l (.inf true) (fun v => pick Val.ltSigned (v.headD .nan) v) t.fmt.intMin
    (fun v => pick (fun a b => decide (a < b)) (v.headD 0) v))
def execVrmin (f : VV) (s : State) : Out :=
  vReduce f s tagA (fun x t _ l => redExact x t l (.inf false) (fun v => pick (fun a b => b.ltSigned a) (v.headD .nan) v) t.fmt.intMax
    (fun v => pick (fun a b => decide (b < a)) (v.headD 0) v))
def execVramax (f : VV) (s : State) : Out :=
  vReduce f s tagA (fun x t _ l => redExact x t l (.fin false 0 0) (fun v => pick Val.lt (.fin false 0 0) (v.map Val.abs)) 0
    (fun v => min t.fmt.intMax (pick (fun a b => decide (a < b)) 0 (v.map (fun i => (i.natAbs : Int))))))
/-- The greatest exponent (R271). -/
def maxExp (v : List Val) : Val :=
  if v.any Val.isInf then .inf false
  else pick Val.lt (.inf true) ((v.filter (fun y => !y.isZero)).map getExp)
def execVrexp (f : VV) (s : State) : Out := vReduce f s tagF (fun x t _ l => redExact x t l (.inf true) maxExp 0 (fun _ => 0))

end Sys2Proof.Machine
end

