-- ==== Sys2Proof/Machine/VConv.lean ====
section
/-! DEFINITION. V slots that set tags, scales or BX elements: conversions (R273 to R277), VQUANT and SETSC (R278, R279), and BX arithmetic
(R272, R280, R281). -/
namespace Sys2Proof.Machine
open Sys2Proof

/-- Row that a specifier names. -/
def rowOf (b : BitVec 12) : Nat := match vw b with | .row i => i | _ => 0
def fxOf (f : VV) : Fmt := (Fmt.ofCode f.fx.toNat).getD .fp32
/-- Tag of a conversion target. -/
def tagOfFmt (m : Fmt) : Tag := m.tag.getD .f32

/-- A conversion of rows: `srcs` the source views, `ok` the tag rule, `rows` the destination rows, and `cell` a destination cell of a row with
its poison bit, from the context, the source tag, the mirror distance, the row and the cell number. -/
def vConvert (s : State) (srcs : List View) (srcBlk : Nat) (rows : List Nat) (target : Tag) (lat hold : Nat) (ok : Tag → Bool)
    (cells : Nat → Nat) (cell : VCtx → Tag → Nat → Nat → Nat → Cell × Bool) : Out :=
  onHart s (fun h =>
    vDrive {
      srcs := srcs ++ rows.map View.row, lat := lat, hold := hold, band := true
      reads := fun l => srcs.flatMap (fun v => vRows v l srcBlk)
      writes := fun _ => (rows.flatMap bandRows).eraseDups
      cols := fun l => srcs.flatMap (fun v => vCols v l) ++ List.range l
      check := fun x => tagEq ok (srcs.map (fun v => x.srcTag v srcBlk)) none
      body := fun x t off => {
        puts := rows.flatMap (fun r => (List.range (cells x.len)).map (fun c => let o := cell x t off r c; (r, c, o.1, o.2)))
        tags := rows.map (fun r => (r, target)) } } s h)

/-- Sub-element e of a source row, numbered across its cells, with the poison of its cell. -/
def VCtx.elem (x : VCtx) (v : View) (t : Tag) (off e : Nat) : Nat × Bool :=
  let (c, p) := x.src v t 0 off (e / t.n)
  ((subs t c).getD (e % t.n) 0, p)

/-- A destination cell of the target tag from the elements that feed it: `pick i` gives the source bits and poison of sub-element i. -/
def convCell (x : VCtx) (f : VV) (t target : Tag) (row c : Nat) (pick : Nat → Nat × Bool) : Cell × Bool :=
  let l := (List.range target.n).map (fun i => (i, pick i))
  (join target (l.map (fun (i, y) => convert (t.fmt.decode y.1) target.fmt (Rm f) (Sat f) (x.pep (.row row) target 0 c i))), l.any (fun q => q.2.2))

/-- Source tags that pair with a narrowing target (R273). -/
def narrowPair (m : Fmt) (t : Tag) : Bool :=
  match m with
  | .bf16 | .fp16 => t == .f32
  | .e4m3 | .e5m2 => t == .bf16x2 || t == .f16x2
  | _ => t == .e4x4 || t == .e5x4
/-- Source tags that pair with a widening target (R274). -/
def widenPair (m : Fmt) (t : Tag) : Bool :=
  match m with
  | .fp32 => t == .bf16x2 || t == .f16x2
  | .bf16 | .fp16 => t == .e4x4 || t == .e5x4
  | _ => t == .f4x8

/-- CVT.N (R273). -/
def execCvtN (f : VV) (s : State) : Out :=
  let va := vw f.vs1
  let vb := vw f.vs2
  let target := tagOfFmt (fxOf f)
  vConvert s [va, vb] 1 [rowOf f.vd] target 4 1 (narrowPair (fxOf f)) id (fun x t off r c =>
    convCell x f t target r c (fun i =>
      let e := c * target.n + i
      if e < x.len * t.n then x.elem va t off e else x.elem vb t off (e - x.len * t.n)))

/-- CVT.W (R274). -/
def execCvtW (f : VV) (s : State) : Out :=
  let va := vw f.vs1
  let target := tagOfFmt (fxOf f)
  let d := rowOf f.vd
  vConvert s [va] 1 [d, d + 1] target 5 2 (widenPair (fxOf f)) id (fun x t off r c =>
    convCell x f t target r c (fun i => x.elem va t off ((if r = d then 0 else x.len * target.n) + c * target.n + i)))

/-- CVT.F4 (R275): eight F32 rows into one row of E2M1. -/
def execCvtF4 (f : VV) (s : State) : Out :=
  let va := vw f.vs1
  vConvert s [va] 8 [rowOf f.vd] .f4x8 6 2 (· == .f32) id (fun x t off r c =>
    convCell x f t .f4x8 r c (fun i =>
      let e := c * 8 + i
      let (y, p) := x.src va t (e / x.len) off (e % x.len)
      (y.toNat, p)))

/-- CVT.I and CVT.F (R276). -/
def execCvtI (f : VV) (s : State) : Out :=
  vConvert s [vw f.vs1] 1 [rowOf f.vd] .i32 4 1 (· == .f32) id (fun x t off r c => convCell x f t .i32 r c (fun _ => x.elem (vw f.vs1) t off c))
def execCvtF (f : VV) (s : State) : Out :=
  vConvert s [vw f.vs1] 1 [rowOf f.vd] .f32 4 1 (· == .i32) id (fun x t off r c => convCell x f t .f32 r c (fun _ => x.elem (vw f.vs1) t off c))

/-- Element number at which a half of vsc starts. -/
def vscBase (b : BitVec 12) : Nat := match vw b with | .vscHi => 256 | _ => 0

/-- VQUANT (R278): MX blocks of 32 elements, the scales into vsc. -/
def execVquant (f : VV) (s : State) : Out :=
  onHart s (fun h =>
    let va := vw f.vs1
    let r := rowOf f.vd
    let target := tagOfFmt (fxOf f)
    let n := target.n
    let st := f.imm.toNat
    vDrive {
      srcs := [va], dst := some (.row r), lat := 8, hold := 2, band := true
      reads := fun l => vRows va l 1, writes := fun _ => bandRows r, cols := fun l => vCols va l ++ List.range l
      check := fun x =>
        match tagEq (· == .f32) [x.srcTag va 1] none with
        | .error e => .error e
        | .ok _ => if 256 < st + (x.len + 31) / 32 then .error 0x19 else .ok .f32
      body := fun x _ off =>
        let src := (List.range x.len).map (fun j => x.src va .f32 0 off j)
        let blocks := (List.range ((x.len + 31) / 32)).map (fun b =>
          let l := (src.drop (32 * b)).take 32
          let q := mxQuant (l.map (fun y => if y.2 then Fmt.fp32.canonNaN else y.1.toNat) ++ List.replicate (32 - l.length) 0) (fxOf f) (Rm f)
            (fun i => x.pep (.row r) target 0 ((32 * b + i) / n) ((32 * b + i) % n))
          (q.1, q.2.take l.length, l.any (·.2)))
        let out := blocks.flatMap (fun q => q.2.1)
        { puts := (List.range ((x.len + n - 1) / n)).map (fun c =>
            (r, c, join target ((List.range n).map (fun i => out.getD (c * n + i) 0)), (blocks.getD (c * n / 32) (0, [], false)).2.2))
          tags := [(r, target)]
          vsc := blocks.zipIdx.map (fun (q, b) => (vscBase f.vs2 + st + b, BitVec.ofNat 8 q.1)) } } s h)

/-- SETSC (R279). -/
def execSetsc (f : VV) (s : State) : Out :=
  onHart s (fun h =>
    let va := vw f.vs1
    let st := f.imm.toNat
    vDrive {
      srcs := [va], lat := 2, reads := fun l => vRows va l 1, writes := fun _ => [], cols := fun l => vCols va l
      check := fun x =>
        match tagEq tagI [x.srcTag va 1] none with
        | .error e => .error e
        | .ok t => if 256 < st + t.n * x.len then .error 0x19 else .ok t
      body := fun x t off => {
        vsc := (active x f.k).flatMap (fun j => (subs t (x.src va t 0 off j).1).zipIdx.map (fun (y, i) =>
          (vscBase f.vd + st + j * t.n + i, BitVec.ofNat 8 y))) } } s h)

/-! BX elements: eight cells of a row, little-endian (R41). -/
/-- The 256 bits of a BX element of a row, with the OR of its cells' poison. -/
def VCtx.bx (x : VCtx) (row off m : Nat) : BitVec 256 × Bool :=
  let l := (List.range 8).map (fun i => x.src (.row row) .bx 0 off (8 * m + i))
  (BitVec.ofNat 256 (joinOf 32 (l.map (fun y => y.1.toNat))), l.any (·.2))
/-- The cells that a BX element writes. -/
def bxPuts (row m : Nat) (b : BitVec 256) (p : Bool) : List (Nat × Nat × Cell × Bool) :=
  (subsOf 8 32 b.toNat).zipIdx.map (fun (y, i) => (row, 8 * m + i, BitVec.ofNat 32 y, p))

/-- A slot on the BX elements below L / 8 of row views; `go` answers the new element or the write-back fault, or nothing where the slot leaves
the element to `other`. -/
def bxSlot (s : State) (srcs : List View) (row : Nat) (dstBx : Bool) (lat : Nat) (band : Bool) (writes : List Nat)
    (body : VCtx → Nat → VOut) : Out :=
  onHart s (fun h =>
    vDrive {
      srcs := srcs ++ [.row row], lat := lat, band := band
      reads := fun l => srcs.flatMap (fun v => vRows v l 1), writes := fun _ => writes
      cols := fun l => srcs.flatMap (fun v => vCols v l) ++ List.range l
      check := fun x =>
        match tagEq (· == .bx) (srcs.map (fun v => x.srcTag v 1)) (if dstBx then x.dstTag (.row row) 1 else none) with
        | .error e => .error e
        | .ok t => if x.len % 8 = 0 then .ok t else .error 0x19
      body := fun x _ off => body x off } s h)

/-- BX elements computed one by one, with the lowest that fails. -/
def bxEach (x : VCtx) (row : Nat) (tags : List (Nat × Tag)) (sub : Nat) (go : Nat → Option (BitVec 256 × Bool)) : VOut :=
  let ms := List.range (x.len / 8)
  { puts := ms.flatMap (fun m => match go m with | some (b, p) => bxPuts row m b p | none => [])
    tags := tags, err := (ms.find? (fun m => (go m).isNone)).map (fun m => (sub, m)) }

/-- BXADD (R280, R44). -/
def execBxadd (f : VV) (s : State) : Out :=
  let r := rowOf f.vd
  bxSlot s [vw f.vs1, vw f.vs2] r true 6 false [r] (fun x off => bxEach x r [] 0x17 (fun m =>
    let (a, pa) := x.bx (rowOf f.vs1) off m
    let (b, pb) := x.bx (rowOf f.vs2) off m
    if (Bx.ofBits a).a = (Bx.ofBits b).a then some (((Bx.ofBits a).add (Bx.ofBits b)).toBits, pa || pb) else none))

/-- Anchor that BXANCH takes from a g register. -/
def anchorOf (x : VCtx) (f : VV) : Int := match vw f.vs2 with | .g n => sintOf 16 (x.h.og n).toNat | _ => 0

/-- BXANCH (R280, R45). -/
def execBxanch (f : VV) (s : State) : Out :=
  let r := rowOf f.vd
  bxSlot s [vw f.vs1] r true 6 false [r] (fun x off => bxEach x r [] 0x18 (fun m =>
    let (a, p) := x.bx (rowOf f.vs1) off m
    if anchorOf x f < (Bx.ofBits a).a then none else some (((Bx.ofBits a).reanchor (anchorOf x f)).toBits, p)))

/-- BXANCH.i (R280): elements of an anchor with zero bins, and the band tagged BX. -/
def execBxanchI (f : VV) (s : State) : Out :=
  let r := rowOf f.vd
  bxSlot s [] r false 6 true (bandRows r) (fun x _ => bxEach x r [(r, .bx)] 0x18 (fun _ => some ((Bx.empty (anchorOf x f)).toBits, false)))

/-- BXCVT (R280, R46): element m into element m of a row of the target's tag; the element that an odd count leaves beside the last stays as it is at the write. -/
def execBxcvt (f : VV) (s : State) : Out :=
  let r := rowOf f.vd
  let target := tagOfFmt (fxOf f)
  let n := target.n
  bxSlot s [vw f.vs1] r false 6 true (bandRows r) (fun x off =>
    let cnt := x.len / 8
    { puts := (List.range ((cnt + n - 1) / n)).map (fun c =>
        let l := (List.range n).map (fun i =>
          let m := c * n + i
          if m < cnt then
            let (b, p) := x.bx (rowOf f.vs1) off m
            ((Bx.ofBits b).toFmt target.fmt (Rm f) (Sat f) (x.pep (.row r) target 0 c i), p)
          else (0, false))
        (r, c, join target (l.map (·.1)), l.any (·.2)))
      keep := if cnt % n = 0 then [] else [(r, cnt / n, keepBits target 0)]
      tags := [(r, target)] })

/-- The values that a source cell adds into BX elements (R43). -/
def addends (t : Tag) (c : Cell) : List Val := (subs t c).map t.fmt.decode

/-- Sources of VRBX and BXACC, whose destination rows must be BX. -/
def bxSink (ok : Tag → Bool) (x : VCtx) (src dst : View) : Except Nat Tag :=
  match tagEq ok [x.srcTag src 1] none with
  | .error e => .error e
  | .ok t => if (x.dstTag dst 1).any (· != .bx) then .error 0x16 else .ok t

/-- VRBX (R272). With no active element nothing is added, and the element is written back as it was read with its reserved bits zero, its bins not normalised: R42 does not say
whether that computes a BX result (DESIGN CHOICE, log 69). -/
def execVrbx (f : VV) (s : State) : Out :=
  onHart s (fun h =>
    let va := vw f.vs1
    let r := rowOf f.vd
    let m := f.imm.toNat
    vDrive {
      srcs := [va], lat := 10, hold := 2, elems := fun _ => .bx
      beyond := fun x => decide (0 < x.len) && decide (x.width ≤ 8 * m + 7)
      reads := fun l => vRows va l 1 ++ [r], writes := fun _ => [r], cols := fun l => vCols va l ++ [8 * m]
      check := fun x => bxSink (fun t => tagF t || t == .i32) x va (.row r)
      body := fun x t off =>
        let src := (active x f.k).map (fun j => x.src va t 0 off j)
        let (b, p) := x.bx r off m
        { puts := bxPuts r m ((src.flatMap (fun y => addends t y.1)).foldl Bx.addReal (Bx.ofBits b)).toBits (p || src.any (·.2)) } } s h)

/-- BXACC (R281): element j goes into BX element j / 8 of row vD + j mod 8. -/
def execBxacc (f : VV) (s : State) : Out :=
  onHart s (fun h =>
    let va := vw f.vs1
    let r := rowOf f.vd
    let rows := (List.range 8).map (· + r)
    vDrive {
      srcs := [va], lat := 10, hold := 2, elems := fun _ => .bx
      reads := fun l => vRows va l 1 ++ rows, writes := fun _ => rows, cols := fun l => vCols va l ++ List.range l
      check := fun x => bxSink (fun t => t == .f32 || t == .i32) x va (.row r)
      body := fun x t off => { puts := (active x f.k).flatMap (fun j =>
        let (y, p) := x.src va t 0 off j
        let (b, q) := x.bx (r + j % 8) off (j / 8)
        bxPuts (r + j % 8) (j / 8) ((addends t y).foldl Bx.addReal (Bx.ofBits b)).toBits (p || q)) } } s h)

end Sys2Proof.Machine
end

