-- ==== Sys2Proof/Machine/Matrix.lean ====
section
/-! DEFINITION. M slots (10_matrix_instructions.md): rank-k updates, the Colophon and the Carrel. -/
namespace Sys2Proof.Machine
open Sys2Proof

/-! Engine and length. -/
/-- Length of an M slot (R210, R231). -/
def Hart.mLen (h : Hart) : Nat := if h.octrl.mm then h.octrl.mvl else h.octrl.vl

/-- Rows of an update with the column-vector cell of each (R231). -/
def mRows (hs len : Nat) : List (Nat × Nat) :=
  match hs with
  | 0 => (List.range (min len 128)).map (fun i => (i, i))
  | 1 => (List.range (min len 128)).map (fun i => (i + 128, i))
  | _ => (List.range len).map (fun i => (i, i))

/-- Every row of the half or halves of an update (R221). -/
def halfRows (hs : Nat) : List Nat :=
  match hs with
  | 0 => List.range 128
  | 1 => (List.range 128).map (· + 128)
  | _ => List.range 256

/-- The core after an M slot is taken up: the engine held for `hold` cycles and the settings standing until cycle `due`. -/
def Core.takeM (c : Core) (cycle hold : Nat) (fl : List Flight) : Core := { c with mUntil := cycle + hold, flight := c.flight ++ fl }

/-! Rank-k updates (R229 to R232). -/
/-- Tag that an update requires of its rows (R230). -/
def mTag (f : MU) : Tag := if f.isIntPair then .i32 else .f32
def mFmtA (f : MU) : Fmt := (Fmt.ofCode f.fa.toNat).getD .fp32
def mFmtB (f : MU) : Fmt := (Fmt.ofCode f.fb.toNat).getD .fp32

/-- An update at issue (R232): it waits for its engine, its heads and other harts' settings; takes its operand faults; dequeues; and is in
flight until its write cycle. -/
def mUpdate (f : MU) (zero scaled : Bool) (s0 : State) : Out :=
  onHart s0 (fun h =>
    let p := s0.issue.core
    let x := s0.vctx h h.mLen
    let s := if s0.rowsLate p s0.issue.slot h (fun g => g.writes && !g.isUpdate) ((mRows f.hs.toNat x.len).map (·.1)) (x.groupsAt (List.range x.len))
      then s0.late 3 else s0
    let qa := f.qa.toNat
    let qb := f.qb.toNat
    match (s.queue p qa).heads s.cycle 1, (s.queue p qb).heads s.cycle 1 with
    | some [ea], some [eb] =>
      let rows := (mRows f.hs.toNat x.len).map (·.1)
      let groups := x.groupsAt (List.range x.len)
      if s.cycle < x.c.mUntil ∨ s.rowsBusy p s.issue.slot rows groups then s.stall
      else if x.width < x.len then s.operand 0x12
      else if rows.any (fun r => x.c.tag x.gs r != mTag f) then s.operand 0x14
      else if ea.fmt ≠ mFmtA f ∨ eb.fmt ≠ mFmtB f then s.operand 0x15
      else
        let s1 := s.popAll p [qa, qb]
        let hold := if f.fa = 0 then 4 else 1
        if x.len = 0 then s1.modCore p (·.takeM s.cycle hold [])
        else
          let e : MEff := { f := f, zero := zero, scaled := scaled, len := x.len, ea := ea, eb := eb, vsc := h.vsc, gs := x.gs, mir := x.mir }
          { s1.modCore p (·.takeM s.cycle hold
              [{ id := s.nextId, slot := s.issue.slot, due := s.cycle + 4, rows := halfRows f.hs.toNat, foot := rows, groups := groups, eff := .m e }]) with
            nextId := s.nextId + 1 }
    | _, _ => s.stall)

def execMop (f : MU) (s : State) : Out := mUpdate f false false s
def execMopS (f : MU) (s : State) : Out := mUpdate f false true s
def execMopZ (f : MU) (s : State) : Out := mUpdate f true false s
def execMopZs (f : MU) (s : State) : Out := mUpdate f true true s

/-- Exact number of a cell under a tag; none for a NaN or an infinity (R233). -/
def cellVal (t : Tag) (c : Cell) : Option Dy :=
  if t = .i32 then some ⟨c.toInt, 0⟩
  else match f32 c.toNat with
    | .fin n m e => some (Val.fin n m e).dy
    | _ => none

/-- Adds a term to the chkcol partial of a row and to the chkrow cell of a physical column (R234). -/
def Core.addChk (c : Core) (row col : Nat) (d : Dy) : Core :=
  let a := tget (0, 0) c.chkcol (row * 17 + col / 16)
  let b := tget (0, 0) c.chkrow col
  let u := Dy.add ⟨a.1, a.2⟩ d
  let v := Dy.add ⟨b.1, b.2⟩ d
  { c with chkcol := tset c.chkcol (row * 17 + col / 16) (u.m, u.e), chkrow := tset c.chkrow col (v.m, v.e) }

/-- Product of two finite operands with their scales; none where R234 does not account it. -/
def chkTerm (sa sb : Nat) (a b : Val) : Option Dy :=
  if a.isFin && b.isFin && sa != 255 && sb != 255 then
    let d := a.dy.mul b.dy
    some ⟨d.m, d.e + (sa : Int) + sb - 254⟩
  else none

/-- One cell of an update (R232, R234): the new cell in its column and its mirror, and the Colophon's terms. -/
def MEff.cell (e : MEff) (i ca j : Nat) (c : Core) (k : Colo) : Core × Colo :=
  let t := mTag e.f
  let a := (subsOf (mFmtA e.f).perCell (mFmtA e.f).width (e.ea.cell ca).toNat).map (mFmtA e.f).decode
  let b := (subsOf (mFmtB e.f).perCell (mFmtB e.f).width (e.eb.cell j).toNat).map (mFmtB e.f).decode
  let sa := if e.scaled then (tget 0x7F e.vsc i).toNat else 127
  let sb := if e.scaled then (tget 0x7F e.vsc (256 + j)).toNat else 127
  let old := c.cell e.gs i j
  let start : Cell := if e.zero then 0 else old
  let new : Cell := if t = .f32 then BitVec.ofNat 32 (updateF32 start.toNat a b sa sb)
    else BitVec.ofInt 32 (start.toInt + (((a.zip b).map (fun q => (q.1.dy.mul q.2.dy))).foldl Dy.add Dy.zero |> fun d => shl d.m d.e))
  let pois := c.poison e.gs i j || e.ea.poison ca || e.eb.poison j
  let col := c.col e.gs j
  let c1 := match (if e.zero then cellVal t old else none) with
    | some d => c.addChk i col d.neg
    | none => c
  let c2 := ((a.zip b).filterMap (fun q => chkTerm sa sb q.1 q.2)).foldl (fun c d => c.addChk i col d) c1
  let c3 := c2.putCell e.gs i j new pois
  let c4 := if e.mir = 0 then c3 else c3.putCell e.gs i (j + e.mir) new pois
  let bad := (cellVal t new).isNone
  (c4, { k with nfRow := if bad then k.nfRow ||| BitVec.ofNat 256 (2 ^ i) else k.nfRow
                nfCol := if bad then k.nfCol ||| BitVec.ofNat 256 (2 ^ j) else k.nfCol })

/-- An update's write cycle: every cell of the footprint, then U and FMTSEEN. -/
def MEff.apply (e : MEff) (c : Core) (k : Colo) : Core × Colo :=
  let r := (mRows e.f.hs.toNat e.len).foldl (fun ck i => (List.range e.len).foldl (fun ck j => e.cell i.1 i.2 j ck.1 ck.2) ck) (c, k)
  (r.1, { r.2 with u := min (r.2.u + 1) (2 ^ 32 - 1), fmts := r.2.fmts ||| 2 ^ e.f.fa.toNat ||| 2 ^ e.f.fb.toNat })

/-! The Colophon (R233 to R244). -/
def State.colo (s : State) (p : Nat) (h : Hart) : Colo := tget {} (s.gang h.die h.idx).colo p
def State.setColo (s : State) (p : Nat) (h : Hart) (k : Colo) : State := s.modGang h.die h.idx (fun r => { r with colo := tset r.colo p k })

/-- The core and the Colophon state as the updates that have issued leave them, from any hart of the gang, written or not (R237). -/
def State.coloAhead (s : State) (p : Nat) (h : Hart) : Core × Colo :=
  (s.core p).flight.foldl (fun ck f => match f.eff with
    | .m e => if (s.hart? p f.slot).any (fun o => o.die == h.die && o.idx == h.idx) then e.apply ck.1 ck.2 else ck
    | .v _ => ck) (s.core p, s.colo p h)

/-- Counted columns (R233). -/
def VCtx.counted (x : VCtx) : List Nat := List.range x.width
/-- Tag of a row where its cells count. -/
def VCtx.countedTag (x : VCtx) (i : Nat) : Option Tag :=
  let t := x.c.tag x.gs i
  if t = .f32 ∨ t = .i32 then some t else none
def VCtx.val (x : VCtx) (t : Tag) (i j : Nat) : Option Dy := cellVal t (x.c.cell x.gs i j)
/-- A counted cell that is poisoned or not finite. -/
def VCtx.badCell (x : VCtx) (t : Tag) (i j : Nat) : Bool := x.c.poison x.gs i j || (x.val t i j).isNone
/-- Rows whose band counts, with their tags. -/
def VCtx.countedRows (x : VCtx) : List (Nat × Tag) := (List.range 256).filterMap (fun i => (x.countedTag i).map (fun t => (i, t)))

/-- T of R235: the largest tolerance over the formats seen. -/
def tolOf (h : Hart) (fmts : Nat) : Nat := ((bitsOf 16 fmts).map (fun f => (tget 0 h.octrl.tol f).toNat)).foldl max 0

/-- |d| exceeds T * U * 2^(floor(log2 m) - 24), with m = 0 asking for d = 0 (R239, R242). -/
def beyond (tu : Nat) (d m : Dy) : Bool :=
  if m.m = 0 then d.m != 0 else Dy.lt ⟨tu, m.log2 - 24⟩ d.abs

/-- `fails` of R239 for a line of counted cells. -/
def lineFails (int : Bool) (tu : Nat) (sum : Dy) (vals : List Dy) : Bool :=
  let d := sum.sub (Dy.sum vals)
  if int then d.mod32 != 0 else beyond tu d ((vals.map Dy.abs).foldl Dy.max Dy.zero)

/-- An M slot on the whole grid: it waits for the engine and for other harts' settings on every row, then holds both (R237). -/
def mWhole (s : State) (hold : Nat) (go : Hart → VCtx → State → State) : Out :=
  onHart s (fun h =>
    let p := s.issue.core
    let x := s.vctx h h.mLen
    let rows := List.range 256
    if s.cycle < x.c.mUntil ∨ s.rowsBusy p s.issue.slot rows x.gs then s.stall
    else go h x { s.modCore p (·.takeM s.cycle hold
      [{ id := s.nextId, slot := s.issue.slot, due := s.cycle + hold - 1, rows := rows, groups := x.gs, eff := .v { gs := x.gs } }]) with nextId := s.nextId + 1 })

def dyPair (d : Dy) : Int × Int := (d.m, d.e)

/-- CKCLR (R238). -/
def execCkclr (_ : MC) (s : State) : Out :=
  mWhole s 16 (fun h x s =>
    let rows := x.countedRows
    let sumOf (l : List (Tag × Nat × Nat)) : Dy := Dy.sum (l.filterMap (fun q => x.val q.1 q.2.1 q.2.2))
    let parts := (List.range 256).flatMap (fun i => x.gs.zipIdx.map (fun (g, m) =>
      (i * 17 + x.c.phys g, dyPair (match x.countedTag i with
        | some t => sumOf (((List.range 16).map (fun q => 16 * m + q)).filterMap (fun j => if j < x.width then some (t, i, j) else none))
        | none => Dy.zero))))
    let cols := x.counted.map (fun j => (x.c.col x.gs j, dyPair (sumOf (rows.map (fun r => (r.2, r.1, j))))))
    let bad (i j : Nat) (t : Tag) : Bool := (x.val t i j).isNone
    let k : Colo := {
      nfRow := BitVec.ofNat 256 (maskOf 256 (fun i => match x.countedTag i with | some t => x.counted.any (fun j => bad i j t) | none => false))
      nfCol := BitVec.ofNat 256 (maskOf 256 (fun j => decide (j < x.width) && rows.any (fun r => bad r.1 j r.2))) }
    let s1 := s.modCore x.p (fun c => { c with chkcol := tsetMany c.chkcol parts, chkrow := tsetMany c.chkrow cols })
    (s1.setColo x.p h k).modCur (fun h =>
      if h.carrel.st = .recording ∨ h.carrel.st = .replaying then { h with carrel := { h.carrel with first := h.carrel.trip } } else h))

/-- Lowest set bit, 0 where none is. -/
def lowest (m : Mask) : Nat := ((List.range 256).find? (fun i => m.getLsbD i)).getD 0
def countBits (m : Mask) : Nat := ((List.range 256).filter (fun i => m.getLsbD i)).length
/-- Summary of R240. -/
def ckSummary (hb : Bool) (k : Colo) : Word :=
  let r := countBits k.locR
  let c := countBits k.locC
  BitVec.ofNat 64 (r + c * 2 ^ 9 + countBits k.locUR * 2 ^ 18 + countBits k.locUC * 2 ^ 27 + lowest k.locR * 2 ^ 36 + lowest k.locC * 2 ^ 44
    + (if hb ∧ r = 1 ∧ c = 1 then 2 ^ 52 else 0) + (if hb then 0 else 2 ^ 53))

/-- The locator that CKCHK finds (R239). -/
def ckLocate (h : Hart) (x : VCtx) (k : Colo) (hs : Nat) : Colo :=
  let tu := tolOf h k.fmts * k.u
  let inH (i : Nat) : Bool := match hs with | 0 => decide (i < 128) | 1 => decide (128 ≤ i) | _ => true
  let rowBad (i : Nat) : Bool := match x.countedTag i with
    | none => true
    | some t => k.nfRow.getLsbD i || x.counted.any (x.badCell t i)
  let rowFails (i : Nat) : Bool := match x.countedTag i with
    | none => false
    | some t => lineFails (t == .i32) tu (x.c.chkColAt x.gs i) (x.counted.filterMap (x.val t i))
  let rows := x.countedRows
  let colBad (j : Nat) : Bool := k.nfCol.getLsbD j || rows.any (fun r => x.badCell r.2 r.1 j) || (rows.any (·.2 == .f32) && rows.any (·.2 == .i32))
  let colFails (j : Nat) : Bool :=
    lineFails (rows.any (·.2 == .i32)) tu (let y := x.c.chkRowAt x.gs j; ⟨y.1, y.2⟩) (rows.filterMap (fun r => x.val r.2 r.1 j))
  let m (n : Nat) (q : Nat → Bool) : Mask := BitVec.ofNat 256 (maskOf n q)
  { k with
    locUR := m 256 (fun i => inH i && rowBad i), locR := m 256 (fun i => inH i && !rowBad i && rowFails i)
    locUC := if hs = 2 then m x.width colBad else 0, locC := if hs = 2 then m x.width (fun j => !colBad j && colFails j) else 0 }

/-- CKCHK (R239, R240). -/
def execCkchk (f : MC) (s : State) : Out :=
  mWhole s 16 (fun h x s =>
    let k := ckLocate h x (s.colo x.p h) f.hs.toNat
    let w := ckSummary (f.hs == 2) k
    let s1 := (s.setColo x.p h k).wrG f.d.toNat w
    if fldN w 17 0 ≠ 0 ∧ w.getLsbD 52 = false then s1.after { cause := 0x26, info := 2 ^ 16, ret := 2 } else s1)

/-- An M slot that holds the engine for one cycle. -/
def mOne (s : State) (go : Hart → State → State) : Out :=
  onHart s (fun h =>
    if s.cycle < (s.core s.issue.core).mUntil then s.stall
    else go h (s.modCore s.issue.core (fun c => { c with mUntil := s.cycle + 1 })))

/-- CKLOC (R241). -/
def execCkloc (f : MC) (s : State) : Out :=
  mOne s (fun h s =>
    let k := s.colo s.issue.core h
    s.wrK (f.d.toNat % 8) (match f.imm.toNat % 4 with | 0 => k.locR | 1 => k.locC | 2 => k.locUR | _ => k.locUC))

def clearBit (m : Mask) (i : Nat) : Mask := m &&& ~~~(BitVec.ofNat 256 (2 ^ i))

/-- What CKFIX finds (R242): a status other than 0, or the new cell. -/
def ckFix (h : Hart) (x : VCtx) (k : Colo) (w : Word) : Except Nat Cell :=
  let i := fldN w 7 0
  let j := fldN w 15 8
  if fldN w 63 16 ≠ 0 ∨ x.width ≤ j then .error 1
  else match x.countedTag i with
  | none => .error 2
  | some t =>
    let rows := x.countedRows
    let rowCells := x.counted.filter (· != j)
    let colCells := rows.filter (fun r => r.1 != i)
    if k.nfRow.getLsbD i || k.nfCol.getLsbD j || rowCells.any (x.badCell t i) || colCells.any (fun r => x.badCell r.2 r.1 j)
        || (rows.any (·.2 == .f32) && rows.any (·.2 == .i32)) then .error 2
    else
      let xr := (x.c.chkColAt x.gs i).sub (Dy.sum (rowCells.filterMap (x.val t i)))
      let xc := Dy.sub (let y := x.c.chkRowAt x.gs j; ⟨y.1, y.2⟩) (Dy.sum (colCells.filterMap (fun r => x.val r.2 r.1 j)))
      if t = .i32 then (if (xr.sub xc).mod32 ≠ 0 then .error 3 else .ok (BitVec.ofInt 32 xr.mod32))
      else
        let m := xr.abs.max xc.abs
        if m.m ≠ 0 ∧ beyond (tolOf h k.fmts * k.u) (xr.sub xc) m then .error 3 else .ok (BitVec.ofNat 32 (rn32 (Val.ofDy xr)))

/-- CKFIX (R242). -/
def execCkfix (f : MC) (s : State) : Out :=
  mWhole s 8 (fun h x s =>
    let w := h.og f.s1.toNat
    let k := s.colo x.p h
    match ckFix h x k w with
    | .error n => s.wrG f.d.toNat (BitVec.ofNat 64 n)
    | .ok v =>
      let i := fldN w 7 0
      let j := fldN w 15 8
      let inf := (cellVal (x.c.tag x.gs i) v).isNone
      let b (m : Mask) (n : Nat) : Mask := if inf then m ||| BitVec.ofNat 256 (2 ^ n) else m
      let s1 := s.modCore x.p (fun c =>
        let c1 := c.putCell x.gs i j v false
        if x.mir = 0 then c1 else c1.putCell x.gs i (j + x.mir) v false)
      ((s1.setColo x.p h { k with
        locR := clearBit k.locR i, locC := clearBit k.locC j, locUR := clearBit k.locUR i, locUC := clearBit k.locUC j
        nfRow := b k.nfRow i, nfCol := b k.nfCol j }).wrG f.d.toNat 0).modCur
          (fun h => { h with ready := h.ready ++ [(.row i, s.cycle + 9)] }))

/-- Doubleword w of the BX image of an exact value and its flag (R243). -/
def ckExport (anchor : Word) (v : Dy) (nf : Bool) (w : Nat) : Word :=
  let b := Bx.empty (sintOf 16 anchor.toNat)
  let b := if nf then { b with nan := true } else b.addReal (Val.ofDy v)
  b.toBits.extractLsb' (64 * w) 64

/-- CKRD.ROW: chkrow of a gang column (R243). -/
def execCkrdRow (f : MC) (s : State) : Out :=
  mOne s (fun h s =>
    let x := s.vctx h h.mLen
    let n := f.imm.toNat % 256
    if x.width ≤ n then s.operand 0x12
    else
      let (c, k) := s.coloAhead x.p h
      let y := c.chkRowAt x.gs n
      s.wrG f.d.toNat (ckExport (h.og f.s1.toNat) ⟨y.1, y.2⟩ (k.nfCol.getLsbD n) (f.imm.toNat / 1024 % 4)))
/-- CKRD.COL: chkcol of a row (R243). -/
def execCkrdCol (f : MC) (s : State) : Out :=
  mOne s (fun h s =>
    let x := s.vctx h h.mLen
    let n := f.imm.toNat % 256
    let (c, k) := s.coloAhead x.p h
    s.wrG f.d.toNat (ckExport (h.og f.s1.toNat) (c.chkColAt x.gs n) (k.nfRow.getLsbD n) (f.imm.toNat / 1024 % 4)))
/-- CKRD.ST: U and FMTSEEN (R243). -/
def execCkrdSt (f : MC) (s : State) : Out :=
  mOne s (fun h s =>
    let k := (s.coloAhead s.issue.core h).2
    s.wrG f.d.toNat (BitVec.ofNat 64 (k.u + k.fmts * 2 ^ 32)))

/-- A deliberate corruption of one cell (R244). -/
def ckInject (f : MC) (s0 : State) (go : Hart → Cell × Bool → Cell × Bool) : Out :=
  onHart s0 (fun h =>
    let x := s0.vctx h h.mLen
    let i := f.imm.toNat % 256
    let j := f.imm.toNat / 256 % 256
    let s := if s0.rowsLate x.p s0.issue.slot h Flight.writes [i] [x.gs.getD (j / 16) 99] then s0.late 3 else s0
    if s.cycle < x.c.mUntil ∨ s.rowsBusy x.p s.issue.slot [i] [x.gs.getD (j / 16) 99] then s.stall
    else if x.width ≤ j then s.operand 0x12
    else
      let y := go h (x.c.cell x.gs i j, x.c.poison x.gs i j)
      (s.modCore x.p (fun c => { c.putCell x.gs i j y.1 y.2 with mUntil := s.cycle + 1 })).modCur
        (fun h => { h with ready := h.ready ++ [(.row i, s.cycle + 2)] }))
def execCkinj (f : MC) (s : State) : Out := ckInject f s (fun h y => (y.1 ^^^ (h.og f.s1.toNat).setWidth 32, y.2))
def execCkinjP (f : MC) (s : State) : Out := ckInject f s (fun _ y => (y.1, true))

/-! The Carrel (R245 to R250). -/
/-- A Carrel fault (R247). -/
def State.carrelFault (s : State) (sub : Nat) : State := s.raise { cause := 0x27, info := sub }
def State.modCarrel (s : State) (g : Carrel → Carrel) : State := s.modCur (fun h => { h with carrel := g h.carrel })

/-- CAPB (R246). -/
def execCapb (f : MC) (s : State) : Out :=
  mOne s (fun h s =>
    if h.carrel.st = .recording ∨ h.carrel.st = .replaying then s.carrelFault 5
    else (s.modCarrel (fun _ => { st := .recording, idx := f.d.toNat })).wrG f.d.toNat 0)

/-- CAPE (R246, R248): ends the recording; in a replay it only ends its trip. -/
def execCape (_ : MC) (s : State) : Out :=
  mOne s (fun h s =>
    match h.carrel.st with
    | .recording => s.modCarrel (fun c => { c with len := c.pos, pos := 0, st := .loaded, trip := 1 })
    | .replaying => s
    | _ => s.carrelFault 4)

/-- A replay begins once the packet ends (R248). -/
def Carrel.start (c : Carrel) (cont : VAddr) : Carrel :=
  { c with cont := cont, st := if c.trip < c.count then .replaying else .loaded }

/-- CAPR (R248). -/
def execCapr (f : MC) (s : State) : Out :=
  mOne s (fun h s =>
    let n := (h.og f.s1.toNat).toNat
    if h.carrel.st = .idle ∨ h.carrel.st = .recording then s.carrelFault 3
    else if 2 ^ 32 ≤ n then s.carrelFault 6
    else s.modCarrel (fun c => { c with count := n }.start s.issue.npc))

/-- CAPX from a start trip (R248). -/
def capxFrom (s : State) (trip : Hart → Nat) : Out :=
  mOne s (fun h s =>
    if h.carrel.st = .idle ∨ h.carrel.st = .recording then s.carrelFault 3
    else if 2 ^ 32 ≤ trip h then s.carrelFault 6
    else s.modCarrel (fun c => { c with trip := trip h, pos := 0 }.start s.issue.npc))
def execCapx (f : MC) (s : State) : Out := capxFrom s (fun h => (h.og f.s1.toNat).toNat)
def execCapxSaved (_ : MC) (s : State) : Out := capxFrom s (fun h => h.carrel.trip)
def execCapxFirst (_ : MC) (s : State) : Out := capxFrom s (fun h => h.carrel.first)

end Sys2Proof.Machine
end

