-- ==== Sys2Proof/Machine/Xlate.lean ====
section
/-! DEFINITION. Address translation (R83 to R105): contexts, tables, the walker's A and D bits, cached translations, the local window, and
the Folio windows with copy-on-write (R124 to R130). -/
namespace Sys2Proof.Machine
open Sys2Proof

/-- The place `i` bytes on, within a 4 KiB piece. -/
def Loc.plus (l : Loc) (i : Nat) : Loc :=
  match l with
  | .mem k => .mem (k + i)
  | .reg b f => .reg b (f + i)
  | .bcast f => .bcast (f + i)
  | .hole => .hole
  | .remote p => .remote (p + i)

/-- A translation fault: cause and walk level of R104, and whether the request may have taken effect (R105). `wait` says that there is no fault yet: the
access waits until what uses a translation about to be removed has completed (R127). -/
structure XFault where
  cause : Nat
  level : Nat := 15
  unk : Bool := false
  wait : Bool := false
  deriving DecidableEq, Repr

/-- A request to a place waits for an answer before it can go on: one to another package, or, where `far` says so, to another die of this one (R104). -/
def XOk.asks (far : Bool) (d : Nat) (o : XOk) : Bool :=
  match o.loc with | .remote _ => true | l => far && (match l.home with | some b => b != d | none => false)

abbrev XRes := State × Except XFault XOk

def State.ctxbase (s : State) (d : Nat) : Word := if d < 16 then (s.die d).ctxbase else s.hub.ctxbase
/-- The cached translations that serve an access: those of its core, or the hub's for the port; agents of a die that are no core cache none (R95, R422). -/
def State.tlb (s : State) (w : Who) : List Tlb := if 16 ≤ w.die then s.hub.tlb else if w.core < 32 then (s.core w.core).tlb else []
/-- Caches a translation. -/
def State.addTlb (s : State) (w : Who) (t : Tlb) : State :=
  if 16 ≤ w.die then s.modHub (fun x => { x with tlb := t :: x.tlb }) else if w.core < 32 then s.modCore w.core (fun x => { x with tlb := t :: x.tlb }) else s
/-- Keeps the cached translations of a die's cores (16: of the hub) that a test admits. -/
def State.keepTlb (s : State) (b : Nat) (keep : Tlb → Bool) : State :=
  let cut (s : State) (p : Nat) : State := s.modCore p (fun x => { x with tlb := x.tlb.filter keep })
  if b < 16 then cut (cut s (2 * b)) (2 * b + 1) else s.modHub (fun x => { x with tlb := x.tlb.filter keep })
/-- An agent of a die that is no core, in a context. -/
def agent (d ctx : Nat) : Who := { die := d, core := 32, ctx := ctx, fw := ctx == 0 }

/-- Accesses of a hart. -/
def State.who (s : State) (p : Nat) (h : Hart) : Who :=
  let q := ((s.gang h.die h.idx).place? p).getD {}
  { die := p / 2, core := p, ctx := h.curCtx, fw := h.priv, spbase := q.spbase, spsize := (s.gang h.die h.idx).desc.spres * 65536 }

/-- What a domain physical address names (R83). -/
def State.paLoc (s : State) (pa : Nat) : Loc := if pa / 2 ^ 46 = s.hub.pkgid.toNat then s.loc (pa % 2 ^ 46) else .remote pa

/-- The memory byte of a structure that must lie in HBM4 or LP6 of the package (R92, R125). -/
def State.ownMem (s : State) (pa : Nat) : Option Nat :=
  match s.paLoc pa with
  | .mem k => if k < 0x30000000000 then some k else none
  | _ => none

def State.readN (s : State) (k n : Nat) : Nat := leNat (s.readAt k n)
def bytesAt (k n x : Nat) : List (Nat × Byte) := (leBytes n x).zipIdx.map (fun (b, i) => (k + i, b))
/-- Bytes at keys from k on. -/
def bytesOn (k : Nat) (l : List Byte) : List (Nat × Byte) := l.zipIdx.map (fun (b, i) => (k + i, b))

/-- Index of a level in a virtual address (R89). -/
def vaIndex (va : Nat) (l : Nat) : Nat := if l = 4 then va / 2 ^ 68 % 4096 else va / 2 ^ (16 + 13 * l) % 8192
/-- Page size of a leaf (R91). -/
def pageSize (l : Nat) : Nat := 2 ^ (16 + 13 * l)

def eBit (e b : Nat) : Bool := e.testBit b
def ePa (e : Nat) : Nat := e / 2 ^ 16 % 2 ^ 40 * 2 ^ 16
def eAttr (e : Nat) : Nat := e / 2 ^ 10 % 8

/-- Reserved-bit faults of a valid entry (R90, R91, R97, R124). -/
def eReserved (e l : Nat) : Bool :=
  e / 2 ^ 13 % 8 != 0 ||
  (if eBit e 1 then
    decide (3 ≤ l) || (eBit e 3 && !eBit e 2) || decide (3 ≤ eAttr e) || (decide (1 ≤ l) && eBit e 56)
      || (decide (1 ≤ l) && !eBit e 56 && ePa e % pageSize l != 0)
   else l == 0 || eBit e 56 || eAttr e != 0 || eBit e 9)

/-- Sets the A bit, and for a write the D bit, of an entry (R94). -/
def State.touch (s : State) (k e : Nat) (d : Bool) : State :=
  let e' := e ||| 2 ^ 7 ||| (if d then 2 ^ 8 else 0)
  if e' = e then s else s.commit (bytesAt k 8 e') false

/-- The table entry of a level: its place and contents, or the first fault of orders 4 to 6 (R104); an entry homed on
a die cut off gives 0x19 (R415). `pl` is the level of the pointing entry. -/
def State.entry (s : State) (d va pa pl l : Nat) : Except XFault (Nat × Nat) :=
  match s.ownMem (pa + 8 * vaIndex va l) with
  | none => .error { cause := 0x1A, level := pl }
  | some k =>
    let e := s.readN k 8
    if s.cutOff d (.mem k) then .error { cause := 0x19, level := l }
    else if s.held d (.mem k) then .error { cause := 0x19, level := l, wait := true }
    else if !eBit e 0 then .error { cause := 0x10, level := l }
    else if eReserved e l then .error { cause := 0x11, level := l }
    else .ok (k, e)

/-- A structure at a domain address is read: the check value of its granule is verified (R401). What a device agent does with a bad entry the spec does not say: it goes by the bits that
stand there (DESIGN CHOICE, log 80). -/
def State.look (s : State) (d pa : Nat) : State :=
  match s.ownMem pa with
  | some k => if s.cutOff d (.mem k) then s else s.verify [k / 64]
  | none => s

/-- The walk from a level downwards: the leaf found, with its level and place. -/
def State.walk (s : State) (d va pa pl : Nat) : Nat → State × Except XFault (Nat × Nat × Nat)
  | 0 =>
    let s := s.look d (pa + 8 * vaIndex va 0)
    match s.entry d va pa pl 0 with
    | .error x => (s, .error x)
    | .ok (k, e) => (s, .ok (e, 0, k))
  | l + 1 =>
    let s := s.look d (pa + 8 * vaIndex va (l + 1))
    match s.entry d va pa pl (l + 1) with
    | .error x => (s, .error x)
    | .ok (k, e) => if eBit e 1 then (s, .ok (e, l + 1, k)) else (s.touch k e false).walk d va (ePa e) (l + 1) l

/-- Whether an access writes (R99, R126). -/
def accWrites : Acc → Bool | .store | .atomic => true | _ => false

/-- Orders 7 to 9 of R104 on the flags of a leaf. -/
def leafCheck (w : Who) (acc : Acc) (dev8 : Bool) (e l : Nat) : Option XFault :=
  if eBit e 5 && !w.fw then some { cause := 0x15, level := l }
  else match acc with
    | .load => if !eBit e 2 then some { cause := 0x12, level := l } else if eAttr e == 2 && !dev8 then some { cause := 0x16, level := l } else none
    | .store => if !eBit e 3 then some { cause := 0x13, level := l } else if eAttr e == 2 && !dev8 then some { cause := 0x16, level := l } else none
    | .atomic =>
      if !eBit e 2 then some { cause := 0x12, level := l } else if !eBit e 3 then some { cause := 0x13, level := l }
      else if eAttr e == 2 then some { cause := 0x16, level := l } else none
    | .fetch => if !eBit e 4 then some { cause := 0x14, level := l } else if eAttr e == 2 then some { cause := 0x16, level := l } else none

/-- The kind of place that an address of another package names; which LP6 groups that package has is not known here. -/
def Loc.kind : Loc → Loc
  | .remote pa => localPlace false 0xF (pa % 2 ^ 46)
  | l => l
/-- A register block of this or another package. -/
def Loc.isReg (l : Loc) : Bool := match l.kind with | .reg _ _ | .bcast _ => true | _ => false

/-- Orders 9 and 10 of R104 on the place: a register block of any package answers only a device access of 8 bytes through a leaf with P = 1 (R87). -/
def placeCheck (loc : Loc) (attr : Nat) (dev8 p : Bool) (l : Nat) : Option XFault :=
  if loc.isReg then (if attr == 2 && dev8 && p then none else some { cause := 0x16, level := l })
  else if loc.kind = .hole then some { cause := 0x18, level := l } else none

/-! Folio windows. -/
/-- The Folio header of a context (R124, R125). -/
structure Folio where
  base : Nat
  mapBase : Nat
  nseg : Nat
  npool : Nat
  flBase : Nat
  flTopKey : Nat
  flTop : Nat
  deriving DecidableEq, Repr

/-- Context entry `n`: its two doublewords (R88). -/
def State.ctxEntry (s : State) (d n : Nat) : Except XFault (Nat × Nat) :=
  let b := fldN (s.ctxbase d) 55 16 * 65536
  match s.ownMem (b + 16 * n) with
  | none => .error { cause := 0x1A }
  | some k => if s.cutOff d (.mem k) then .error { cause := 0x19 } else if s.held d (.mem k) then .error { cause := 0x19, wait := true } else .ok (s.readN k 8, s.readN (k + 8) 8)

/-- A context entry is read (R401). -/
def State.seeCtx (s : State) (d n : Nat) : State := s.look d (fldN (s.ctxbase d) 55 16 * 65536 + 16 * n)

/-- The header that a context's FOLIO field locates; FE = 0 or a zero field of the header that is not zero gives 0x1B (R126). What non-zero bits [127:120] and [79:65] of the
FOLIO field itself do is not stated: the model ignores them (DESIGN CHOICE, log 69). -/
def State.folio (s : State) (fol : Nat) : Except XFault Folio :=
  if !eBit fol 0 then .error { cause := 0x1B, level := 0 }
  else
    let b := fol / 2 ^ 16 % 2 ^ 40 * 65536
    match s.ownMem b with
    | none => .error { cause := 0x1A, level := 0 }
    | some k =>
      let m := s.readN k 8
      let f := s.readN (k + 16) 8
      if m % 64 ≠ 0 ∨ 2 ^ 56 ≤ m ∨ f % 4 ≠ 0 ∨ 2 ^ 56 ≤ f ∨ s.readN (k + 28) 36 ≠ 0 then .error { cause := 0x1B, level := 0 }
      else .ok { base := b, mapBase := m, nseg := s.readN (k + 8) 4, npool := s.readN (k + 12) 4, flBase := f, flTopKey := k + 24,
                 flTop := s.readN (k + 24) 4 }

/-- A Folio header is read (R401). -/
def State.seeFolio (s : State) (fol : Nat) : State := s.look 16 (fol / 2 ^ 16 % 2 ^ 40 * 65536)

/-- Place of pool entry b, of map word i of segment S, and of stack entry n. -/
def State.poolKey (s : State) (f : Folio) (b : Nat) : Option Nat := s.ownMem (f.base + 64 + 8 * b)
def State.mapKey (s : State) (f : Folio) (seg i : Nat) : Option Nat := s.ownMem (f.mapBase + 64 * seg + 4 * i)
def State.stackKey (s : State) (f : Folio) (n : Nat) : Option Nat := s.ownMem (f.flBase + 4 * n)
def rcOf (e : Nat) : Nat := e / 2 ^ 48
def blkOf (e : Nat) : Nat := e / 16 % 2 ^ 44 * 4096
def setRc (e rc : Nat) : Nat := e % 2 ^ 48 + rc * 2 ^ 48
def State.store (s : State) (k n x : Nat) : State := s.commit (bytesAt k n x) false

/-- Every die of the package drops the cached translations that name a map word or a pool entry (R127). -/
def State.folioDrop (s : State) (ks : List Nat) : State :=
  let keep (t : Tlb) : Bool := match t.folio with | some (a, b, _) => !ks.contains a && !ks.contains b | none => true
  { s with cores := s.cores.map (fun (d, x) => (d, ({ x with tlb := x.tlb.filter keep } : Core).performed)), hub := { s.hub with tlb := s.hub.tlb.filter keep } }

/-- Runs of places that touch a 4 KiB block of memory. -/
def runsTouch (k : Nat) (l : List (Nat × Nat × Nat)) : Bool := l.any (fun r => decide (r.2.1 < k + 4096) && decide (k < r.2.1 + r.2.2))
def keysTouch (k : Nat) (l : List Nat) : Bool := l.any (fun x => decide (k ≤ x) && decide (x < k + 4096))
def CopyCmd.touches (c : CopyCmd) (k : Nat) : Bool := runsTouch k c.src || c.dst.any (runsTouch k) || keysTouch k (c.cw ++ c.flag)
def CatCmd.touches (c : CatCmd) (k : Nat) : Bool :=
  runsTouch k c.src || runsTouch k c.src2 || runsTouch k c.out || runsTouch k c.rcd || keysTouch k c.cw
/-- An access that was translated to a 4 KiB block has not completed: a store before its home moment, a scalar access on its way, or a command of an engine or a unit
(R127, R130). -/
def State.blockBusy (s : State) (k : Nat) : Bool :=
  s.pw.any (fun w => w.phase == 0 && keysTouch k (w.bytes.map (·.1)))
    || s.cores.any (fun c => c.2.harts.any (fun h => (h.2.map (fun h => h.reqOks.any (fun o => match o.loc with | .mem x => keysTouch k [x] | _ => false))).getD false))
    || s.dies.any (fun d => d.2.eng.any (fun e => e.2.cmds.any (·.touches k)) || d.2.cat.any (·.touches k) || d.2.catAway.any (·.touches k))
/-- A block of a pool entry is in use by an access already translated. -/
def State.entryBusy (s : State) (e : Nat) : Bool := match s.ownMem (blkOf e) with | some k => s.blockBusy k | none => false

/-- `drop(b)` of R129. The spec gives no outcome of RC − 1 where RC is 0: RC stays 0 and the index is pushed once more (DESIGN CHOICE, log 80). -/
def State.drop (s : State) (f : Folio) (b : Nat) : State :=
  match s.poolKey f b with
  | none => s
  | some k =>
    let e := s.readN k 8
    let s := (s.verify [f.flTopKey / 64]).store k 8 (setRc e (rcOf e - 1))
    let top := s.readN f.flTopKey 4
    let s := s.folioDrop [k]
    if rcOf e - 1 ≠ 0 ∨ top = f.npool then s
    else match s.stackKey f top with
      | none => s
      | some sk => (s.store sk 4 b).store f.flTopKey 4 (top + 1)

/-- Pops the free stack: the pool index with the state after it. -/
def State.popFree (s : State) (f : Folio) : Option (Nat × State) :=
  let top := s.readN f.flTopKey 4
  if top = 0 then none
  else match s.stackKey f (top - 1) with
    | none => none
    | some k => some (s.readN k 4, (s.verify [k / 64]).store f.flTopKey 4 (top - 1))

/-- The stack entry that the next pop reads, or the one that the drop of entry `b` would write, lies outside the package's HBM4 and LP6 (R125). -/
def State.popOut (s : State) (f : Folio) : Bool :=
  let top := s.readN f.flTopKey 4
  top != 0 && (s.stackKey f (top - 1)).isNone
def State.dropOut (s : State) (f : Folio) (b : Nat) : Bool :=
  let top := s.readN f.flTopKey 4
  match s.poolKey f b with
  | none => true
  | some k => rcOf (s.readN k 8) == 1 && top != f.npool && (s.stackKey f top).isNone

/-- Copies a 4 KiB block granule by granule with its marks (R128 step 4). -/
def State.copyBlock (s : State) (src dst : Nat) : State :=
  (List.range 64).foldl (fun s g =>
    let t := s.verify [(src + g * 64) / 64]
    t.commit ((List.range 64).map (fun i => (dst + g * 64 + i, t.byte (src + g * 64 + i)))) (t.badKey (src + g * 64))) s

/-- Fields of the Folio structures that R125 bounds and gives no outcome for (NPOOL, FLTOP, map word [30:24], pool entry [3:0]) are taken as they stand (DESIGN CHOICE, log 69).
The block behind a Folio leaf, with copy-on-write for a write (R126, R128): domain address of the block, and what a cached translation of it
names. -/
def State.folioBlock (s : State) (fol seg va : Nat) (acc : Acc) : State × Except XFault (Nat × Nat × Nat × Bool) :=
  let s := s.seeFolio fol
  let bad : State × Except XFault (Nat × Nat × Nat × Bool) := (s, .error { cause := 0x1B, level := 0 })
  let out : State × Except XFault (Nat × Nat × Nat × Bool) := (s, .error { cause := 0x1A, level := 0 })
  match s.folio fol with
  | .error x => (s, .error x)
  | .ok f =>
    if f.nseg ≤ seg then bad
    else match s.mapKey f seg (va / 4096 % 16) with
    | none => out
    | some mw =>
      let m := s.readN mw 4
      let b := m % 2 ^ 24
      if !eBit m 31 || decide (f.npool ≤ b) then (s.verify [mw / 64], .error { cause := 0x1B, level := 0 })
      else match s.poolKey f b with
      | none => out
      | some pk =>
        let s := s.verify [mw / 64, pk / 64]
        let e := s.readN pk 8
        if rcOf e = 0 then (s, .error { cause := 0x1B, level := 0 })
        else if (s.ownMem (blkOf e)).isNone then (s, .error { cause := 0x1A, level := 0 })
        else if !accWrites acc || rcOf e == 1 then (s, .ok (blkOf e, mw, pk, rcOf e != 1))
        else if s.popOut f || s.dropOut f b then out
        else if s.entryBusy e then (s, .error { cause := 0x1E, level := 0, wait := true })
        else match s.popFree f with
        | none => (s, .error { cause := 0x1E, level := 0 })
        | some (n, s1) =>
          match s.poolKey f n with
          | none => out
          | some nk =>
            let ne := s.readN nk 8
            match s.ownMem (blkOf e), s.ownMem (blkOf ne) with
            | some sk, some dk =>
              let s2 := s1.copyBlock sk dk
              let s3 := ((s2.store nk 8 (setRc ne 1)).store mw 4 (2 ^ 31 + n)).drop f b
              (s3.folioDrop [mw, pk], .ok (blkOf ne, mw, nk, false))
            | _, _ => out

/-- The first HBM4 access of a core locks MEM.ILV (R86). What counts as an access of a core is the model's choice (DESIGN CHOICE, log 69): one translated for a hart's
slot or fetch, the acceptance of a command, and a TRANSLATION_WALK; the walker's own reads of tables do not. -/
def State.lockIlv (s : State) (w : Who) (loc : Loc) : State :=
  match loc with
  | .mem k => if w.die < 16 ∧ aliasBase ≤ k ∧ k < 0x28000000000 ∧ s.hub.ilvLock = false then s.modHub (fun x => { x with ilvLock := true }) else s
  | _ => s

/-- A cached translation that serves an access (R94, R95, R127). -/
def Tlb.serves (t : Tlb) (w : Who) (va : Nat) (acc : Acc) : Bool :=
  (t.global || t.ctx == w.ctx) && decide (t.va ≤ va) && decide (va < t.va + t.size) && (!accWrites acc || t.dirty)
    && (match t.folio with | some (_, _, shared) => !(accWrites acc && shared) | none => true)

/-- Ends a translation at a domain address: orders 9 and 10 on the place, and 11 where its die is cut off (R415); the access waits while the route to that
die has changed under earlier requests (R413). -/
def State.arrive (s : State) (w : Who) (pa attr l : Nat) (dev8 p : Bool) : XRes :=
  let loc := s.paLoc pa
  match placeCheck loc attr dev8 p l with
  | some x => (s, .error x)
  | none =>
    if s.cutOff w.die loc then (s, .error { cause := 0x19, level := l })
    else if s.held w.die loc then (s, .error { cause := 0x19, level := l, wait := true })
    else (s.lockIlv w loc, .ok { loc := loc, pa := pa, attr := attr, level := l })

/-- Whether the cache takes the contiguity group of a leaf with CH = 1 as one translation, which R93 allows and does not require: a free choice (log 4). -/
def State.holdsGroup (s : State) (e : Nat) : Bool := eBit e 9 && !eBit e 56 && s.freeVal.getLsbD 0

/-- The walk of an access that no cached translation serves (R88 to R95, R104 orders 3 to 10); a successful one is cached. -/
def State.walkAll (s : State) (w : Who) (va : Nat) (acc : Acc) (dev8 : Bool) : XRes :=
  let s := s.seeCtx w.die w.ctx
  match s.ctxEntry w.die w.ctx with
  | .error x => (s, .error x)
  | .ok (c0, c1) =>
    if !eBit c0 0 || c0 / 2 % 2 ^ 15 != 0 || decide (2 ^ 56 ≤ c0) then (s, .error { cause := 0x1C })
    else match s.walk w.die va (ePa c0) 15 4 with
    | (s, .error x) => (s, .error x)
    | (s, .ok (e, l, k)) =>
      match leafCheck w acc dev8 e l with
      | some x => (s, .error x)
      | none =>
        let s := s.touch k e (accWrites acc)
        let n := if s.holdsGroup e then 32 * pageSize l else pageSize l
        let s := if eBit e 9 && !eBit e 56 then s.drawn else s
        let t : Tlb := { ctx := w.ctx, global := eBit e 6, va := va / n * n, size := n, pa := ePa e / n * n,
                         flags := e % 65536, attr := eAttr e, dirty := eBit e 8 || accWrites acc, level := l }
        if eBit e 56 then
          match s.folioBlock c1 (e / 2 ^ 16 % 2 ^ 40) va acc with
          | (s, .error x) => (s, .error x)
          | (s, .ok (blk, mw, pk, shared)) =>
            (s.addTlb w { t with va := va / 4096 * 4096, size := 4096, pa := blk, folio := some (mw, pk, shared) }).arrive w (blk + va % 4096) (eAttr e) 0 dev8 (eBit e 5)
        else (s.addTlb w t).arrive w (ePa e + va % pageSize l) (eAttr e) l dev8 (eBit e 5)

/-- Translates one byte of an access (R89, R100, R101, R104). `dev8` says that the access is an aligned scalar load or store of 8 bytes. After a change to an entry without
an invalidation R96 allows the old or the new translation: the model takes the old one as long as it is cached (DESIGN CHOICE, log 69). -/
def State.xlate (s : State) (w : Who) (va : VAddr) (acc : Acc) (dev8 : Bool) : XRes :=
  let v := va.toNat
  if v / 2 ^ 72 = 0xFF then
    let o := v % 2 ^ 72
    if acc ≠ .fetch ∧ w.die < 16 ∧ o < w.spsize then
      if !w.fw && !(s.ctxbase w.die).getLsbD 0 then (s, .error { cause := 0x1C })
      else (s, .ok { loc := .mem (padKey w.core (w.spbase + o)), pa := s.hub.pkgid.toNat * 2 ^ 46 + padKey w.core (w.spbase + o) })
    else (s, .error { cause := 0x17 })
  else if !(s.ctxbase w.die).getLsbD 0 then
    if !w.fw then (s, .error { cause := 0x1C })
    else if 2 ^ 56 ≤ v then (s, .error { cause := 0x1D })
    else s.arrive w v (if (s.paLoc v).isReg then 2 else 0) 15 dev8 true
  else
    match (s.tlb w).find? (fun t => t.serves w v acc) with
    | some t =>
      match leafCheck w acc dev8 t.flags t.level with
      | some x => (s, .error x)
      | none => s.arrive w (t.pa + (v - t.va)) t.attr t.level dev8 (eBit t.flags 5)
    | none => s.walkAll w v acc dev8

/-- Splits an access at 4 KiB boundaries: pieces of address and length. -/
def pieces (va : VAddr) (n : Nat) : List (VAddr × Nat) :=
  let r := 4096 - va.toNat % 4096
  if n ≤ r then [(va, n)] else [(va, r), (va + BitVec.ofNat 80 r, n - r)]

/-- The local window region (R89). -/
def inWindow (a : VAddr) : Bool := a.toNat / 2 ^ 72 == 0xFF
/-- An address of the window region that an access finds no byte at (R100). -/
def windowHole (w : Who) (acc : Acc) (a : VAddr) : Bool := inWindow a && !(acc != .fetch && decide (w.die < 16) && decide (a.toNat % 2 ^ 72 < w.spsize))
/-- An access goes into or out of the window region, or past the top of the space, at its second piece. -/
def crosses (va a : VAddr) : Bool := a != va && (decide (a.toNat < va.toNat) || inWindow a != inWindow va)

/-- A scalar access or one vector element (R102, R103): its places byte by byte, or the lowest faulting byte with its fault. Of one byte a window hole comes first, then a crossing
(orders 1 and 2 of R104), which faults at the byte after it. -/
def State.xlateSpan (s : State) (w : Who) (va : VAddr) (n : Nat) (acc : Acc) (dev8 : Bool) : State × Except (VAddr × XFault) (List XOk) :=
  let rec go (s : State) : List (VAddr × Nat) → State × Except (VAddr × XFault) (List XOk)
    | [] => (s, .ok [])
    | (a, m) :: r =>
      if windowHole w acc a then (s, .error (a, { cause := 0x17 }))
      else if crosses va a then (s, .error (a, { cause := 0x1D }))
      else match s.xlate w a acc dev8 with
      | (s, .error x) => (s, .error (a, x))
      | (s, .ok o) =>
        match go s r with
        | (s, .error x) => (s, .error x)
        | (s, .ok l) =>
          (s, .ok ((List.range m).map (fun i =>
            { o with pa := o.pa + i, loc := o.loc.plus i }) ++ l))
  go s (pieces va n)

/-- TRINFO of a translation or alignment fault (R105). -/
def trinfo (acc : Acc) (size level : Nat) (unk : Bool) : Nat := level + size * 16 + (if unk then 256 else 0) + acc.code * 512

/-- Removes the cached translations that an invalidation names (R96); ranges are of 64 KiB pages. A command for one context keeps the global translations reached through
it, which belong to every context (DESIGN CHOICE, log 69). -/
def invalidates (kind ctx base npg : Nat) (t : Tlb) : Bool :=
  match kind with
  | 0 => true
  | 1 => t.ctx == ctx && !t.global
  | _ => (t.global || t.ctx == ctx) && decide (t.va < base + (npg + 1) * 65536) && decide (base < t.va + t.size)

end Sys2Proof.Machine
end

