-- ==== Sys2Proof/Machine/Links.lean ====
section
/-! DEFINITION. Die-mesh ports and Ibros links: lanes, retraining and failure (R148 to R153, R405), and the routes of requests to other packages (R150). -/
namespace Sys2Proof.Machine
open Sys2Proof

/-- Dies of Ibros links 0 to 7 (R7). -/
def edgeDies : List Nat := [1, 2, 4, 7, 8, 11, 13, 14]
/-- The port leads to another die (R149). -/
def portExists (d p : Nat) : Bool := match p with | 0 => d % 4 != 3 | 1 => decide (d < 12) | 2 => d % 4 != 0 | 3 => decide (4 ≤ d) | _ => false
def portNext (d p : Nat) : Nat := match p with | 0 => d + 1 | 1 => d + 4 | 2 => d - 1 | _ => d - 4

/-- Links are numbered as R403 numbers them: mesh port p of die d is 4·d + p, Ibros link i is 64 + i. -/
def linkExists (n : Nat) : Bool := if n < 64 then portExists (n / 4) (n % 4) else decide (n < 72)
def State.link (s : State) (n : Nat) : Link :=
  if n < 64 then tget {} (s.die (n / 4)).port (n % 4) else (s.die (edgeDies.getD (n - 64) 0)).ibros
def State.modLink (s : State) (n : Nat) (f : Link → Link) : State :=
  if n < 64 then s.modDie (n / 4) (fun d => { d with port := tmod {} d.port (n % 4) f })
  else s.modDie (edgeDies.getD (n - 64) 0) (fun d => { d with ibros := f d.ibros })
/-- The far end of a mesh port. -/
def linkFar (n : Nat) : Nat := if n < 64 then 4 * portNext (n / 4) (n % 4) + (n % 4 + 2) % 4 else n
def linkLanes (n : Nat) : Nat := if n < 64 then 32 else 16
/-- A meaning of a link event. -/
def onLink (s : State) (t : State) : Out := if linkExists s.arg.link then .next t else .fault .noSuchAgent

/-- What the record of a link says (R405; log 20). -/
def linkSwap : Nat := 1
def linkHalf : Nat := 2
def linkDown : Nat := 3
def linkBack : Nat := 4

/-- LANE_SHADOW_ROTATE: a millisecond ends with `len` errors on the lane under test. Above THR the lane is swapped out and rotation stops; otherwise
the shadow role steps to the next lane (R152). -/
def State.rotate (s : State) (n errors : Nat) : State :=
  let l := s.link n
  if !l.swapped.isEmpty then s
  else if l.thr.toNat < errors then
    (s.modLink n (fun l => { l with swapped := [l.shadow], swaps := (l.swaps + 1) % 256, laneErr := [] })).event (srcLink n) linkSwap l.shadow
  else s.modLink n (fun l => { l with shadow := (l.shadow + 1) % linkLanes n, laneErr := [] })
def execLaneShadowRotate (s : State) : Out := onLink s (s.rotate s.arg.link s.arg.len)

/-- FLIT_CRC_ERROR: a flit fails its CRC on a lane and is resent (R148). A second lane past THR makes the link retrain at half width (R152); one that is DOWN waits for firmware (R153).
Over which window the errors of the second lane count the spec does not say: once a lane is swapped out rotation has stopped, and they count until the link retrains (DESIGN CHOICE, log 80). -/
def State.flitError (s : State) (n lane : Nat) : State :=
  let s1 := s.modLink n (fun l => { l with crcerr := (l.crcerr + 1) % 2 ^ 64, retry := (l.retry + 1) % 2 ^ 64, laneErr := tmod 0 l.laneErr lane (· + 1) })
  let l := s1.link n
  if l.down = false ∧ l.swapped.length = 1 ∧ !l.swapped.contains lane ∧ l.thr.toNat < tget 0 l.laneErr lane then
    (s1.modLink n (fun l => { l with swapped := l.swapped ++ [lane], half := true, train := true })).event (srcLink n) linkHalf lane
  else s1
def execFlitCrcError (s : State) : Out := onLink s (s.flitError s.arg.link s.arg.idx)

/-! Requests to other packages (R150, R153), and what becomes of those on their way. -/
/-- The exclusive-or of the 8-bit groups PA[13:6], PA[21:14], up to PA[55:54]. -/
def routeHash (pa : Nat) : Nat := (List.range 7).foldl (fun h i => h ^^^ (pa / 2 ^ (6 + 8 * i) % 256)) 0

/-- The Ibros link that a request leaves by; none where it finds no route. -/
def State.routeLink (s : State) (pa : Nat) : Option Nat :=
  let r := tget 0 s.hub.rt (pa / 2 ^ 46)
  let l := (List.range 8).filter (fun i => r.getLsbD i && (s.link (64 + i)).up)
  if r.getLsbD 8 ∧ !l.isEmpty then l[routeHash pa % l.length]? else none

/-- A request to another package finds a route. -/
def State.hasRoute (s : State) (pa : Nat) : Bool := (s.routeLink pa).isSome

/-- A request that a die has sent has no way left on which it could be resent or answered (R153, R415). -/
def State.noWayLeft (s : State) (d : Nat) (o : XOk) : Bool := match o.loc with | .remote pa => !s.hasRoute pa | l => s.cutOff d l

/-- Scalar accesses that were sent and not answered, and have no way left, count as lost: TRINFO.UNK will be 1 (R104, R153, R415). -/
def State.loseReqs (s : State) : State :=
  { s with cores := s.cores.map (fun (p, c) => (p, { c with harts := c.harts.map (fun (i, h) => (i, h.map (fun h =>
      if h.remoteReq ∧ h.remoteAns = none ∧ h.reqOks.any (s.noWayLeft (p / 2)) then { h with remoteAns := some .lost } else h))) })) }

/-- LINK_DOWN: one flit failed 16 resends; the link leaves every route (R153), and a mesh link fails at both ends. -/
def State.linkFails (s : State) (n : Nat) : State :=
  let f (l : Link) : Link := { l with down := true, up := false, train := false }
  ((((s.modLink n f).modLink (linkFar n) f)).event (srcLink n) linkDown 0).loseReqs
def execLinkDown (s : State) : Out := onLink s (s.linkFails s.arg.link)

/-- FIRMWARE_RETRAIN: firmware has a link trained (R153, R427). -/
def execFirmwareRetrain (s : State) : Out := onLink s (s.modLink s.arg.link (fun l => { l with train := true }))

/-- RETRAIN_DONE: the link carries traffic (R152), an Ibros link knowing the package at its far end (R151); one that was DOWN is back in service (R153, R405). -/
def State.retrained (s : State) (n peer : Nat) : State :=
  let l := s.link n
  if !l.train then s
  else
    let f (l : Link) : Link := { l with train := false, up := true, down := false }
    let s1 := (s.modLink n (fun l => { f l with peer := peer % 1024, retrains := (l.retrains + 1) % 2 ^ 64, laneErr := [] }))
    let s2 := if n < 64 ∧ l.down then s1.modLink (linkFar n) f else s1
    if l.down then s2.event (srcLink n) linkBack 0 else s2
def execRetrainDone (s : State) : Out := onLink s (s.retrained s.arg.link s.arg.idx)

end Sys2Proof.Machine
end

