-- ==== Sys2Proof/Machine/Sched.lean ====
section
/-! DEFINITION. The gang scheduler (14_gangs_harts_and_the_scheduler.md): descriptors, readiness, the order of records, admission, placement,
reclaim marks, suspension, and the end of a record. -/
namespace Sys2Proof.Machine
open Sys2Proof

/-! The launch descriptor (R331, R332). -/
def u8 (b : List Byte) (o : Nat) : Nat := (b.getD o 0).toNat
def uN (b : List Byte) (o n : Nat) : Nat := leNat ((b.drop o).take n)
/-- Bytes of a table of n bytes; the rest is zero. -/
def padTo (n : Nat) (l : List Byte) : List Byte := l ++ List.replicate (n - l.length) 0

def Desc.parse (b : List Byte) : Desc :=
  { raw := b, code := BitVec.ofNat 80 (uN b 0 10), param := BitVec.ofNat 80 (uN b 16 10), endva := BitVec.ofNat 80 (uN b 32 10)
    offs := [uN b 48 4, uN b 52 4, uN b 56 4, uN b 60 4], cmask := uN b 64 4, ncores := u8 b 68
    counts := [u8 b 69, u8 b 70, u8 b 71, u8 b 72], gmin := u8 b 73, gmax := u8 b 74, prio := u8 b 75 % 8, deps := uN b 76 2
    spres := uN b 78 2, nv := (uN b 80 2).testBit 15, nslot := uN b 80 2 % 16, nword := uN b 80 2 / 16 % 1024, tag := uN b 84 4
    thresh := uN b 88 8 % 2 ^ 63, qclaim := uN b 96 2, tclaim := u8 b 98
    qsize := (List.range 10).map (fun i => uN b (100 + 2 * i) 2), ctx := uN b 120 2 }

/-- Harts per core. -/
def Desc.h (d : Desc) : Nat := d.counts.foldl (· + ·) 0

/-- Logical cores that the logical core map holds as removed (R416). -/
def State.removed (s : State) (n : Nat) : Bool := s.hub.frem.testBit n || s.hub.trem.testBit n

/-- The ranges and zero fields of a descriptor (R331, R332). -/
def descOk (b : List Byte) (d : Desc) : Bool :=
  let zero (o n : Nat) : Bool := uN b o n == 0
  zero 10 6 && zero 26 6 && zero 42 6 && uN b 0 10 % 4 == 0 && uN b 32 10 % 8 == 0
    && d.offs.all (· % 4 == 0) && decide (1 ≤ d.ncores) && decide (d.ncores ≤ 8) && d.counts.all (· ≤ 8) && decide (1 ≤ d.h) && decide (d.h ≤ 8)
    && decide (d.gmin ≤ 16) && decide (d.gmin ≤ d.gmax) && decide (d.gmax ≤ 16) && u8 b 75 / 8 == 0 && decide (d.spres ≤ 128)
    && !(uN b 80 2).testBit 14 && zero 82 2 && uN b 88 8 / 2 ^ 63 == 0 && d.qclaim / 2 ^ 10 == 0 && d.tclaim / 16 == 0 && zero 99 1
    && (List.range 10).all (fun q => let z := d.qsize.getD q 0
        if d.qclaim.testBit q then decide (4 ≤ z) && decide (z ≤ 1024) && z % 4 == 0 else z == 0)
    && zero 122 6 && (d.offs.zip d.counts).all (fun q => q.2 != 0 || q.1 == 0)

/-- R332: a descriptor from a hart with or without HSTAT.FW. -/
def State.descAccepted (s : State) (b : List Byte) (fw : Bool) : Bool :=
  let d := Desc.parse b
  descOk b d && decide (d.ncores ≤ (bitsOf 32 d.cmask).length) && (bitsOf 32 d.cmask).all (fun c => !s.removed c)
    && (fw || (d.prio != 7 && d.ctx == 0))

/-! Handles (R333). -/
def handleOf (gen : Nat) (ring : Bool) (d i : Nat) : Nat := gen * 2 ^ 32 + (if ring then 2 ^ 25 else 0) + d * 2 ^ 20 + i

/-- Where a record stands on its home die. -/
inductive RecAt where | res (i : Nat) | ring (i : Nat)
  deriving DecidableEq, Repr

/-- The record that a handle names (R333, R366), none where the handle is stale. -/
def State.lookup (s : State) (h : Nat) : Option (Nat × RecAt) :=
  let d := h / 2 ^ 20 % 32
  let i := h % 2 ^ 20
  if h / 2 ^ 26 % 64 ≠ 0 ∨ 16 ≤ d then none
  else if h.testBit 25 then
    match (s.die d).recs.find? (fun q => q.2.st != 0 && q.2.handle == h && q.2.ringIdx.isSome) with
    | some (j, _) => some (d, .res j)
    | none => let r := tget {} (s.die d).ring i; if r.st = 1 ∧ r.handle = h then some (d, .ring i) else none
  else
    let r := s.gang d i
    if i < 1024 ∧ r.st ≠ 0 ∧ r.handle = h then some (d, .res i) else none

def State.ringRec (s : State) (d i : Nat) : Rec := tget {} (s.die d).ring i
def State.recAt (s : State) (d : Nat) : RecAt → Rec
  | .res i => s.gang d i
  | .ring i => s.ringRec d i
def State.setRing (s : State) (d i : Nat) (r : Rec) : State := s.modDie d (fun x => { x with ring := tset x.ring i r })
def State.setRecAt (s : State) (d : Nat) (a : RecAt) (r : Rec) : State :=
  match a with
  | .res i => s.setGang d i r
  | .ring i => s.setRing d i r

/-! Readiness (R335, R336). -/
/-- The notify word of a page slot: its place in memory, none where the slot is invalid or does not name HBM4 or LP6 of the package. -/
def State.ntfKey (s : State) (d slot word : Nat) : Option Nat :=
  let r := tget 0 (s.die d).ntf slot
  if r.getLsbD 0 then s.ownMem (fldN r 55 16 * 65536 + 64 * word) else none

/-- The wrapping comparison of R336. -/
def reached (seq thresh : Nat) : Bool := decide (((seq % 2 ^ 63 : Nat) + 2 ^ 63 - thresh % 2 ^ 63) % 2 ^ 63 < 2 ^ 62)

/-- The notify condition of a record is met now. The scheduler reads the word as an acquire at system scope: a write of it counts once it is visible there (R297, R303, R336). -/
def State.noteMet (s : State) (d : Nat) (r : Rec) : Bool :=
  if !r.desc.nv then true
  else if (s.die d).freeze then false
  else match s.ntfKey d r.desc.nslot r.desc.nword with
    | none => false
    | some k => !s.badKey k && reached (s.readN k 8) r.desc.thresh && (s.seen ((List.range 8).map (k + ·))).all (s.visibleAt 5)

/-- The scheduler reads a record's notify word: the check value of its granule is verified (R401). -/
def State.seeNote (s : State) (d : Nat) (r : Rec) : State :=
  match (if r.desc.nv && !(s.die d).freeze then s.ntfKey d r.desc.nslot r.desc.nword else none) with | some k => s.verify [k / 64] | none => s

/-- A WAITING record becomes READY once its count is 0 and its condition is met (R335). -/
def State.evaluate (s : State) (d : Nat) (r : Rec) : Rec :=
  if r.st = 2 ∧ r.deps = 0 ∧ s.noteMet d r then { r with st := 3, readyAt := s.cycle } else r

/-- NOTIFY_EVALUATE and NOTIFY_POLL: the scheduler reads a notify word and readies the records that it satisfies. -/
def State.notify (s : State) (d slot word : Nat) : State :=
  (s.seeNote d { desc := { nv := true, nslot := slot, nword := word } }).modDie d (fun x => { x with recs := x.recs.map (fun q =>
    (q.1, if q.2.desc.nv ∧ q.2.desc.nslot = slot ∧ q.2.desc.nword = word then s.evaluate d q.2 else q.2)) })

def execNotifyEvaluate (s : State) : Out := below s.arg.die 16 (s.notify s.arg.die s.arg.slot s.arg.queue)
def execNotifyPoll (s : State) : Out := below s.arg.die 16 (s.notify s.arg.die s.arg.slot s.arg.queue)

/-! Order (R340). -/
def Rec.effPrio (r : Rec) (cycle : Nat) : Nat :=
  if r.desc.prio = 7 then 7 else min (r.desc.prio + (cycle - r.readyAt) / 2 ^ 20) 6

def Rec.before (cycle : Nat) (a b : Rec) : Bool :=
  let p := a.effPrio cycle
  let q := b.effPrio cycle
  decide (q < p) || (p == q && (decide (a.readyAt < b.readyAt) || (a.readyAt == b.readyAt && decide (a.handle % 2 ^ 32 < b.handle % 2 ^ 32))))

def insBy {α : Type} (lt : α → α → Bool) (x : α) : List α → List α
  | [] => [x]
  | y :: r => if lt x y then x :: y :: r else y :: insBy lt x r
def sortBy {α : Type} (lt : α → α → Bool) (l : List α) : List α := l.foldr (insBy lt) []

/-- READY records of a die in their order. -/
def State.readyList (s : State) (d : Nat) : List (Nat × Rec) :=
  sortBy (fun a b => a.2.before s.cycle b.2) ((s.die d).recs.filter (fun q => q.2.st == 3))

/-! Resources of a core (R341, R344). -/
structure Room where
  slots : Nat
  q : Nat
  t : Nat
  pad : List (Nat × Nat)
  groups : List Nat
  owners : Nat
  ok : Bool

structure Need where
  h : Nat
  q : Nat
  t : Nat
  sp : Nat
  gmin : Nat
  gmax : Nat

/-- What a record needs on a core; a saved one keeps its scratchpad and needs the groups it held there (R346). -/
def Rec.need (r : Rec) (p : Nat) : Need :=
  let d := r.desc
  if r.places.isEmpty then { h := d.h, q := d.qclaim, t := d.tclaim, sp := d.spres, gmin := d.gmin, gmax := d.gmax }
  else
    let g := (tget {} r.saved ((r.places.map (·.core)).idxOf p)).groups
    { h := d.h, q := d.qclaim, t := d.tclaim, sp := 0, gmin := g, gmax := g }

/-- A record holds hart slots, claims and groups. -/
def Rec.holds (r : Rec) : Bool := decide (4 ≤ r.st) && !r.places.isEmpty

/-- Records of the package with a place on a core. -/
def State.recsOn (s : State) (p : Nat) : List Rec :=
  s.dies.flatMap (fun d => (d.2.recs.filter (fun q => q.2.st != 0 && (q.2.place? p).isSome)).map (·.2))

/-- What a core has left when the records `gone` give up everything but their scratchpad. -/
def State.room (s : State) (p : Nat) (gone : Rec → Bool) : Room :=
  let l := s.recsOn p
  let held := l.filter (fun r => r.holds && !gone r)
  let lat := (s.core p).lat
  let goneIdx := (l.filter (fun r => r.holds && gone r)).map (fun r => ((r.place? p).getD {}).rgi)
  let free (g : Nat) : Bool := latOwner lat g == 7 || (decide (latOwner lat g < 6) && goneIdx.contains (latOwner lat g))
  { slots := 8 - held.foldl (fun n r => n + ((r.place? p).getD {}).slots.length) 0
    q := held.foldl (fun n r => n ||| r.desc.qclaim) 0
    t := held.foldl (fun n r => n ||| r.desc.tclaim) 0
    pad := (l.filter (fun r => r.desc.spres != 0)).map (fun r => (((r.place? p).getD {}).spbase, r.desc.spres * 65536))
    groups := (List.range 16).filter free
    owners := ((List.range 6).filter (fun i => !goneIdx.contains i && (List.range 16).any (fun g => latOwner lat g == i))).length
    ok := !s.removed p && !(s.die (p / 2)).wit.selfFenced && (s.core p).stest.isNone }

/-- Lowest free run of scratchpad, 64 KiB aligned (R341, R342). -/
def Room.run (m : Room) (units : Nat) : Option Nat :=
  ((List.range (129 - units)).find? (fun i => m.pad.all (fun q => decide (q.1 + q.2 ≤ i * 65536) || decide ((i + units) * 65536 ≤ q.1)))).map (· * 65536)

/-- R341. -/
def Room.admits (m : Room) (n : Need) : Bool :=
  m.ok && decide (n.h ≤ m.slots) && m.q &&& n.q == 0 && m.t &&& n.t == 0 && (n.sp == 0 || (m.run n.sp).isSome)
    && decide (n.gmin ≤ m.groups.length) && (n.gmax == 0 || decide (m.owners < 6))

/-- The room less what is reserved for a need, a resident gang index among it (R344). -/
def Room.less (m : Room) (n : Need) : Room :=
  { m with slots := m.slots - n.h, q := m.q ||| n.q, t := m.t ||| n.t, groups := m.groups.drop n.gmin, owners := m.owners + bit (n.gmax != 0) 0
           pad := match (if n.sp = 0 then none else m.run n.sp) with | some b => (b, n.sp * 65536) :: m.pad | none => m.pad }

/-- Logical cores that a record may take: its CMASK, or the cores of its reservations. -/
def Rec.cores (r : Rec) : List Nat := if r.places.isEmpty then bitsOf 32 r.desc.cmask else r.places.map (·.core)

/-- Candidate cores of a head (R344). -/
def State.candidates (s : State) (r : Rec) : List Nat :=
  let e := r.effPrio s.cycle
  r.cores.filter (fun p =>
    let m := s.room p (fun v => decide (v.desc.prio < e))
    let ok := !s.removed p && (match (s.core p).stest with | some t => decide (t.prio ≤ e) | none => true)
    ({ m with ok := ok } : Room).admits (r.need p))

/-- Cores on which a record would be placed with the room given, and G (R341). -/
def placeIn (r : Rec) (room : Nat → Room) : Option (List Nat × Nat) :=
  let l := (r.cores.filter (fun p => (room p).admits (r.need p))).take r.desc.ncores
  if l.length < r.desc.ncores then none
  else some (l, l.foldl (fun n p => min n (room p).groups.length) (r.need (l.headD 0)).gmax)

/-- What blocked heads, each with its die and the cores it will use, leave of the room of a core. -/
def Room.lessAll (m : Room) (p : Nat) (l : List (Nat × Rec × List Nat)) : Room :=
  l.foldl (fun m q => if q.2.2.contains p then m.less (q.2.1.need p) else m) m

/-- The heads of all dies in their order (R340). -/
def State.heads (s : State) : List (Nat × Rec) :=
  sortBy (fun a b => a.2.before s.cycle b.2) ((List.range 16).filterMap (fun d => (s.readyList d).head?.map (fun q => (d, q.2))))

/-- The blocked heads in their order: heads that cannot be placed with what the heads before them have reserved, and have enough candidates (R344). -/
def State.blockedHeads (s : State) : List (Nat × Rec × List Nat) :=
  s.heads.foldl (fun l q =>
    let c := s.candidates q.2
    if (placeIn q.2 (fun p => (s.room p (fun _ => false)).lessAll p l)).isSome ∨ c.length < q.2.desc.ncores then l
    else l ++ [(q.1, q.2, c.take q.2.desc.ncores)]) []

/-- The blocked head of a die, with the cores it will use. -/
def State.blockedHead (s : State) (d : Nat) : Option (Rec × List Nat) := (s.blockedHeads.find? (fun q => q.1 == d)).map (·.2)

/-- Room for a record: what the blocked heads that come before it have reserved is not free for it, and a gang that grows gives way to every
blocked head (R340, R344). -/
def State.roomFor (s : State) (r : Rec) (p : Nat) : Room :=
  (s.room p (fun _ => false)).lessAll p (s.blockedHeads.filter (fun q => q.2.1.handle != r.handle && (r.st != 3 || q.2.1.before s.cycle r)))

/-- A record of another die comes first and can be placed now on one of the cores (R340). -/
def State.yields (s : State) (d : Nat) (r : Rec) (cores : List Nat) : Bool :=
  (List.range 16).any (fun e => e != d && !(s.die e).hold && (s.readyList e).any (fun q =>
    q.2.before s.cycle r && (match placeIn q.2 (s.roomFor q.2) with | some (l, _) => l.any cores.contains | none => false)))

/-- A READY record of a die can be placed or resumed now: none before it can, and its cores admit it (R340, R341, R344, R346). HOLD does not keep back a boot hart whose GO
still reads 1 (R101). -/
def State.placeable (s : State) (d i : Nat) : Option (List Nat × Nat) :=
  if s.dead d || ((s.die d).hold && !(i == 0 && (s.die d).boot.getLsbD 0)) then none
  else
    let before := (s.readyList d).takeWhile (fun q => q.1 != i)
    if before.any (fun q => (placeIn q.2 (s.roomFor q.2)).isSome) then none
    else
      let r := s.gang d i
      if r.st ≠ 3 then none
      else match placeIn r (s.roomFor r) with
      | some (l, g) => if s.yields d r l then none else some (l, g)
      | none => none

/-! Placement (R342, R343). -/
/-- Bytes of a range read zero again, with valid check values (R197, R342). -/
def State.zeroRange (s : State) (k n : Nat) : State :=
  let inR (a : Nat) : Bool := decide (k ≤ a) && decide (a < k + n)
  { s with mem := s.mem.filter (fun c => !inR c.1), marks := s.marks.filter (fun g => !inR (g * 64)), badCheck := s.badCheck.filter (fun g => !inR (g * 64))
           cores := s.cores.map (fun (p, c) => (p, { c with harts := c.harts.map (fun (i, h) =>
             (i, h.map (fun h => { h with links := h.links.filter (fun l => !inR (l.2 * 64)) }))) })) }

/-- TOL at placement (R235): 16, and 0 for the integer formats. -/
def tolReset : Tbl Byte := (List.range 16).map (fun f => (f, if 9 ≤ f ∧ f ≤ 14 then 0#8 else 16#8))

def roleOf (n : Nat) : Role := match n with | 0 => .loader | 1 => .compute | 2 => .drain | _ => .solo

/-- Role number of the hart at position p, harts counted in the order loader, compute, drain, solo. -/
def roleAt (counts : List Nat) (p : Nat) : Nat :=
  match counts with
  | [] => 3
  | n :: r => if p < n then 0 else roleAt r (p - n) + 1

/-- A hart as R343 starts it. -/
def newHart (d i : Nat) (r : Rec) (core c p : Nat) : Hart :=
  let role := roleAt r.desc.counts p
  let g1 := c * r.desc.h + p + c * 2 ^ 8 + core * 2 ^ 16
  let regs : Regs := { g := [(1, BitVec.ofNat 64 g1), (2, BitVec.ofNat 64 r.g), (3, BitVec.ofNat 64 r.handle)]
                       a := [(0, r.desc.param), (1, BitVec.ofNat 80 (0xFF * 2 ^ 72))] }
  let ctrl : Ctrl := { fw := r.ctx == 0, role := roleOf role, tol := tolReset }
  { die := d, idx := i, pos := c * r.desc.h + p, ctx := r.ctx, regs := regs, ctrl := ctrl, opnd := regs, octrl := ctrl
    pc := r.desc.code + BitVec.ofNat 80 (r.desc.offs.getD role 0) }

/-- Enters groups in LAT under an index, each cleared (R207, R212). -/
def Core.grant (c : Core) (rgi : Nat) (gs : List Nat) : Core :=
  gs.foldl (fun c g => { c.clearGroup g with lat := latSetPend (latSet c.lat g rgi) g false, gated := tset c.gated g false }) c

/-- Lowest resident gang index that no group names. -/
def freeIndex (lat : Word) : Nat := ((List.range 6).find? (fun i => (List.range 16).all (fun g => latOwner lat g != i))).getD 6

/-- Hart slots of a core that no record holds. -/
def State.freeSlots (s : State) (p : Nat) : List Nat :=
  let taken := (s.recsOn p).flatMap (fun r => ((r.place? p).getD {}).slots)
  (List.range 8).filter (fun i => !taken.contains i)

/-- The resources of one core for a record: slots, the scratchpad given, and groups (R342 steps 1 to 3). -/
def State.takeCore (s : State) (r : Rec) (core g spbase : Nat) : State × Place :=
  let m := s.room core (fun _ => false)
  let rgi := if g = 0 then 6 else freeIndex (s.core core).lat
  let q : Place := { core := core, rgi := rgi, slots := (s.freeSlots core).take r.desc.h
                     spbase := spbase }
  (s.modCore core (·.grant rgi (m.groups.take g)), q)

/-- Claimed queues and FIFOs of a core are empty (R201, R206). -/
def Core.emptyClaims (c : Core) (qs ts : Nat) : Core :=
  { c with q := c.q.filter (fun x => !qs.testBit x.1), fifo := c.fifo.filter (fun x => !ts.testBit x.1) }

/-- SPBASE of a record on a core: the lowest free run that fits and that no head before it has reserved (R342 step 2, R344). -/
def State.spbaseFor (s : State) (r : Rec) (core : Nat) : Nat := if r.desc.spres = 0 then 0 else ((s.roomFor r core).run r.desc.spres).getD 0

/-- Placement of a record on cores with G groups each (R342, R343). Its harts begin once the reservation has been zeroed, at 2 KiB per cycle. -/
def State.place (s : State) (d i : Nat) (cores : List Nat) (g : Nat) : State :=
  let r0 := s.gang d i
  let step (q : State × List Place) (core : Nat) : State × List Place :=
    let (s1, pl) := q.1.takeCore r0 core g (s.spbaseFor r0 core)
    (((s1.modCore core (·.emptyClaims r0.desc.qclaim r0.desc.tclaim)).zeroRange (padKey core pl.spbase) (r0.desc.spres * 65536)), q.2 ++ [pl])
  let (s1, places) := cores.foldl step (s, [])
  let bar : Barrier := { narr := r0.desc.h * cores.length }
  let r : Rec := { r0 with st := 4, places := places, g := g, placedAt := s.cycle, colo := [], bars := (List.range 4).map (fun n => (n, bar))
                           save := {}, saved := [], keptPbc := [], keptK := [], markAt := [], agreed := [], unrestored := [], growStalled := false }
  let s2 := (s1.setGang d i r).modHub (fun x => { x with everPlaced := true })
  places.zipIdx.foldl (fun s (q, c) => q.slots.zipIdx.foldl (fun s (h, p) => s.setHart q.core h { newHart d i r q.core c p with minIssue := s1.cycle + 32 * r0.desc.spres }) s) s2

/-- GANG_PLACE (R341, R342): the record is placed when its turn has come. -/
def execGangPlace (s : State) : Out :=
  below s.arg.die 16 (match s.placeable s.arg.die s.arg.idx with
    | some (cores, g) => if (s.gang s.arg.die s.arg.idx).places.isEmpty then s.place s.arg.die s.arg.idx cores g else s
    | none => s)

/-! Reclaim (R345, R346). -/
/-- A gang's groups on a core that are not marked. -/
def Core.unmarked (c : Core) (rgi : Nat) : List Nat := (c.groups rgi).filter (fun g => !latPend c.lat g)
/-- How many groups a gang holds on each of its cores besides the marked ones: the same number on all (R318, R345). -/
def State.keeps (s : State) (r : Rec) : Nat := match r.places with | [] => 0 | q :: _ => ((s.core q.core).unmarked q.rgi).length

/-- Harts of a record on its cores. -/
def State.hartsOf (s : State) (r : Rec) : List (Nat × Nat × Hart) :=
  r.places.flatMap (fun q => q.slots.filterMap (fun h => (s.hart? q.core h).map (fun x => (q.core, h, x))))
def State.anyProt (s : State) (r : Rec) : Bool := (s.hartsOf r).any (fun q => q.2.2.ctrl.prot)

/-- A whole save is to begin; one that begins while a reclaim save is in progress continues from PROG (R396). -/
def SaveSt.toWhole (v : SaveSt) : SaveSt :=
  if v.active then { v with whole := true, first := v.core, prog := (v.sec, v.nm, v.nb), round := false, begun := false }
  else { v with active := true, whole := true, restore := false, done := false, core := 0, sec := 0, nm := 0, nb := 0, stalled := false, first := 0, prog := (0, 0, 0), round := false, begun := false }

/-- Suspends a RUNNING gang: its harts stop and it is to be saved whole (R346); no other state leads to SUSPENDING (R334). -/
def State.suspend (s : State) (d i : Nat) : State :=
  if (s.gang d i).st ≠ 5 then s else (s.stopGang d i).modGang d i (fun r => { r with st := 6, markAt := [], save := r.save.toWhole })

/-- Marks n more groups of a victim as reclaim pending on each of its cores, the highest that are not marked (R345); the time limit of a core runs from the first mark there (R346). -/
def State.markGroups (s : State) (d i n : Nat) : State :=
  let r := s.gang d i
  let s1 := r.places.foldl (fun s q => s.modCore q.core (fun c =>
    { c with lat := ((c.unmarked q.rgi).drop ((c.unmarked q.rgi).length - n)).foldl (fun l g => latSetPend l g true) c.lat })) s
  s1.modGang d i (fun r => { r with markAt := r.places.foldl (fun l q => if l.any (fun m => m.1 == q.core) then l else l ++ [(q.core, s.cycle)]) r.markAt })

/-- What a core will have once the releases and suspensions under way are done. -/
def State.coming (s : State) (p : Nat) : Room :=
  let m := s.room p (fun v => v.st == 6)
  { m with groups := (List.range 16).filter (fun g => m.groups.contains g || latPend (s.core p).lat g) }

/-- What a head still lacks on a core, counting what comes and is not for a blocked head before it (R344): slots or claims, and groups. -/
def State.lacks (s : State) (h : Rec) (p : Nat) : Bool × Nat :=
  let m := (s.coming p).lessAll p (s.blockedHeads.takeWhile (fun q => q.2.1.handle != h.handle))
  let n := h.need p
  (decide (m.slots < n.h) || m.q &&& n.q != 0 || m.t &&& n.t != 0 || (n.gmax != 0 && decide (6 ≤ m.owners)), n.gmin - m.groups.length)

/-- One victim of a blocked head (R345). -/
def State.reclaimFrom (s : State) (h : Rec) (cores : List Nat) (d i : Nat) : State :=
  let v := s.gang d i
  let on := cores.filter (fun p => (v.place? p).isSome)
  let l := on.map (s.lacks h)
  let groups := l.foldl (fun n q => max n q.2) 0
  let prot := s.anyProt v
  let spare := s.keeps v - v.desc.gmin
  let can := if prot then spare / 2 * 2 else spare
  if on.isEmpty ∨ v.st ≠ 5 ∨ (l.all (fun q => !q.1) ∧ groups = 0) then s
  else if l.any (·.1) ∨ can < groups then s.suspend d i
  else s.markGroups d i (if prot then (groups + 1) / 2 * 2 else groups)

/-- RECLAIM_MARK: the scheduler of a die seeks what its blocked head lacks (R345). -/
def State.reclaim (s : State) (d : Nat) : State :=
  match (if s.dead d then none else s.blockedHead d) with
  | none => s
  | some (h, cores) =>
    let e := h.effPrio s.cycle
    let vs := s.dies.flatMap (fun x => (x.2.recs.filter (fun q => q.2.st == 5 && decide (q.2.desc.prio < e) && cores.any (fun p => (q.2.place? p).isSome))).map
      (fun q => (x.1, q.1, q.2)))
    let order := sortBy (fun (a b : Nat × Nat × Rec) => decide (a.2.2.desc.prio < b.2.2.desc.prio)
      || (a.2.2.desc.prio == b.2.2.desc.prio && decide (b.2.2.placedAt < a.2.2.placedAt))) vs
    order.foldl (fun s v => s.reclaimFrom h cores v.1 v.2.1) s

def execReclaimMark (s : State) : Out := below s.arg.die 16 (s.reclaim s.arg.die)

/-- RECLAIM_TIMEOUT: marks that stood 8,192 cycles suspend their gang (R346). -/
def execReclaimTimeout (s : State) : Out :=
  below s.arg.die 16 (
    let r := s.gang s.arg.die s.arg.idx
    if !s.dead s.arg.die ∧ r.st = 5 ∧ r.markAt.any (fun m => decide (m.2 + 8192 ≤ s.cycle)) then s.suspend s.arg.die s.arg.idx else s)

/-! The boot hart (R101). -/
/-- The descriptor that a boot hart's record has: the entry of DIE.BOOT, core 0 of the die, one solo hart, no lane groups, priority 7 (R101). -/
def bootDesc (d entry : Nat) : Desc := Desc.parse (padTo 128 (padTo 64 (leBytes 10 (entry * 4)) ++ leBytes 4 (2 ^ (2 * d)) ++ [1, 0, 0, 0, 1, 0, 0, 7]))
/-- The record of DIE.BOOT and its placement on core 0 of the die. Where that core does not admit it, a self-test running there stops for it (R324), and it is placed by
GANG_PLACE as soon as it is admitted. -/
def State.placeBoot (s : State) (d entry : Nat) : State :=
  let gen := (s.gang d 0).gen
  let desc := bootDesc d entry
  let r : Rec := { st := 3, gen := gen, handle := handleOf gen false d 0, desc := desc, readyAt := s.cycle, byFw := true }
  let s1 := s.setGang d 0 r
  if (s1.room (2 * d) (fun _ => false)).admits (r.need (2 * d)) then s1.place d 0 [2 * d] 0 else s1

/-- A write of DIE.BOOT (R101): GO starts a boot hart while every resident slot of the die is FREE, and is otherwise ignored; a boot that has halted starts none (R427). -/
def State.writeBoot (s : State) (d : Nat) (w : Word) : State :=
  let keep := (s.die d).boot &&& 1#64
  let s1 := s.modDie d (fun x => { x with boot := (w &&& 0xFFFFFFFFFFFFFC#64) ||| keep })
  if w.getLsbD 0 ∧ s.hub.bootStage = 0 ∧ (s.die d).recs.all (fun q => q.2.st == 0) then
    (s1.modDie d (fun x => { x with boot := x.boot ||| 1#64 })).placeBoot d (fldN w 55 2)
  else s1
def execDieBootGo (s : State) : Out := below s.arg.die 16 (s.writeBoot s.arg.die s.arg.w)

/-- SCHED.CTL (R337): lifting FREEZE evaluates the conditions that writes have met meanwhile. -/
def State.writeSched (s : State) (d : Nat) (w : Word) : State :=
  let s1 := s.modDie d (fun x => { x with hold := w.getLsbD 1, freeze := w.getLsbD 0 })
  if w.getLsbD 0 then s1
  else ((s.die d).recs.foldl (fun t q => if q.2.st = 2 then t.seeNote d q.2 else t) s1).modDie d (fun x => { x with recs := x.recs.map (fun q => (q.1, s1.evaluate d q.2)) })
def execSchedCtlWrite (s : State) : Out := below s.arg.die 16 (s.writeSched s.arg.die s.arg.w)

/-! Post-effect traps. -/
/-- Place of a post-effect cause in the order of R380. -/
def owedOrder (t : TrapReq) : Nat :=
  match t.cause with | 0x20 => 0 | 0x24 => 1 | 0x25 => 2 | 0x26 => 3 | _ => 4

/-- The trap that a packet reports: the first present; the slots of the others are named in REISSUE, and a tile fault among them sets TILEP. -/
def pickOwed (l : List TrapReq) : Option TrapReq :=
  match sortBy (fun (a b : TrapReq) => decide (owedOrder a < owedOrder b)) l with
  | [] => none
  | t :: r =>
    let re := r.foldl (fun n x => if x.cause = 0x28 then n ||| 1 else n ||| x.reissue) t.reissue
    some { t with reissue := re, ret := if re = 0 then 2 else 1, tilep := r.any (fun x => x.cause == 0x26) }

/-- TRINFO of the tile fault that a hart still has to raise. -/
def tileOf (l : List TrapReq) : Nat := ((l.find? (fun x => x.cause == 0x26)).map (fun x => x.info)).getD 0

/-- The gang runs once a packet of it has issued; the boot hart clears GO (R101, R349). A CANCEL that waited ends it (R368). -/
def State.gangRuns (s : State) (h : Hart) : State :=
  let r := s.gang h.die h.idx
  if r.st ≠ 4 then s
  else
    let s1 := s.modGang h.die h.idx (fun r => { r with st := 5 })
    let s2 := if h.idx = 0 ∧ (s1.die h.die).boot.getLsbD 0 then s1.modDie h.die (fun x => { x with boot := x.boot &&& ~~~1#64 }) else s1
    if r.cancelWait then s2.endGang h.die h.idx 2 else s2

/-! The end of a record (R349, R339). -/
/-- Nothing of the hart is under way on its core: no slot in flight, no vector access, no pending slot, no token place. -/
def State.quiet (s : State) (p i : Nat) (h : Hart) : Bool :=
  (s.core p).flight.all (fun f => f.slot != i) && h.accs.isEmpty && h.tokens.isEmpty && h.owed.isEmpty && !h.remoteReq && !h.protBusy

/-! Gang barriers (R359, R360). -/
/-- `complete()` of R360. -/
def Barrier.complete : Nat → Barrier → Barrier
  | 0, b => b
  | n + 1, b =>
    if 0 < b.narr + b.nbytes ∧ b.narr ≤ b.arr ∧ b.nbytes ≤ b.cred then
      let c := { b with phase := (b.phase + 1) % 2 ^ 32, arr := b.arr - b.narr, cred := b.cred - b.nbytes }
      (if c.nextv then { c with narr := c.next.1, nbytes := c.next.2, nextv := false } else c).complete n
    else b
/-- Every completion takes at least one arrival or byte. -/
def Barrier.settle (b : Barrier) : Barrier := b.complete (b.arr + b.cred + 1)
/-- The barrier in a cycle: what reached it in earlier cycles has completed what it can; what reaches it in this one is all counted first (R360). -/
def Barrier.sync (b : Barrier) (cycle : Nat) : Barrier := if b.at_ < cycle then { b.settle with at_ := cycle } else b
/-- `arrive` of R360, with the phase count at which the arrival is complete. ARR is 8 bits wide (R359). -/
def Barrier.arrive (b : Barrier) (cycle : Nat) : Nat × Barrier :=
  let b := b.sync cycle
  ((b.phase + 1 + (if b.narr = 0 then 0 else b.arr / b.narr)) % 2 ^ 32, { b with arr := (b.arr + 1) % 2 ^ 8 })
/-- `credit` of R360. CRED is 56 bits wide (R359). -/
def Barrier.credit (b : Barrier) (cycle c : Nat) : Barrier :=
  let b := b.sync cycle
  if 0 < b.nbytes then { b with cred := (b.cred + c) % 2 ^ 56 } else b
/-- A hart has gone (R363). -/
def Barrier.leave (b : Barrier) (cycle : Nat) : Barrier :=
  let b := b.sync cycle
  { b with narr := b.narr - 1, next := if b.nextv then (b.next.1 - 1, b.next.2) else b.next }

/-- A request of a hart (core times 8 plus slot) reaches a die (R355). Its travel time is open, so one that would come out of the order of its cycle arrives in a later
cycle, and so does one whose route has changed under earlier requests (R413): requests of one cycle are served by ascending hart number, a clear of a semaphore bit (kind 2) before a request for it (kind 1). -/
def State.turn (s : State) (d who kind bit : Nat) : Option State :=
  let x := s.die d
  let l := if x.reqAt = s.cycle then x.reqs else []
  let ok (q : Nat × Nat × Nat) : Bool :=
    if q.2.1 = 2 ∧ kind = 1 ∧ q.2.2 = bit then true
    else if q.2.1 = 1 ∧ kind = 2 ∧ q.2.2 = bit then false
    else decide (q.1 ≤ who)
  if s.heldDie (who / 16) d then none
  else if l.all ok then some (s.setDie d { x with reqAt := s.cycle, reqs := l ++ [(who, kind, bit)] }) else none

/-- The wait of a BARWAIT is over (R361): the count of completed phases has reached the hart's last arrival. -/
def barDone (phase wt : Nat) : Bool := decide ((phase + 2 ^ 32 - wt % 2 ^ 32) % 2 ^ 32 < 2 ^ 31)
/-- The word that an NWAIT or NPOST selects (R369). -/
def State.ntfSel (s : State) (p : Nat) (sel : Word) : Option Nat := s.ntfKey (p / 2) (fldN sel 3 0) (fldN sel 13 4)

/-- A pending slot that a stop may abandon: FENCE and BARARR, SEMTS, BARWAIT, NWAIT and YIELD that still wait (R192, R354), and a GEXIT that waits for an instruction stalled
under 0x29, which no stop waits for (R387). -/
def State.abandons (s : State) (p i : Nat) (h : Hart) : Bool :=
  let w := h.pend
  let op := fldN w 63 56
  let s1 := h.og (fldN w 50 46)
  if op = 0x30 ∨ op = 0x31 then true
  else if op = 0x7A then decide (s.cycle < h.yieldUntil)
  else if op = 0x70 then !(s.die (fldN s1 11 8)).semq.any (fun q => q.granted && q.core == p && q.slot == i)
  else if op = 0x74 then !barDone ((tget {} (s.gang h.die h.idx).bars (fldN w 6 5)).sync s.cycle).phase (tget 0 h.wt (fldN w 6 5))
  else if op = 0x78 then
    match s.ntfSel p s1 with
    | none => false
    | some k => !s.badKey k && !reached (s.readN k 8) (h.og (fldN w 45 41)).toNat
  else if op = 0x7B then !h.stall29.isEmpty
  else false

/-- A hart that stopped has been saved, or is not yet restored: nothing of it runs (R354, R389). -/
def State.asleep (s : State) (h : Hart) : Bool := h.stopped && ((s.gang h.die h.idx).save.begun || (s.gang h.die h.idx).save.restore)

/-- No waiting slot of the hart holds a stop back, one of the program's that waits while the hart is in handler state among them. -/
def State.idlePend (s : State) (p i : Nat) (h : Hart) : Bool :=
  (h.pend == 0 || s.abandons p i h) && (h.pendAside == 0 || s.abandons p i h.flip)

/-- Every hart of a gang has stopped at a packet boundary (R389); a slot that must complete still stands in `pend` until it has. -/
def State.gangQuiet (s : State) (r : Rec) : Bool := (s.hartsOf r).all (fun q => s.quiet q.1 q.2.1 q.2.2 && s.idlePend q.1 q.2.1 q.2.2)

/-- The requests for semaphore bits that a gang's harts abandon (R354). -/
def State.dropSem (s : State) (r : Rec) : State :=
  s.dies.foldl (fun s x => s.modDie x.1 (fun y => { y with semq := y.semq.filter (fun w => w.handle != r.handle) })) s

/-- Writes the end word in the gang's context; a fault is only a service event (R349). -/
def State.endWord (s : State) (d : Nat) (r : Rec) (status : Nat) : State :=
  if r.desc.endva = 0 then s
  else match s.xlateSpan (agent d r.ctx) r.desc.endva 8 .store false with
    | (s, .ok l) => s.commit ((l.zip (leBytes 8 (2 ^ 63 + r.desc.tag * 2 ^ 8 + status))).filterMap (fun (o, b) =>
        match o.loc with | .mem k => some (k, b) | _ => none)) false
    | (s, .error x) => s.event (srcService d) x.2.cause r.handle

/-- The translation of an end word waits (R127): the copy-on-write that it needs, or a block that it would leave, is in use. -/
def State.endWaits (s : State) (d : Nat) (r : Rec) : Bool :=
  r.desc.endva != 0 && (match (s.xlateSpan (agent d r.ctx) r.desc.endva 8 .store false).2 with | .error x => x.2.wait | .ok _ => false)

/-- Releases what a placed record holds on one core: harts, claims and groups (R206, R207, R349). -/
def State.releaseCore (s : State) (r : Rec) (q : Place) : State :=
  if q.slots.isEmpty then s
  else s.modCore q.core (fun c =>
    let gs := c.groups q.rgi
    let c1 := gs.foldl (fun c g => { c.clearGroup g with lat := latSetPend (latSet c.lat g 7) g false, freeAt := tset c.freeAt g s.cycle }) (c.emptyClaims r.desc.qclaim r.desc.tclaim)
    { c1 with harts := q.slots.foldl (fun t h => tset t h none) c1.harts, front := c1.front.filter (fun x => !q.slots.contains x.1) })

/-- Generation numbers wrap (R333). -/
def nextGen (g : Nat) : Nat := (g + 1) % 2 ^ 32

/-- The bytes that a ring slot holds now; what was accepted, where they cannot be read. -/
def State.ringBytes (s : State) (d j : Nat) (r : Rec) : State × List Byte :=
  match s.xlateSpan (agent d 0) ((s.die d).ovrBase + BitVec.ofNat 80 (256 * j)) 128 .load false with
  | (_, .ok l) => (s.verify (granules (l.filterMap (fun o => match o.loc with | .mem k => some k | _ => none))), l.map (fun o => match o.loc with | .mem k => s.byte k | _ => 0))
  | (_, .error _) => (s, r.desc.raw)

/-- Of records spilled, in the order of their spilling, the first whose slot still holds what was accepted or a descriptor that R332 accepts from its launcher moves into a free
resident slot; one that does not ends with status CANCELLED, at GANG_END where its end word has to wait (R338, R339). -/
def State.refillFrom (s : State) (d i : Nat) : List (Nat × Rec) → State
  | [] => s
  | (j, r) :: rest =>
    let (s, b) := s.ringBytes d j r
    if b = r.desc.raw ∨ s.descAccepted b r.byFw then
      let d1 := if b = r.desc.raw then r.desc else Desc.parse b
      let s1 := (s.setRing d j { r with st := 2 }).seeNote d { r with desc := d1 }
      s1.setGang d i (s1.evaluate d { r with st := 2, gen := (s.gang d i).gen, ringIdx := some j, desc := d1, ctx := if r.byFw then d1.ctx else r.ctx })
    else if s.endWaits d r then (s.setRing d j { r with st := 2 }).setGang d i { r with st := 7, gen := (s.gang d i).gen, ringIdx := some j, endStatus := some 1 }
    else ((s.endWord d r 1).setRing d j { gen := nextGen r.gen }).refillFrom d i rest

/-- The record spilled longest ago moves into a free resident slot (R339). -/
def State.refill (s : State) (d i : Nat) : State :=
  s.refillFrom d i (sortBy (fun (a b : Nat × Rec) => decide (a.2.order < b.2.order)) ((s.die d).ring.filter (fun q => q.2.st == 1)))

/-- Frees a record's slot, and its ring slot (R349 step 5). -/
def State.freeRec (s : State) (d i : Nat) : State :=
  let r := s.gang d i
  let s1 := match r.ringIdx with
    | some j => s.setRing d j { gen := nextGen (s.ringRec d j).gen }
    | none => s
  (s1.setGang d i { gen := nextGen r.gen }).refill d i

/-- Bytes of the gang's harts that are not yet visible at package scope, also those counted for a saved gang (R145, R349). -/
def State.bytesLeft (s : State) (r : Rec) : Bool :=
  (!r.save.restore && (s.hartsOf r).any (fun q => !q.2.2.drained 3)) || r.keptPbc.any (fun q => tget 0 q.2 3 != 0)

/-- GANG_END: an ENDING gang whose harts have stopped gives up its resources, writes its end word and is freed (R349). A slot that became FREE in the cycle of a LAUNCH would have
been used by it, so none becomes FREE in the cycle of one that found none (R364). -/
def execGangEnd (s : State) : Out :=
  below s.arg.die 16 (
    let d := s.arg.die
    let i := s.arg.idx
    let r := s.gang d i
    if r.st ≠ 7 ∨ s.dead d ∨ !s.gangQuiet r ∨ s.bytesLeft r ∨ s.endWaits d r ∨ (s.die d).fullAt = some s.cycle then s
    else ((r.places.foldl (fun s q => s.releaseCore r q) (s.dropSem r)).endWord d r (r.endStatus.getD 0)).freeRec d i)

end Sys2Proof.Machine
end

