-- ==== Sys2Proof/Machine/Save.lean ====
section
/-! DEFINITION. Context save and restore (R389 to R397, R205, R217, R388), release of reclaimed groups (R317), resume (R346), and the
lengths that SETVL and SETMVL grant (R316 to R319). -/
namespace Sys2Proof.Machine
open Sys2Proof

/-! Images of the save area (R391 to R394). -/
def le8 (w : Word) : List Byte := leBytes 8 w.toNat
def le16 (a : VAddr) : List Byte := leBytes 10 a.toNat ++ List.replicate 6 0
def maskBytes (m : Mask) : List Byte := leBytes 32 m.toNat

/-- The hart with the program's names for its registers and its held slots in place. -/
def Hart.program (h : Hart) : Hart := if h.handler then { h.swapBank with held := h.heldAside } else h

/-- A hart record (R393); the 256 bytes of internal trap state are not laid down. -/
def Hart.image (h : Hart) (internal : List Byte) : List Byte :=
  let q := h.program
  (List.range 32).flatMap (fun n => le8 (readG q.regs n)) ++ (List.range 16).flatMap (fun n => le16 (readA q.regs n)) ++ le16 q.pc
    ++ le8 (hstatWord q.ctrl false) ++ leBytes 8 q.ctrl.vl ++ leBytes 8 q.ctrl.mvl ++ le8 q.ctrl.mfc ++ le8 q.ctrl.dsel
    ++ (List.range 16).map (fun f => tget 0 q.ctrl.tol f) ++ (List.range 6).flatMap (fun n => leBytes 8 (tget 0 q.pbc n))
    ++ (List.range 4).flatMap (fun n => leBytes 4 (tget 0 q.wt n)) ++ (List.range 4).flatMap (fun n => le8 (tget 0 q.held n))
    ++ le8 q.trap.cause ++ le16 q.trap.pc ++ le16 q.trap.va ++ le8 q.trap.info ++ (List.range 16).flatMap (fun n => leBytes 2 (tget 0 q.trap.lg n).toNat)
    ++ leBytes 8 (bit h.handler 0 + bit (h.pend != 0 || h.pendAside != 0) 1 + bit h.was29 2) ++ padTo 256 internal

/-- A Carrel record (R393). -/
def Carrel.image (c : Carrel) : List Byte :=
  let st := match c.st with | .idle => 0 | .recording => 1 | .loaded => 2 | .replaying => 3
  let pk (q : VAddr × Packet) : List Byte :=
    padTo 36 (leBytes 4 q.2.hdr.toNat ++ (Cls.all.filter (hPres q.2.hdr)).flatMap (fun c => le8 (match c with | .S => q.2.s | .L => q.2.l | .V => q.2.v | .M => q.2.m)))
  padTo 5120 (padTo 64 ([BitVec.ofNat 8 st, BitVec.ofNat 8 c.len, BitVec.ofNat 8 c.idx, BitVec.ofNat 8 c.pos]
    ++ leBytes 4 c.trip ++ leBytes 4 c.count ++ leBytes 4 c.first ++ le16 c.cont) ++ c.body.flatMap (fun q => pk q.2))

/-- A queue block (R394). -/
def Queue.image (q : Queue) : List Byte :=
  padTo 64 (leBytes 4 q.ents.length) ++ q.ents.flatMap (fun e =>
    padTo 32 ([if e.st = .opened then 1#8 else 2#8, BitVec.ofNat 8 e.fmt.code] ++ leBytes 2 e.cnt) ++ maskBytes e.pois
      ++ (List.range 256).flatMap (fun j => leBytes 4 (tget 0 e.cells j).toNat))

/-- Band b of gang group m (R394). -/
def Core.bandImage (c : Core) (gs : List Nat) (m b : Nat) : List Byte :=
  (List.range 16).flatMap (fun r => (List.range 16).flatMap (fun x => leBytes 4 (c.cell gs (16 * b + r) (16 * m + x)).toNat))

/-- Poison bits of a row in a gang group. -/
def Core.poisImage (c : Core) (gs : List Nat) (m row : Nat) : Nat := maskOf 16 (fun x => c.poison gs row (16 * m + x))

/-- Fault records of a core that name hart slots, oldest first (R388). -/
def Core.recsOf (c : Core) (slots : List Nat) : List (BitVec 256) := c.frq.filter (fun r => slots.contains (fldN r 122 120))

/-! Reading and writing the area: context 0, P permitted, ATTR normal (R390). -/
def areaWho (d : Nat) : Who := agent d 0
def State.sliceVa (s : State) (d i c : Nat) : VAddr := BitVec.ofNat 80 ((s.die d).savebase.toNat * 65536 + i * 2 ^ 23 + c * 2 ^ 20)

/-- Cuts a list into pieces of n. -/
def chunksOf {α : Type} (n : Nat) : Nat → List α → List (List α)
  | 0, _ => []
  | k + 1, l => if l.isEmpty then [] else l.take n :: chunksOf n k (l.drop n)

def memBytes (l : List XOk) (bs : List Byte) : List (Nat × Byte) :=
  (l.zip bs).filterMap (fun (o, b) => match o.loc with | .mem k => some (k, b) | _ => none)

/-- A byte of another package's memory that no link leads to: the remote fault of an access to the area (R153, R397). -/
def State.noWay (s : State) (va : VAddr) (l : List XOk) : Option (VAddr × XFault) :=
  (l.zipIdx.find? (fun q => match q.1.loc with | .remote pa => !s.hasRoute pa | _ => false)).map (fun q => (va + BitVec.ofNat 80 q.2, { cause := 0x19, level := q.1.level }))

/-- Writes bytes at offsets of a slice; the first fault ends it with its offset from the save region. Bytes in another package leave for it (log 36). -/
def State.areaPut (s : State) (d : Nat) (va : VAddr) : List (Nat × List Byte) → State × Option (VAddr × XFault)
  | [] => (s, none)
  | (o, bs) :: r =>
    match s.xlateSpan (areaWho d) (va + BitVec.ofNat 80 o) bs.length .store false with
    | (s, .error x) => (s, some x)
    | (s, .ok l) =>
      match s.noWay (va + BitVec.ofNat 80 o) l with
      | some x => (s, some x)
      | none => (s.commit (memBytes l bs) false).areaPut d va r

/-- Writes split into pieces of at most 1 KiB. -/
def small (l : List (Nat × List Byte)) : List (Nat × List Byte) :=
  l.flatMap (fun q => (chunksOf 1024 (q.2.length / 1024 + 1) q.2).zipIdx.map (fun (b, i) => (q.1 + 1024 * i, b)))

/-- Reads n bytes (at most 4 KiB) at an offset of a slice, each with whether its granule is bad. Bytes of another package are free (log 36). -/
def State.areaGet (s : State) (d : Nat) (va : VAddr) (o n : Nat) : State × Except (VAddr × XFault) (List (Byte × Bool)) :=
  match s.xlateSpan (areaWho d) (va + BitVec.ofNat 80 o) n .load false with
  | (s, .error x) => (s, .error x)
  | (s, .ok l) =>
    match s.noWay (va + BitVec.ofNat 80 o) l with
    | some x => (s, .error x)
    | none =>
      let s1 := s.verify (granules (l.filterMap (fun q => match q.loc with | .mem k => some k | _ => none)))
      (if l.any (fun q => match q.loc with | .remote _ => true | _ => false) then s1.drawn else s1,
        .ok (l.map (fun q => match q.loc with | .mem k => (s1.byte k, s1.badKey k) | .remote pa => (Config.remoteByte s.draw pa, s.freeVal.getLsbD (pa / 64 % 256)) | _ => (0, false))))

/-- SAVE.STAT of a fault (R381). -/
def State.saveFault (s : State) (d i : Nat) (x : VAddr × XFault) : Word :=
  let off := (x.1.toNat - (s.die d).savebase.toNat * 65536) % 2 ^ 33
  BitVec.ofNat 64 (1 + x.2.cause * 2 ^ 8 + i * 2 ^ 16 + off * 2 ^ 30)

/-- A fault of a save or restore stops it and is recorded in SAVE.STAT (R381, R397); an access that only waits is made again. -/
def State.areaFault (s : State) (d i : Nat) (x : VAddr × XFault) : State :=
  if x.2.wait then s
  else (s.modDie d (fun y => { y with savestat := s.saveFault d i x })).modGang d i (fun r => { r with save := { r.save with stalled := true } })

/-! Saving (R395, R396). -/
/-- PROG of R392. -/
def progWord (v : SaveSt) : Nat := 1 + bit v.whole 1 + bit v.done 2 + v.sec * 2 ^ 8 + v.nb * 2 ^ 12 + v.nm * 2 ^ 16

def validOf (v : SaveSt) (c : Nat) : BitVec 256 := tget 0 v.valid c

/-- The band tags of a gang group, as TAGS of a slice header (R392); those of a group whose release is agreed are its own (R217). -/
def Core.tagsWord (c : Core) (gs : List Nat) (m : Nat) : Nat := (List.range 16).foldl (fun n b => n + (c.tag (gs.drop m) (16 * b)).code * 2 ^ (4 * b)) 0

/-- The header of a slice (R392). -/
def State.header (s : State) (r : Rec) (v : SaveSt) (c : Nat) (q : Place) : List Byte :=
  let k := s.core q.core
  let gs := k.groups q.rgi
  let tags := k.tagsWord gs (if v.whole then 0 else v.groups.headD 0)
  let tok := (List.range 4).map (fun n => BitVec.ofNat 8 (if r.desc.tclaim.testBit n then (s.fifo q.core n).t else 0))
  padTo 4096 (leBytes 8 (progWord v) ++ leBytes 8 r.handle ++ leBytes 32 (validOf v c).toNat ++ leBytes 8 tags
    ++ [BitVec.ofNat 8 gs.length, BitVec.ofNat 8 q.slots.length, BitVec.ofNat 8 q.core, BitVec.ofNat 8 (tget {} r.saved c).recs.length] ++ tok)

/-- A band is dirty in a gang group when one of its rows is (R395). -/
def Core.bandDirty (c : Core) (gs : List Nat) (m b : Nat) : Bool := decide (m < gs.length) && (List.range 16).any (fun r => tget false c.dirty ((16 * b + r) * 16 + gs.getD m 0))

/-- Harts of a place by position. -/
def State.placeHarts (s : State) (q : Place) : List (Nat × Hart) := q.slots.zipIdx.filterMap (fun (h, p) => (s.hart? q.core h).map (fun x => (p, x)))

/-- What the unit at PROG writes (R391, R395); a reclaim save keeps TAGS of the header up to date, and a gang that holds no group leaves them as they are (R217). A Colophon record is 32 bytes that only the device interprets (R394): free bytes, which the device knows again. The columns of a group
that is granted again and not yet restored stand in the slice already. -/
def State.unitWrites (s : State) (r : Rec) (v : SaveSt) (c : Nat) (q : Place) : List (Nat × List Byte) :=
  let k := s.core q.core
  let gs := k.groups q.rgi
  let hs := s.placeHarts q
  let internal : List Byte := leBytes 32 s.freeVal.toNat
  match v.sec with
  | 0 =>
    let b := s.header r v c q
    if gs.isEmpty ∧ v.headed.contains c then [(0, b.take 48), (56, b.drop 56)] else [(0, b)]
  | 1 => hs.map (fun (p, h) => (0x1000 + 0x400 * p, h.image internal))
  | 2 => hs.map (fun (p, h) => (0x3000 + 0x100 * p, padTo 256 ((List.range 7).flatMap (fun n => maskBytes (readK h.regs (n + 1))))))
  | 3 => hs.map (fun (p, h) => (0x3800 + 0x200 * p, (List.range 512).map (fun e => tget 0x7F h.vsc e)))
  | 4 => hs.map (fun (p, h) => (0x4800 + 0x1400 * p, h.carrel.image))
  | 5 => (bitsOf 10 r.desc.qclaim).map (fun n => (0x10000 + 0x4800 * n, (s.queue q.core n).image))
  | 6 =>
    (if v.whole then [] else [(48, leBytes 8 (k.tagsWord gs v.nm))]) ++
    if k.bandDirty gs v.nm v.nb then
      (0x40000 + 0x400 * (16 * v.nm + v.nb), k.bandImage gs v.nm v.nb)
        :: (List.range 16).map (fun x => (0xA4000 + 32 * (16 * v.nb + x) + 2 * v.nm, leBytes 2 (k.poisImage gs v.nm (16 * v.nb + x))))
    else []
  | 7 =>
    let co : Colo := tget {} r.colo q.core
    (if v.whole ∧ v.nm = 0 then [(0x80000, padTo 16 (leBytes 4 co.u ++ leBytes 2 co.fmts) ++ maskBytes co.nfRow ++ maskBytes co.nfCol
        ++ maskBytes co.locR ++ maskBytes co.locC ++ maskBytes co.locUR ++ maskBytes co.locUC)] else [])
      ++ (if v.nm < gs.length ∧ ¬ r.unrestored.contains (c, v.nm) then (0x80100 + 512 * v.nm, (List.range 16).flatMap (fun _ => internal))
            :: (List.range 256).map (fun i => (0x82100 + 32 * (16 * i + v.nm), internal)) else [])
  | 9 => [(0xA6000, (tget {} r.saved c).recs.flatMap (fun x => leBytes 32 x.toNat))]
  | _ => []

/-- Gang groups that a save covers on a core. -/
def SaveSt.cover (v : SaveSt) (g : Nat) : List Nat := if v.whole then List.range g else v.groups

/-- The unit after one in a slice, none after the last (R396): bands within groups within sections. A reclaim save covers sections 6 and 7, after the header where the slice has
none since placement (R395). -/
def SaveSt.after (v : SaveSt) (g : Nat) : Option SaveSt :=
  let l := v.cover g
  let later := l.find? (fun m => decide (v.nm < m))
  let low := l.headD 0
  match v.sec with
  | 0 => some { v with sec := if v.whole then 1 else 6, nm := if v.whole then 0 else low, nb := 0, headed := insSorted v.headed v.core }
  | 6 =>
    if l.isEmpty then some { v with sec := 7, nm := 0, nb := 0 }
    else if v.nb < 15 then some { v with nb := v.nb + 1 }
    else match later with | some m => some { v with nm := m, nb := 0 } | none => some { v with sec := 7, nm := low, nb := 0 }
  | 7 => match later with | some m => some { v with nm := m } | none => if v.whole then some { v with sec := 9, nm := 0 } else none
  | 9 => none
  | n => some { v with sec := n + 1, nm := if n = 5 then low else 0, nb := 0 }

/-- The units before the one at which a whole save went on after a reclaim save (R396). -/
def SaveSt.before (v : SaveSt) : Bool :=
  let (a, b, c) := v.prog
  decide (v.sec < a ∨ (v.sec = a ∧ (v.nm < b ∨ (v.nm = b ∧ v.nb < c))))

/-- A slice is complete: the next core's, or the end. -/
def SaveSt.slice (v : SaveSt) (ncores : Nat) : SaveSt :=
  let c := if v.core + 1 < ncores then v.core + 1 else 0
  if !v.whole ∨ c = v.first then { v with done := true, core := ncores } else { v with core := c, sec := 0, nm := 0, nb := 0 }

/-- The place of the next unit (R396). -/
def SaveSt.next (v : SaveSt) (g ncores : Nat) : SaveSt :=
  match v.after g with
  | some x => if v.round ∧ v.core = v.first ∧ !x.before then x.slice ncores else x
  | none => if v.whole ∧ v.core = v.first ∧ !v.round ∧ v.prog ≠ (0, 0, 0) then { v with round := true, sec := 0, nm := 0, nb := 0 } else v.slice ncores

/-- What the device itself keeps of a unit: the Colophon values of a gang group, in exact form, and what it wrote for them. -/
def State.keepColo (s : State) (r : Rec) (c m : Nat) (q : Place) : Rec :=
  let k := s.core q.core
  let gs := k.groups q.rgi
  let o : Saved := tget {} r.saved c
  let rows := (List.range 16).map (fun x => (16 * m + x, k.chkRowAt gs (16 * m + x)))
  let cols := (List.range 256).map (fun i => (16 * i + m, tget (0, 0) k.chkcol (i * 17 + k.phys (gs.getD m 0))))
  { r with saved := tset r.saved c { o with chkrow := tsetMany o.chkrow rows, chkcol := tsetMany o.chkcol cols, imgs := tset o.imgs m s.freeVal } }

/-- A gang of which a group is marked on some core. -/
def State.anyMarked (s : State) (r : Rec) : Bool := r.places.any (fun q => ((s.core q.core).groups q.rgi).any (latPend (s.core q.core).lat))

/-- The record once the release of groups on one core is done (R317); a gang that keeps none there has no resident gang index on it (R208). -/
def Rec.released (r : Rec) (core g : Nat) (gone : List Nat) (none_ : Bool) : Rec :=
  { r with agreed := tset r.agreed core ((tget [] r.agreed core).filter (fun x => !gone.contains x)), save := { r.save with active := false }, g := g
           places := r.places.map (fun q => if q.core = core ∧ none_ then { q with rgi := 6 } else q) }

/-- Frees the groups of a core that a reclaim save has saved (R217, R317); their RP bits stay until the groups are entered under their new owner. -/
def State.passGroups (s : State) (d i : Nat) (q : Place) : State :=
  let r := s.gang d i
  let gone := r.save.groups.filterMap (fun m => ((s.core q.core).groups q.rgi)[m]?)
  let s1 := s.modCore q.core (fun c => gone.foldl (fun c g => { c.clearGroup g with lat := latSet c.lat g 7, freeAt := tset c.freeAt g s.cycle }) c)
  s1.modGang d i (·.released q.core (if s1.anyMarked r then r.g else s1.keeps r) gone ((s1.core q.core).groups q.rgi).isEmpty)

/-- Forms of the loads that left the entries of a gang's queues, and the elements that hold the poison value in them, by queue and position. -/
def State.openForms (s : State) (q : Place) (r : Rec) : Tbl (Nat × List Nat) :=
  (bitsOf 10 r.desc.qclaim).flatMap (fun n => (s.queue q.core n).ents.zipIdx.map (fun (e, i) => (16 * n + i, e.form, e.poisEls)))

/-- A whole save is complete: harts, claims and groups are given up, the scratchpad stays, and the record is READY anew (R346). -/
def State.saveDone (s : State) (d i : Nat) : State :=
  let r := s.gang d i
  let keep (r : Rec) (c : Nat) (q : Place) : Rec :=
    let o : Saved := tget {} r.saved c
    { r with saved := tset r.saved c { o with harts := (s.placeHarts q), forms := s.openForms q r, groups := ((s.core q.core).groups q.rgi).length }
             keptPbc := tsetMany r.keptPbc ((s.placeHarts q).map (fun h => (h.2.pos, h.2.pbc))) }
  let r1 := r.places.zipIdx.foldl (fun r (q, c) => keep r c q) r
  let s1 := r.places.foldl (fun s q => s.releaseCore r q) s
  s1.setGang d i { r1 with
    places := r.places.map (fun q => { q with slots := [], rgi := 6 }), markAt := [], agreed := [], unrestored := [], growStalled := false
    readyAt := s.cycle
    save := { r.save with active := false, done := true }
    st := if r.cancelWait then 7 else 3, endStatus := if r.cancelWait then some 2 else r.endStatus }

/-- One unit of a save. -/
def State.saveStep (s : State) (d i : Nat) : State :=
  let r := s.gang d i
  let v := r.save
  match r.places[v.core]? with
  | none => s
  | some q =>
    let gs := (s.core q.core).groups q.rgi
    let dirty := v.sec == 6 && (s.core q.core).bandDirty gs v.nm v.nb
    let v1 := if dirty then { v with valid := tset v.valid v.core (validOf v v.core ||| BitVec.ofNat 256 (2 ^ (16 * v.nm + v.nb))) } else v
    let vmap := if dirty then [(16, leBytes 32 (validOf v1 v.core).toNat)] else []
    let v2 := v1.next gs.length r.places.length
    let va := s.sliceVa d i v.core
    match s.areaPut d va (small (s.unitWrites r v v.core q) ++ vmap ++ [(0, leBytes 8 (progWord { v2 with done := v2.done || v2.core != v.core }))]) with
    | (s, some x) => s.areaFault d i x
    | (s, none) =>
      let r1 := if v.sec = 7 ∧ v.nm < gs.length ∧ ¬ r.unrestored.contains (v.core, v.nm) then s.keepColo r v.core v.nm q else r
      let s1 := s.drawn
      let s2 := s1.setGang d i { r1 with save := v2 }
      let s3 := if dirty then s2.modCore q.core (fun c => { c with dirty := (List.range 16).foldl (fun t x => tset t ((16 * v.nb + x) * 16 + gs.getD v.nm 0) false) c.dirty }) else s2
      if v2.done then (if v.whole then s3.saveDone d i else s3.passGroups d i q) else s3

/-! Restoring (R397). -/
def mk80 (b : List Byte) (o : Nat) : VAddr := BitVec.ofNat 80 (uN b o 10)
def mk64 (b : List Byte) (o : Nat) : Word := BitVec.ofNat 64 (uN b o 8)

/-- A hart from its record; what no record lays down comes from the state the device kept. RZ bits stay 0 whatever the record holds (R12). -/
def Hart.ofImage (h : Hart) (b : List Byte) : Hart :=
  let st := mk64 b 0x210
  let q := h.program
  let p : Hart := { q with
    regs := { q.regs with g := (List.range 31).map (fun n => (n + 1, mk64 b (8 * (n + 1)))), a := (List.range 16).map (fun n => (n, mk80 b (0x100 + 16 * n))) }
    pc := mk80 b 0x200
    ctrl := { q.ctrl with
      ftz := st.getLsbD 0, wtrap := st.getLsbD 1, prot := st.getLsbD 2, mm := st.getLsbD 3, role := roleOf (fldN st 5 4), fw := st.getLsbD 6
      vl := uN b 0x218 8, mvl := uN b 0x220 8, mfc := mk64 b 0x228 &&& mfcMask, dsel := mk64 b 0x230 &&& 1#64
      tol := (List.range 16).map (fun f => (f, if 9 ≤ f ∧ f ≤ 14 then 0 else b.getD (0x238 + f) 0)) }
    wt := (List.range 4).map (fun n => (n, uN b (0x278 + 4 * n) 4))
    held := (List.range 4).filterMap (fun n => let w := mk64 b (0x288 + 8 * n); if w = 0 then none else some (n, w))
    trap := { cause := mk64 b 0x2A8 &&& trcauseMask, pc := mk80 b 0x2B0, va := mk80 b 0x2C0, info := mk64 b 0x2D0
              lg := (List.range 16).map (fun n => (n, BitVec.ofNat 16 (uN b (0x2D8 + 2 * n) 2))) } }
  if (b.getD 0x2F8 0).getLsbD 0 then { p.swapBank with handler := true, heldAside := p.held, held := [] } else { p with handler := false }

/-- A serialising slot that a stop abandoned (R354), whose fields are free. -/
def abandonedSlot (n : Nat) (w : Word) : Word :=
  let d := w.extractLsb' 0 5
  let s1 := w.extractLsb' 5 5
  let s2 := w.extractLsb' 10 5
  let sc := BitVec.ofNat 3 ((w.extractLsb' 15 8).toNat % 6)
  let b := BitVec.ofNat 8 ((w.extractLsb' 23 2).toNat)
  let l : LM := { t := 0, a := 0, x := 0, k := 0, q := 0, sc := sc, pi := 0, off := 0 }
  match n % 6 with
  | 0 => encode (.fence l)
  | 1 => encode (.bararr { l with t := b })
  | 2 => encode (.semts { d := d, s1 := s1, imm := 0 })
  | 3 => encode (.barwait { d := d, s1 := 0, imm := b.setWidth 41 })
  | 4 => encode (.nwait { d := d, s1 := s1, s2 := s2, rm := 0 })
  | _ => encode (.yield { d := d, s1 := s1, imm := 0 })

/-- A hart of an adopted gang: what its record lays down, and internal trap state of the package it came from, whose values are free (R393, R437; log 36). -/
def Hart.ofForeign (h : Hart) (b : List Byte) : Hart :=
  let n (k : Nat) : BitVec 256 := Config.internal ((b.drop 0x300).take 256) k
  let regs (o : Nat) : Regs := { g := (List.range 31).map (fun r => (r + 1, (n (o + r)).setWidth 64)), a := (List.range 16).map (fun r => (r, (n (o + 32 + r)).setWidth 80))
                                 k := (List.range 7).map (fun r => (r + 1, n (o + 48 + r))) }
  let g := ({ h with bankG := bankedG.map (fun r => (r, (n r).setWidth 64)), bankA := bankedA.map (fun r => (r, (n (32 + r)).setWidth 80)) } : Hart).ofImage b
  let w := if (b.getD 0x2F8 0).getLsbD 1 then abandonedSlot (n 48).toNat ((n 49).setWidth 64) else 0
  let aside := g.handler && (n 50).getLsbD 0
  { g with
    opnd := regs 64, octrl := g.ctrl, kOpnd := regs 128, pend := if aside then 0 else w, pendAside := if aside then w else 0
    kCtrl := { g.ctrl with ftz := (n 51).getLsbD 0, wtrap := (n 51).getLsbD 1, vl := (n 52).toNat % 257, mvl := (n 53).toNat % 257, mfc := (n 54).setWidth 64 &&& mfcMask, dsel := (n 55).setWidth 64 &&& 1#64 }
    kSlots := (List.range 3).map (fun c => (c, (n (56 + c)).setWidth 64)), kPc := (n 59).setWidth 80, cont := (n 60).setWidth 80, pmask := n 61, tileInfo := (n 62).toNat % 2 ^ 64
    kCrl := (n 51).getLsbD 2, crlNext := (n 51).getLsbD 3, retSlot := (n 63).toNat % 8 }

/-- A Carrel of an adopted gang: the addresses of its packets stand in no field of its record, and are free (R249, R393; log 36). -/
def Carrel.foreign (b : List Byte) : Carrel := { body := (List.range 128).map (fun k => (k, ((Config.internal b k).setWidth 80, {}))) }

/-- A Carrel from its record; recorded addresses come from the state the device kept. -/
def Carrel.ofImage (c : Carrel) (b : List Byte) : Carrel :=
  let pk (k : Nat) : VAddr × Packet :=
    let o := 64 + 36 * k
    let hdr := BitVec.ofNat 32 (uN b o 4)
    let w (cl : Cls) : Word := if hPres hdr cl then slotWord ((b.drop o).take 36) hdr cl else 0
    ((tget (0, {}) c.body k).1, { hdr := hdr, s := w .S, l := w .L, v := w .V, m := w .M })
  let st := match u8 b 0 with | 0 => CarState.idle | 1 => .recording | 2 => .loaded | _ => .replaying
  { c with st := st, len := u8 b 1, idx := u8 b 2, pos := u8 b 3, trip := uN b 4 4, count := uN b 8 4, first := uN b 12 4, cont := mk80 b 16
           body := (List.range (if st = .recording then u8 b 3 else u8 b 1)).map (fun k => (k, pk k)) }

/-- A queue from its block; cells in bad granules read +0 and are poisoned (R397). A reserved format code, which only software can have put there, is taken as FP32: the
spec gives no outcome (DESIGN CHOICE, log 69). -/
def Queue.ofImage (b : List (Byte × Bool)) (cycle : Nat) (form : Nat → Nat × List Nat) : Queue :=
  let v := b.map (·.1)
  { ents := (List.range (uN v 0 4)).map (fun e =>
      let o := 64 + 1088 * e
      let bad (j : Nat) : Bool := ((b.drop (o + 64 + 4 * j)).take 4).any (·.2)
      { st := if u8 v o = 1 then .opened else .visible, fmt := (Fmt.ofCode (u8 v (o + 1))).getD .fp32, cnt := uN v (o + 2) 2, since := cycle
        ne := uN v (o + 2) 2, form := (form e).1, poisEls := (form e).2
        cells := (List.range 256).map (fun j => (j, if bad j then 0 else BitVec.ofNat 32 (uN v (o + 64 + 4 * j) 4)))
        pois := BitVec.ofNat 256 (uN v (o + 32) 32) ||| BitVec.ofNat 256 (maskOf 256 bad) }) }

/-- Reads a long range in pieces of 1 KiB. -/
def State.areaRead (s : State) (d : Nat) (va : VAddr) (o : Nat) : Nat → State × Except (VAddr × XFault) (List (Byte × Bool))
  | 0 => (s, .ok [])
  | n + 1 =>
    match s.areaGet d va o 1024 with
    | (s, .error x) => (s, .error x)
    | (s, .ok l) =>
      match s.areaRead d va (o + 1024) n with
      | (s, .error x) => (s, .error x)
      | (s, .ok r) => (s, .ok (l ++ r))

/-- Restores band b of gang group m, cleared where VALIDMAP says that it was never written; restored rows are clean (R397). A gang that held no group takes its band tags from the
header with group 0 (R217). -/
def State.restoreBandAt (s : State) (va : VAddr) (d m b : Nat) (q : Place) : State × Option (VAddr × XFault) :=
  match s.areaGet d va 0 64 with
  | (s, .error x) => (s, some x)
  | (s, .ok hd) =>
    let hb := hd.map (·.1)
    let gs := (s.core q.core).groups q.rgi
    let s0 := s.modCore q.core (fun c => { (if m = 0 then c.putTag gs (16 * b) ((Tag.ofCode (uN hb 48 8 / 2 ^ (4 * b) % 16)).getD .f32) else c) with dirty := (List.range 16).foldl (fun t r => tset t ((16 * b + r) * 16 + gs.getD m 0) false) c.dirty })
    if !(uN hb 16 32).testBit (16 * m + b) then (s0, none)
    else match s0.areaGet d va (0x40000 + 0x400 * (16 * m + b)) 1024 with
    | (s, .error x) => (s, some x)
    | (s, .ok l) =>
      match s.areaRead d va (0xA4000 + 512 * b / 1024 * 1024) 1 with
      | (s, .error x) => (s, some x)
      | (s, .ok po) =>
        let pv := po.map (·.1)
        let cells := l.map (·.1)
        (s.modCore q.core (fun c => (List.range 16).foldl (fun c r => (List.range 16).foldl (fun c x =>
          let o := 64 * r + 4 * x
          let bad := ((l.drop o).take 4).any (·.2)
          let p := (uN pv (512 * b % 1024 + 32 * r + 2 * m) 2).testBit x
          let c1 := c.putCell gs (16 * b + r) (16 * m + x) (if bad then 0 else BitVec.ofNat 32 (uN cells o 4)) (p || bad)
          { c1 with dirty := tset c1.dirty ((16 * b + r) * 16 + gs.getD m 0) false }) c) c), none)
def State.restoreBand (s : State) (d i c m b : Nat) (q : Place) : State × Option (VAddr × XFault) := s.restoreBandAt (s.sliceVa d i c) d m b q

/-- Reads 32-byte records at offsets of a slice up to the first fault: for each its bytes, none where a granule of it is bad. -/
def State.coloRecs (s : State) (d : Nat) (va : VAddr) : List Nat → State × Except (VAddr × XFault) (List (Option (BitVec 256)))
  | [] => (s, .ok [])
  | o :: r =>
    match s.areaGet d va o 32 with
    | (s, .error x) => (s, .error x)
    | (s, .ok l) =>
      match s.coloRecs d va r with
      | (s, .error x) => (s, .error x)
      | (s, .ok bs) => (s, .ok ((if l.any (·.2) then none else some (BitVec.ofNat 256 (leNat (l.map (·.1))))) :: bs))

/-- The value of a record, none where it fails its check code: one of this device's own stands for the value kept where its bytes are those written, and fails otherwise; one that
an evacuee wrote stands for a value of its own. -/
def coloValue (img : Option (BitVec 256)) (kept : Int × Int) (r : Option (BitVec 256)) : Option (Int × Int) :=
  match r, img with
  | none, _ => none
  | some b, some i => if b = i then some kept else none
  | some b, none => some (Config.coloOf b)

/-- Puts back the Colophon values of a gang group; those whose record fails come back as non-finite (R394). -/
def State.putColo (s : State) (d i c m : Nat) (q : Place) (recs : List (Option (BitVec 256))) : State :=
  let o : Saved := tget {} (s.gang d i).saved c
  let img := tget none (o.imgs.map (fun e => (e.1, some e.2))) m
  let rows := (List.range 16).map (fun x => coloValue img (tget (0, 0) o.chkrow (16 * m + x)) (recs.getD x none))
  let cols := (List.range 256).map (fun r => coloValue img (tget (0, 0) o.chkcol (16 * r + m)) (recs.getD (16 + r) none))
  let badC := (List.range 16).filter (fun x => (rows.getD x none).isNone)
  let badR := (List.range 256).filter (fun r => (cols.getD r none).isNone)
  let gs := (s.core q.core).groups q.rgi
  let s1 := s.modCore q.core (fun k => { k with
    chkrow := tsetMany k.chkrow ((List.range 16).map (fun x => (k.col gs (16 * m + x), (rows.getD x none).getD (0, 0))))
    chkcol := tsetMany k.chkcol ((List.range 256).map (fun r => (r * 17 + k.phys (gs.getD m 0), (cols.getD r none).getD (0, 0)))) })
  s1.modGang d i (fun r => { r with colo := tmod {} r.colo q.core (fun (k : Colo) =>
    { k with nfCol := k.nfCol ||| BitVec.ofNat 256 (badC.foldl (fun n x => n ||| 2 ^ (16 * m + x)) 0)
             nfRow := k.nfRow ||| BitVec.ofNat 256 (badR.foldl (fun n x => n ||| 2 ^ x) 0) }) })

/-- Where the records of a gang group lie in its slice: chkrow of its columns, then chkcol of every row (R394). -/
def coloOffs (m : Nat) : List Nat := (List.range 16).map (fun x => 0x80100 + 32 * (16 * m + x)) ++ (List.range 256).map (fun r => 0x82100 + 32 * (16 * r + m))
/-- The Colophon of a gang group once its records are read, or the fault of a read. -/
def restoredColo (r : State × Except (VAddr × XFault) (List (Option (BitVec 256)))) (d i c m : Nat) (q : Place) : State × Option (VAddr × XFault) :=
  match r with
  | (s, .error x) => (s, some x)
  | (s, .ok l) => (s.putColo d i c m q l, none)
/-- Restores the Colophon values of a gang group, or answers the fault of a read (R394, R397). -/
def State.restoreColo (s : State) (d i c m : Nat) (q : Place) : State × Option (VAddr × XFault) :=
  restoredColo (s.coloRecs d (s.sliceVa d i c) (coloOffs m)) d i c m q

/-- The answer of a unit that restores one band. -/
def bandAnswer (r : State × Option (VAddr × XFault)) : State × Except (VAddr × XFault) Bool :=
  match r with | (s, some x) => (s, .error x) | (s, none) => (s, .ok false)

/-- The bands of a gang group, up to the first fault. -/
def State.restoreBands (s : State) (d i c m : Nat) (q : Place) : State × Option (VAddr × XFault) :=
  (List.range 16).foldl (fun (a : State × Option (VAddr × XFault)) b =>
    match a.2 with | some _ => a | none => a.1.restoreBand d i c m b q) (s, none)

/-- The Colophon follows the bands of its group, unless one of them faulted. -/
def restoredBands (r : State × Option (VAddr × XFault)) (d i c m : Nat) (q : Place) : State × Option (VAddr × XFault) :=
  match r with
  | (s, some x) => (s, some x)
  | (s, none) => s.restoreColo d i c m q

/-- All bands and the Colophon of a gang group (R217, R318). -/
def State.restoreGroup (s : State) (d i c m : Nat) (q : Place) : State × Option (VAddr × XFault) :=
  restoredBands (s.restoreBands d i c m q) d i c m q

/-- A section of eight parts, one for each hart position, once it is read whole: the harts of a place changed one by one, and whether a granule of the section is bad, a part without
a hart among them (R397). -/
def restoredHarts (r : State × Except (VAddr × XFault) (List (Byte × Bool))) (size : Nat) (q : Place) (go : Hart → List Byte → Hart) : State × Except (VAddr × XFault) Bool :=
  match r with
  | (s, .error x) => (s, .error x)
  | (s, .ok l) => (q.slots.zipIdx.foldl (fun s (h, p) => s.modHart q.core h (fun x => go x (((l.drop (size * p)).take size).map (·.1)))) s, .ok (l.any (·.2)))
def State.restoreHarts (s : State) (d i c off size : Nat) (q : Place) (go : Hart → List Byte → Hart) : State × Except (VAddr × XFault) Bool :=
  restoredHarts (s.areaRead d (s.sliceVa d i c) off (size / 128)) size q go

/-- The slice header once it is read whole (R392, R397): the tokens of each claimed FIFO, the band tags, which every group of the gang takes (R212), and VALIDMAP, which the next save goes
on with (R395). A tag code 9 to 15, which only software can have put there, is taken as F32: the spec gives no outcome (DESIGN CHOICE, log 69). -/
def restoredTags (r : State × Except (VAddr × XFault) (List (Byte × Bool))) (d i c claim : Nat) (q : Place) : State × Except (VAddr × XFault) Bool :=
  match r with
  | (s, .error x) => (s, .error x)
  | (s, .ok l) =>
    let b := (l.take 64).map (·.1)
    let s1 := (s.modCore q.core (fun k => (List.range 16).foldl (fun k x =>
      k.putTag (k.groups q.rgi) (16 * x) ((Tag.ofCode (uN b 48 8 / 2 ^ (4 * x) % 16)).getD .f32)) k)).modGang d i (fun r =>
        { r with save := { r.save with valid := tset r.save.valid c (BitVec.ofNat 256 (uN b 16 32)) } })
    ((bitsOf 4 claim).foldl (fun s n => s.modFifo q.core n (fun _ => { t := u8 b (60 + n) })) s1, .ok (l.any (·.2)))
def State.restoreTags (s : State) (d i c : Nat) (va : VAddr) (claim : Nat) (q : Place) : State × Except (VAddr × XFault) Bool :=
  restoredTags (s.areaRead d va 0 4) d i c claim q

/-- The form of the load that left entry `e` of queue `n` open, and the elements in it that hold the poison value, as the device kept them; for an adopted gang they are free
(R168, R170, R437; log 36). -/
def openForm (forms : Tbl (Nat × List Nat)) (n : Nat) (b : List Byte) (e : Nat) : Nat × List Nat :=
  match tget none (forms.map (fun q => (q.1, some q.2))) (16 * n + e) with
  | some x => x
  | none => ((Config.internal b (2 * e)).toNat % 2 ^ 12, bitsOf 256 (Config.internal b (2 * e + 1)).toNat)

/-- The queues' section: every claimed queue. -/
def State.restoreQueues (s : State) (d : Nat) (va : VAddr) (claim : Nat) (forms : Tbl (Nat × List Nat)) (q : Place) : State × Except (VAddr × XFault) Bool :=
  (bitsOf 10 claim).foldl (fun (a : State × Except (VAddr × XFault) Bool) n =>
    match a.2 with
    | .error _ => a
    | .ok _ => match a.1.areaRead d va (0x10000 + 0x4800 * n) 18 with
      | (s, .error x) => (s, .error x)
      | (s, .ok l) => (s.setQueue q.core n (Queue.ofImage l s.cycle (openForm forms n (l.map (·.1)))), .ok false)) (s, .ok false)

/-- The colophon's section once its bytes `r` are read: its registers once, and one cell column's parts. -/
def restoredColos (r : State × Except (VAddr × XFault) (List (Byte × Bool))) (d i c nm g : Nat) (q : Place) : State × Except (VAddr × XFault) Bool :=
  match r with
  | (s, .error x) => (s, .error x)
  | (s, .ok l) =>
    let b := l.map (·.1)
    let m (o : Nat) : Mask := BitVec.ofNat 256 (uN b o 32)
    let k : Colo := { u := uN b 0 4, fmts := uN b 4 2, nfRow := m 16, nfCol := m 48, locR := m 80, locC := m 112, locUR := m 144, locUC := m 176 }
    let s1 := if nm = 0 then s.modGang d i (fun r => { r with colo := tset r.colo q.core k }) else s
    if nm < g then bandAnswer (s1.restoreColo d i c nm q) else (s1, .ok false)
def State.restoreColos (s : State) (d i c : Nat) (va : VAddr) (nm g : Nat) (q : Place) : State × Except (VAddr × XFault) Bool :=
  restoredColos (s.areaGet d va 0x80000 208) d i c nm g q

/-- The fault records' section once it is read, with n records: the records join the core's queue with the slots the gang's harts now have. -/
def restoredRecs (r : State × Except (VAddr × XFault) (List (Byte × Bool))) (n : Nat) (q : Place) : State × Except (VAddr × XFault) Bool :=
  match r with
  | (s, .error x) => (s, .error x)
  | (s, .ok l) =>
    let recs := (List.range n).map (fun j =>
      let b := ((l.drop (32 * j)).take 32).map (·.1)
      let slot := (u8 b 15) % 8
      let pos := ((s.placeHarts q).findIdx? (fun x => x.2.retSlot == slot)).getD 0
      b.take 15 ++ [BitVec.ofNat 8 (q.slots.getD pos 0 + 64)] ++ b.drop 16)
    let k := s.core q.core
    (s.setCore q.core (recs.foldl (fun k b =>
      { k with frq := k.frq ++ [BitVec.ofNat 256 (leNat (b.take 20 ++ leBytes 4 k.frqSeq ++ b.drop 24))], frqSeq := (k.frqSeq + 1) % 2 ^ 32 }) k),
      .ok (l.any (·.2)))
/-- The number of records stands in the slice header. -/
def recsAfter (r : State × Except (VAddr × XFault) (List (Byte × Bool))) (d : Nat) (va : VAddr) (q : Place) : State × Except (VAddr × XFault) Bool :=
  match r with
  | (s, .error x) => (s, .error x)
  | (s, .ok h) => restoredRecs (s.areaRead d va 0xA6000 2) (u8 (h.map (·.1)) 3) q
def State.restoreRecs (s : State) (d : Nat) (va : VAddr) (q : Place) : State × Except (VAddr × XFault) Bool :=
  recsAfter (s.areaGet d va 56 4) d va q

/-- Harts that the device has not kept itself come from the package whose gang was adopted (R437). -/
def State.kept (s : State) (d i c : Nat) : Bool := !(tget {} (s.gang d i).saved c).harts.isEmpty

/-- One unit of a restore; the answer says whether a granule of sections 0 to 4 or 9 is bad. -/
def State.restoreUnit (s : State) (d i : Nat) (v : SaveSt) (q : Place) : State × Except (VAddr × XFault) Bool :=
  let c := v.core
  let r := s.gang d i
  match v.sec with
  | 0 => s.restoreTags d i c (s.sliceVa d i c) r.desc.tclaim q
  | 1 => s.restoreHarts d i c 0x1000 0x400 q (if s.kept d i c then Hart.ofImage else Hart.ofForeign)
  | 2 => s.restoreHarts d i c 0x3000 0x100 q (fun h b => { h with regs := { h.regs with k := (List.range 7).map (fun n => (n + 1, BitVec.ofNat 256 (uN b (32 * n) 32))) } })
  | 3 => s.restoreHarts d i c 0x3800 0x200 q (fun h b => { h with vsc := (List.range 512).map (fun e => (e, b.getD e 0)) })
  | 4 => s.restoreHarts d i c 0x4800 0x1400 q (fun h b => { h with carrel := (if s.kept d i c then h.carrel else Carrel.foreign b).ofImage b })
  | 5 => s.restoreQueues d (s.sliceVa d i c) r.desc.qclaim (tget {} r.saved c).forms q
  | 6 => if ((s.core q.core).groups q.rgi).isEmpty then (s, .ok false) else bandAnswer (s.restoreBand d i c v.nm v.nb q)
  | 7 => s.restoreColos d i c (s.sliceVa d i c) v.nm ((s.core q.core).groups q.rgi).length q
  | 9 => s.restoreRecs d (s.sliceVa d i c) q
  | _ => (s, .ok false)

/-- Room for the fault records that a resume pushes (R388). -/
def State.roomForRecs (s : State) (d i : Nat) (v : SaveSt) (q : Place) : Bool :=
  if v.sec ≠ 9 then true
  else match s.areaGet d (s.sliceVa d i v.core) 56 4 with
    | (_, .ok h) => decide (u8 (h.map (·.1)) 3 ≤ (s.core q.core).frqRoom s.cycle)
    | _ => true

/-- A restore is complete: kept counters and chunk bits come back, and the harts may issue (R145, R346). -/
def State.restoreDone (s : State) (d i : Nat) : State :=
  let r := s.gang d i
  let s1 := (s.hartsOf r).foldl (fun s (p, h, _) => s.modHart p h (fun x =>
    { x with stopped := false, was29 := false, fresh := true, lastIssue := none, ready := [], minIssue := 0, divUntil := 0, pbc := tget [] r.keptPbc x.pos
             regs := { x.regs with k := (tget [] r.keptK x.pos).foldl (fun t q => if q.1 = 0 then t else tset t q.1 (tget 0 t q.1 ||| q.2)) x.regs.k } })) s
  s1.modGang d i (fun r => { r with save := { r.save with active := false, restore := false }, keptPbc := [], keptK := [],
                                           saved := r.saved.map (fun o => (o.1, { o.2 with recs := [] })) })

/-- One unit of a restore, or its end (R397). -/
def State.restoreStep (s : State) (d i : Nat) : State :=
  let r := s.gang d i
  match r.places[r.save.core]? with
  | none => s
  | some q =>
    if !s.roomForRecs d i r.save q then s
    else match s.restoreUnit d i r.save q with
    | (s, .error x) => s.areaFault d i x
    | (s, .ok true) => s.endGang d i 2
    | (s, .ok false) =>
      let r := s.gang d i
      let v := ({ r.save with whole := true } : SaveSt).next ((s.core q.core).groups q.rgi).length r.places.length
      let s1 := s.modGang d i (fun r => { r with save := { v with whole := r.save.whole } })
      if v.done then s1.restoreDone d i else s1

/-- A hart stalled on a full fault record queue ends its instruction at the stop (R387); a VLDC, which no re-issue repeats, keeps RET = CONTINUE (log 51). -/
def Hart.endStalled (h : Hart) (cycle : Nat) : Hart :=
  match pickOwed h.stallOwed with
  | none => h
  | some t =>
    let t1 : TrapReq := { t with rdef := true, nrec := t.nrec - h.stall29.length }
    let g := h.report cycle
    { g with trap := { g.trap with cause := trcause t1, va := t.va, info := BitVec.ofNat 64 t.info }, stall29 := [], stallOwed := [], tileInfo := tileOf h.stallOwed, was29 := true }

/-- A whole save begins: stalled instructions end, what a stop abandons is abandoned, and the gang's fault records leave their queues (R354, R387, R388). -/
def State.startSave (s : State) (d i : Nat) : State :=
  let r := s.gang d i
  let s1 := (s.hartsOf r).foldl (fun s q => s.modHart q.1 q.2.1 (fun h => { h.endStalled s.cycle with retSlot := q.2.1, links := [], yieldUntil := 0 })) s
  r.places.zipIdx.foldl (fun s (q, c) =>
    let l := (s.core q.core).recsOf q.slots
    (s.modGang d i (fun r => { r with saved := tmod {} r.saved c (fun (o : Saved) => { o with recs := o.recs ++ l }) })).modCore q.core
      (fun k => { k with frq := k.frq.filter (fun x => !q.slots.contains (fldN x 122 120)) })) (s1.dropSem r)

/-- SAVE_UNIT: the next unit of a save or a restore; one that is stopped waits for SAVE.STAT (R396, R397). -/
def State.saveUnit (s : State) (d i : Nat) : State :=
  let r := s.gang d i
  let v := r.save
  if !v.active || v.stalled || s.dead d then s
  else if v.restore then s.restoreStep d i
  else if v.whole && !v.begun then
    if !s.gangQuiet r then s
    else ((s.startSave d i).modGang d i (fun r => { r with save := { r.save with begun := true } })).saveStep d i
  else s.saveStep d i
def execSaveUnit (s : State) : Out := below s.arg.die 16 (s.saveUnit s.arg.die s.arg.idx)

/-- Starts the save of a stopped gang, or of released groups of one core, from the first unit it needs (R395, R396). -/
def SaveSt.begin (v : SaveSt) (whole : Bool) (groups : List Nat) (core : Nat) : SaveSt :=
  let head := whole || !v.headed.contains core
  { v with active := true, whole := whole, restore := false, done := false, core := core, sec := if head then 0 else 6
           nm := if head then 0 else groups.headD 0, nb := 0, groups := groups, stalled := false, first := 0, prog := (0, 0, 0), round := false, begun := false }

/-- Gang group numbers, on one core, of the groups whose release there is agreed. -/
def State.agreedNumbers (s : State) (r : Rec) (q : Place) : List Nat :=
  ((s.core q.core).groups q.rgi).zipIdx.filterMap (fun (g, m) => if (tget [] r.agreed q.core).contains g then some m else none)

/-- GROUP_RELEASE: the groups of a core whose release has been agreed are saved once no slot of the gang in flight touches them (R317). -/
def execGroupRelease (s : State) : Out :=
  below s.arg.die 16 (
    let d := s.arg.die
    let i := s.arg.idx
    let r := s.gang d i
    let clear (q : Place) : Bool := (s.core q.core).flight.all (fun f => !q.slots.contains f.slot || f.groups.all (fun g => !(tget [] r.agreed q.core).contains g))
    match r.places.zipIdx.find? (fun q => !(tget [] r.agreed q.1.core).isEmpty && clear q.1) with
    | some (q, c) => if r.st = 5 ∧ !r.save.active ∧ !s.dead d then s.setGang d i { r with save := r.save.begin false (s.agreedNumbers r q) c } else s
    | none => s)

/-- SAVE.STAT STALL: writing 1 resumes every stopped save and restore of the die, that of a growing gang too (R318, R381). -/
def State.writeSaveStat (s : State) (d : Nat) (w : Word) : State :=
  if !w.getLsbD 0 then s
  else s.modDie d (fun x => { x with savestat := x.savestat &&& ~~~1#64, recs := x.recs.map (fun q => (q.1, { q.2 with save := { q.2.save with stalled := false }, growStalled := false })) })
def execSaveStallClear (s : State) : Out := below s.arg.die 16 (s.writeSaveStat s.arg.die s.arg.w)

/-- GANG_RESUME: a saved record takes its cores again, with the G it held, and its restore begins (R346, R205). -/
def State.resume (s : State) (d i : Nat) : State :=
  let r := s.gang d i
  let step (a : State × List Place) (q : Place) : State × List Place :=
    let (s1, pl) := a.1.takeCore r q.core (r.need q.core).gmin q.spbase
    (s1.modCore q.core (·.emptyClaims r.desc.qclaim r.desc.tclaim), a.2 ++ [pl])
  let (s1, places) := r.places.foldl step (s, [])
  let s2 := s1.setGang d i { r with st := 4, places := places, placedAt := s.cycle, save := { (r.save.begin true [] 0) with restore := true },
                                       g := r.places.foldl (fun n q => max n (r.need q.core).gmin) 0 }
  places.zipIdx.foldl (fun s (q, c) => q.slots.zipIdx.foldl (fun s (h, p) =>
    let x := (((tget {} r.saved c).harts.find? (fun x => x.1 == p)).map (·.2)).getD (newHart d i r q.core c p)
    s.setHart q.core h { x with stopped := true }) s) s2
def execGangResume (s : State) : Out :=
  below s.arg.die 16 (match s.placeable s.arg.die s.arg.idx with
    | some _ => if (s.gang s.arg.die s.arg.idx).places.isEmpty then s else s.resume s.arg.die s.arg.idx
    | none => s)

/-! Lengths (R214, R316 to R319). -/
/-- MAXL of a hart (R214). -/
def State.maxl (s : State) (p : Nat) (h : Hart) : Nat :=
  let c := s.core p
  let gs := s.groupsOf p h
  let n := (gs.filter (fun g => !latPend c.lat g)).length
  if h.ctrl.prot then 16 * (n / 2) else 16 * n

/-- Groups of a core that qualify for a gang's growth (R318). -/
def State.growable (s : State) (r : Rec) (q : Place) : List Nat :=
  let gs := (s.core q.core).groups q.rgi
  let m := s.roomFor r q.core
  if gs.isEmpty ∧ 6 ≤ m.owners then [] else m.groups.filter (fun g => gs.all (fun x => decide (x < g)))

/-- Enters further groups on one core, tagged like the gang's own (R212). Groups whose columns stand in the save area are still to be restored, and their rows are clean. -/
def State.growCore (s : State) (d i c : Nat) (new : List Nat) (q : Place) : State × Place :=
  let r := s.gang d i
  let k := s.core q.core
  let old := k.groups q.rgi
  let rgi := if old.isEmpty then freeIndex k.lat else q.rgi
  let back := new.zipIdx.filter (fun (_, x) => (tget none ((tget {} r.saved c).imgs.map (fun e => (e.1, some e.2))) (old.length + x)).isSome)
  let tags := (List.range 16).map (fun b => k.tag old (16 * b))
  let k1 := k.grant rgi new
  let k2 := (List.range 16).foldl (fun k b => new.foldl (fun k g => { k with tags := tset k.tags (16 * b + g) (tags.getD b .f32) }) k) k1
  let k3 := { k2 with dirty := back.foldl (fun t (g, _) => (List.range 256).foldl (fun t x => tset t (x * 16 + g) false) t) k2.dirty }
  ((s.setCore q.core k3).modGang d i (fun r => { r with unrestored := r.unrestored ++ back.map (fun (_, x) => (c, old.length + x)) }), { q with rgi := rgi })

/-- A group that is restored is off the list of those to restore. -/
def restoredOne (r : State × Option (VAddr × XFault)) (d i : Nat) : State × Option (VAddr × XFault) :=
  match r with
  | (s, some x) => (s, some x)
  | (s, none) => (s.modGang d i (fun r => { r with unrestored := r.unrestored.drop 1 }), none)
/-- Restores the groups that are granted again, up to the first fault (R217, R318). -/
def State.growRestore (s : State) (d i : Nat) (l : List (Nat × Nat)) : State × Option (VAddr × XFault) :=
  l.foldl (fun (a : State × Option (VAddr × XFault)) x =>
    match a.2, (a.1.gang d i).places[x.1]? with
    | none, some q => restoredOne (a.1.restoreGroup d i x.1 x.2 q) d i
    | _, _ => a) (s, none)

/-- Groups that a request asks for, as the gang's other cores and GMAX allow (R318). -/
def State.growBy (s : State) (h : Hart) (g req : Nat) : Nat :=
  let r := s.gang h.die h.idx
  let want := if h.ctrl.prot then 2 * ((req + 15) / 16 - g / 2) else (req + 15) / 16 - g
  let can := r.places.foldl (fun n q => min n (s.growable r q).length) (min want (r.desc.gmax - r.g))
  if h.ctrl.prot then can / 2 * 2 else can

/-- The same number of further groups on every core of a gang, chosen before any is taken (R318). -/
def State.grant (s : State) (h : Hart) (n : Nat) : State :=
  let r := s.gang h.die h.idx
  let a := (r.places.zipIdx.map (fun (q, c) => (q, c, (s.growable r q).take n))).foldl (fun (a : State × List Place) (q, c, new) =>
    let (s1, q1) := a.1.growCore h.die h.idx c new q
    (s1, a.2 ++ [q1])) (s, [])
  a.1.modGang h.die h.idx (fun r => { r with g := r.g + n, places := a.2 })

/-- grow(req) of R318 by a hart of core `p`: the grant, and the restoring of what the gang had saved of it. -/
def State.grow (s : State) (p : Nat) (h : Hart) (req : Nat) : State × Option (VAddr × XFault) :=
  let n := s.growBy h (s.heldGroups p h).length req
  let s1 := if n = 0 then s else s.grant h n
  s1.growRestore h.die h.idx (s1.gang h.die h.idx).unrestored

/-- A growth that a fault stopped: the groups remain the gang's, and the restoring waits for SAVE.STAT (R319, R397). -/
def State.growKept (s : State) (p : Nat) (h : Hart) (req : Nat) : State :=
  match s.grow p h req with
  | (s1, none) => s1
  | (s1, some x) =>
    if x.2.wait then s1
    else (s1.modDie h.die (fun y => { y with savestat := s1.saveFault h.die h.idx x })).modGang h.die h.idx (fun r => { r with growStalled := true })

/-- release_pending() of R316 for the core in issue: the release of its marked groups is agreed once the lengths of every hart of the gang there fit (R317). The time limit of
the core then ends (R346). -/
def State.releasePending (s : State) (d i : Nat) : State :=
  let r := s.gang d i
  let p := s.issue.core
  let pend := match r.place? p with | some q => ((s.core p).groups q.rgi).filter (latPend (s.core p).lat) | none => []
  if pend.all (tget [] r.agreed p).contains then s
  else if (s.hartsOf r).all (fun q => q.1 != p || q.2.2.exited || (decide (q.2.2.ctrl.vl ≤ s.maxl q.1 q.2.2) && decide (q.2.2.ctrl.mvl ≤ s.maxl q.1 q.2.2))) then
    s.modGang d i (fun r => { r with agreed := tset r.agreed p pend, markAt := r.markAt.filter (fun m => m.1 != p) })
  else s

/-- SETVL and SETMVL (R316); where the restoring of a growing gang stops, the slot waits, and what was granted stays granted (R318, R319, R397). -/
def setLength (f : SR) (s : State) (put : Ctrl → Nat → Nat → Ctrl) : Out :=
  onHart s (fun h =>
    let p := s.issue.core
    let req := (h.og f.s1.toNat).toNat
    let pending := (s.heldGroups p h).any (latPend (s.core p).lat)
    let (s1, x) := if (!pending ∧ s.maxl p h < req) ∨ !(s.gang h.die h.idx).unrestored.isEmpty then s.grow p h req else (s, none)
    if (s.gang h.die h.idx).growStalled then s.stall
    else match x with
    | some _ => ({ s with issue := { s.issue with grow := some req } } : State).stall
    | none =>
      let grant := min req (s1.maxl p h)
      ((s1.modCtrl (fun c => put c req grant)).wrG f.d.toNat (BitVec.ofNat 64 grant)).releasePending h.die h.idx)
def execSetvl (f : SR) (s : State) : Out := setLength f s (fun c _ g => { c with vl := g })
def execSetmvl (f : SR) (s : State) : Out := setLength f s (fun c req g => { c with mvl := g, mm := req != 0 })

end Sys2Proof.Machine
end

