-- ==== Sys2Proof/Machine/Witness.lean ====
section
/-! DEFINITION. The witness vote (R406 to R411, R416 to R419): rounds, heartbeats, strikes and verdicts, the tally, fencing and readmission. -/
namespace Sys2Proof.Machine
open Sys2Proof

/-! Witness sets (R406). -/
def meshDist (a b : Nat) : Nat :=
  let d (x y : Nat) : Nat := (x - y) + (y - x)
  d (a % 4) (b % 4) + d (a / 4) (b / 4)
/-- The four dies outside F and d nearest to d. -/
def witnesses (f d : Nat) : List Nat :=
  (sortBy (fun a b => decide (meshDist d a < meshDist d b) || (meshDist d a == meshDist d b && decide (a < b)))
    ((List.range 16).filter (fun x => x != d && !f.testBit x))).take 4
/-- A set without one die. -/
def setBit (f i : Nat) (b : Bool) : Nat := if b then f ||| 2 ^ i else if f.testBit i then f - 2 ^ i else f
def dieSet (l : List Nat) : Nat := l.foldl (fun f i => f ||| 2 ^ i) 0
def State.alive (s : State) : List Nat := (List.range 16).filter (fun d => !s.hub.fset.testBit d)

def State.wit (s : State) (d : Nat) : Wit := if d < 16 then (s.die d).wit else s.hub.wit
def State.modWit (s : State) (d : Nat) (f : Wit → Wit) : State :=
  if d < 16 then s.modDie d (fun x => { x with wit := f x.wit }) else s.modHub (fun x => { x with wit := f x.wit })

/-! Heartbeats (R407). -/
def beatBytes (src flags round accuse readmit fenced : Nat) : List Byte :=
  let b := [0x48#8, BitVec.ofNat 8 src, BitVec.ofNat 8 flags, 0#8] ++ leBytes 8 round ++ leBytes 2 accuse ++ leBytes 2 readmit ++ leBytes 2 fenced
    ++ List.replicate 10 0#8
  b ++ leBytes 4 (crc32c b).toNat
def Beat.parse (b : List Byte) : Beat :=
  { src := u8 b 1, selfbad := (u8 b 2).testBit 0, appeal := (u8 b 2).testBit 1, down := u8 b 2 / 16, round := uN b 4 8, accuse := uN b 12 2
    readmit := uN b 14 2, fenced := uN b 16 2, bytes := b }
/-- CHECK passes and every zero field is zero (R408 item 1). -/
def beatOk (b : List Byte) : Bool :=
  uN b 28 4 == (crc32c (b.take 28)).toNat && u8 b 2 / 4 % 4 == 0 && u8 b 3 == 0 && uN b 18 10 == 0

/-- Mesh ports of a die that are DOWN, as a heartbeat reports them. -/
def Die.downPorts (d : Die) : Nat := maskOf 4 (fun p => (tget {} d.port p : Link).down)

/-- F as a die holds it: one that has fenced itself is in its own (R409). -/
def State.fenceView (s : State) (d : Nat) : Nat := setBit s.hub.fset d (s.hub.fset.testBit d || (s.die d).wit.selfFenced)

/-- The heartbeat of a die in a round. Whether a die has found an uncorrectable fault in its own logic (SELFBAD) is said by ROUND_START. -/
def State.beatOf (s : State) (d n : Nat) : List Byte :=
  let w := s.wit d
  beatBytes d (bit (s.arg.w.getLsbD d) 0 + bit w.appealing 1 + (s.die d).downPorts * 16) n w.accuse w.readmit (s.fenceView d)

/-- ROUND_START: every die outside F, and every one that appeals, sends its heartbeat (R406, R407). -/
def State.roundStart (s : State) : State :=
  let n := s.time / 8000
  if s.hub.roundOpen ∨ n < s.hub.roundNext then s
  else
    let send := (List.range 16).filter (fun d => !s.dead d || (s.wit d).appealing)
    s.modHub (fun h => { h with round := n, roundOpen := true, roundNext := n + 1, sent := send.map (fun d => (d, s.beatOf d n)) })
def execRoundStart (s : State) : Out := .next s.roundStart

/-- Dies that the flood of a die's heartbeats reaches: over every port that is not DOWN and leads to a die outside F (R407). -/
def State.flood (s : State) (src : Nat) : Nat :=
  (List.range 15).foldl (fun m _ => (List.range 64).foldl (fun m n =>
    if m.testBit (n / 4) && portExists (n / 4) (n % 4) && !(s.link n).down && !s.hub.fset.testBit (portNext (n / 4) (n % 4)) then m ||| 2 ^ portNext (n / 4) (n % 4) else m) m) (2 ^ src)
/-- The heartbeat that a die has sent in this round, where the flood brings it to `w`; the hub hears every die. -/
def State.flooded (s : State) (src w : Nat) : List Byte := if w = 16 ∨ (s.flood src).testBit w then tget [] s.hub.sent src else []

/-- A round has ended whose tally is still to be made, or the first microsecond of a round passes whose heartbeats are still to be sent (R406, R407). -/
def State.roundDue (s : State) : Bool :=
  let n := s.time / 8000
  (s.hub.roundOpen && decide (s.hub.round < n)) || (!s.hub.roundOpen && decide (s.hub.roundNext ≤ n) && decide (998 ≤ s.time % 8000))

/-- The round that runs: between the end of a round and the first heartbeats of the next one, that next round (R406). -/
def Hub.running (h : Hub) : Nat := if h.roundOpen then h.round else h.round + 1
/-- F at the start of a stamped round, of the running round and the one before it. -/
def Hub.fAt (h : Hub) (r : Nat) : Nat := if r = h.running then h.fset else h.fprev

/-- HEARTBEAT_RECEIVE: a heartbeat reaches a die (16: the hub). One of a fenced die counts only with APPEAL; a strike is recorded as R408 says. Copies of one heartbeat that the flood
brings in one round, or while its stamp is fresh, count as one. -/
def State.hear (s : State) (w : Nat) (b : List Byte) : State :=
  let x := Beat.parse b
  let n := s.hub.running
  if b.length ≠ 32 ∨ u8 b 0 ≠ 0x48 ∨ 16 ≤ x.src ∨ (w < 16 ∧ s.hub.fset.testBit w) then s
  else if s.hub.fset.testBit x.src ∧ !x.appeal then s.modWit w (fun y => { y with late := (y.late + 1) % 2 ^ 64 })
  else
    let known := (s.wit w).beats.find? (fun y => y.src == x.src && y.round == x.round)
    let fresh := x.round == n || x.round + 1 == n
    if (s.wit w).heard.any (fun q => q.2 == b && (fresh || q.1 == n)) then s
    else
      let strike := !beatOk b || known.isSome || !fresh || x.fenced != s.hub.fAt x.round
      let watch := (witnesses (setBit s.hub.fset x.src false) x.src).contains w
      s.modWit w (fun y => { y with
        strikes := if strike && watch then tmod [] y.strikes x.src (fun l => l ++ [n]) else y.strikes
        beats := if beatOk b && known.isNone && fresh then y.beats ++ [x] else y.beats, heard := y.heard ++ [(n, b)] })
def execHeartbeatReceive (s : State) : Out := below s.arg.die 17 (s.hear s.arg.die (if s.arg.flag then s.flooded s.arg.idx s.arg.die else s.arg.data))

/-! The end of a round. -/
def Wit.beat (w : Wit) (d n : Nat) : Option Beat := w.beats.find? (fun y => y.src == d && y.round == n)
/-- Strikes in rounds n − 15 to n. -/
def Wit.struck (w : Wit) (d n : Nat) : List Nat := (tget [] w.strikes d).filter (fun r => decide (n < r + 16))

/-- What a witness concludes at the end of round n (R408, R409, R418): misses, strikes, the bits of its next heartbeat, and its rounds of silence. -/
def State.verdict (s : State) (d n : Nat) : Wit :=
  let w := s.wit d
  let f := s.hub.fset
  let watch := (List.range 16).filter (fun x => x != d && (witnesses (setBit f x false) x).contains d)
  let miss (x : Nat) : Nat := if (w.beat x n).isSome then 0 else tget 0 w.miss x + 1
  let bad (x : Nat) : Bool :=
    decide (6 ≤ miss x) || ((w.beat x n).map (·.selfbad)).getD false || decide (max w.bthr.toNat 1 ≤ (w.struck x n).length)
  let run (x : Nat) : Nat :=
    if ((w.beat x n).map (·.appeal)).getD false && !(tget [] w.strikes x).contains n then tget 0 w.appealRun x + 1 else 0
  let heard := w.beats.any (fun y => y.round == n && y.src != d && !f.testBit y.src)
  { w with
    miss := watch.map (fun x => (x, if f.testBit x then 0 else miss x))
    strikes := w.strikes.map (fun q => (q.1, q.2.filter (fun r => decide (n < r + 16))))
    accuse := dieSet (watch.filter (fun x => !f.testBit x && bad x))
    appealRun := watch.map (fun x => (x, if f.testBit x then run x else 0))
    readmit := dieSet (watch.filter (fun x => f.testBit x && decide (250 ≤ run x)))
    prob := dieSet ((List.range 16).filter (fun x => f.testBit x && ((w.beat x n).map (·.appeal)).getD false))
    silentRounds := if heard then 0 else w.silentRounds + 1
    beats := w.beats.filter (fun y => decide (n ≤ y.round)), heard := w.heard.filter (fun q => decide (n ≤ q.1)) }

/-- Pending dies and the dies voted out by the heartbeats of round n (R410). -/
def State.tally (s : State) (n : Nat) : List Nat × List Nat :=
  let f := s.hub.fset
  let a (x : Nat) : List Nat := (witnesses f x).filter (fun w => (((s.hub.wit.beat w n).map (fun b => b.accuse.testBit x)).getD false))
  let p := s.alive.filter (fun x => decide (2 ≤ (a x).length))
  let nn := s.alive.filter (fun x => decide (3 ≤ ((a x).filter (fun w => !p.contains w)).length))
  (p, nn.take (s.alive.length - 5))

/-- Dies that their four witnesses readmit (R418). -/
def State.readmitted (s : State) (n : Nat) (p : List Nat) : List Nat :=
  (List.range 16).filter (fun x => s.hub.fset.testBit x &&
    (let w := witnesses (setBit s.hub.fset x false) x
     w.length == 4 && w.all (fun y => !p.contains y && (((s.hub.wit.beat y n).map (fun b => b.readmit.testBit x)).getD false))))

/-- Records of a die that hold a core of a fenced die, saved ones among them, end with status 0x03 (R349, R411, R415). -/
def State.endOn (s : State) (f d : Nat) : State :=
  (s.die d).recs.foldl (fun s q =>
    if 3 ≤ q.2.st ∧ q.2.places.any (fun p => p.core / 2 == f) then s.endGang d q.1 3 else s) s

/-- What any self-test that started leaves on a core (R324). -/
def State.testLeaves (s : State) (p : Nat) : State :=
  (s.modCore p (fun c => { (List.range 16).foldl (fun c g => c.clearGroup g) c with grid := [], pois := [], chkrow := [], chkcol := [], q := [], fifo := [], pgseed := 1, pgNext := none })).zeroRange (padKey p 0) (2 ^ 23)

/-- A write belongs to a hart on a core of a die. -/
def State.writesFrom (s : State) (f : Nat) : List (Nat × Nat) :=
  [2 * f, 2 * f + 1].flatMap (fun p => (s.core p).harts.filterMap (fun q => q.2.map Hart.name))

/-- The first die outside F that a message from die `f` to die `b` comes to, 16 where there is none: it discards the message (R415). -/
def Hub.discards (h : Hub) (f b : Nat) : Nat :=
  match Hub.route { h with fset := setBit h.fset f false } f b with
  | some l => ((l.map (fun q => portNext q.1 q.2)).find? (fun d => !h.fset.testBit d)).getD 16
  | none => 16
/-- Discards a message of a fenced die and counts it (R415, R419). -/
def State.discard (s : State) (d : Nat) : State := s.modWit d (fun w => { w with late := (w.late + 1) % 2 ^ 64 })

/-- A die stops (R409, R411): its cores unsaved, its queues and engines empty, its self-test begins. -/
def State.stopDie (s : State) (f : Nat) : State :=
  let s1 := [2 * f, 2 * f + 1].foldl (fun s p =>
    (if (s.core p).stest.isSome then s.testLeaves p else s).modCore p (fun c => { c with harts := [], front := [], flight := [], q := [], fifo := [], stest := none })) s
  s1.modDie f (fun x => { x with lostCmds := x.lostCmds ++ x.eng.flatMap (fun q => q.2.cmds), eng := x.eng.map (fun q => (q.1, { q.2 with cmds := [] })), wit := { x.wit with testing := true } })
/-- An isolated die fences itself; its witnesses reach the same result by its silence (R409). -/
def State.selfFence (s : State) (f : Nat) : State := (s.stopDie f).modWit f (fun w => { w with selfFenced := true })

/-- The fence moment of a die (R411, R414 to R416): its cores stop unsaved, its unarrived writes are discarded, its gangs end, and the rest is left to its
guardian. In COPYING its memory is not copied (R434). -/
def State.fence (s : State) (f guardian n : Nat) : State :=
  let gone := s.writesFrom f
  let dropped := s.pw.filter (fun w => w.phase == 0 && (w.hart.map gone.contains).getD false)
  let late := dropped.map (fun w => s.hub.discards f ((w.bytes.map (fun b => dieOfKey b.1)).headD 16))
  let s0 : State := if s.hub.evac.st = .copying then s.modHub (fun h => { h with evac := { h.evac with absent := setBit h.evac.absent f true, partial_ := true } }) else s
  let s1 : State := { s0 with pw := s.pw.filter (fun w => !(w.phase == 0 && (w.hart.map gone.contains).getD false)), orphans := s.orphans ++ [(f, guardian)] }
  let s2 := if (s.wit f).selfFenced then s1 else s1.stopDie f
  let s3 := late.foldl State.discard (s2.modHub (fun h => { h with frem := h.frem ||| 2 ^ (2 * f) ||| 2 ^ (2 * f + 1) }))
  (((List.range 16).filter (fun d => d != f && !s3.hub.fset.testBit d)).foldl (fun s d => s.endOn f d) s3).event (srcWitness 16) f (n + 1)

/-- Granules of main memory homed on a die: those of its HBM4 stack, or of its LP6 group (R7). -/
def granCount (d : Nat) : Nat := if [1, 2, 4, 7, 8, 11, 13, 14].contains d then 2 ^ 30 else if [0, 3, 12, 15].contains d then 2 ^ 32 else 0
/-- Granules of a die's main memory that are not marked yet. -/
def State.unmarked (s : State) (d : Nat) : Nat :=
  if s.lost.testBit d then (s.cleared.filter (fun g => dieOfKey (g * 64) == d && !s.marks.contains g)).length
  else granCount d - (s.marks.filter (fun g => decide (g * 64 < 0x30000000000) && dieOfKey (g * 64) == d)).length

/-- The readmission of a die (R418): map, communication registers and schedulers start anew, and all its memory is marked, which CHK.MARK counts (R402); the witness agent
of the hub reports it (R403). -/
def State.readmit (s : State) (f n : Nat) : State :=
  let s1 := s.modHub (fun h => { h with frem := setBit (setBit h.frem (2 * f) false) (2 * f + 1) false })
  let s2 := s1.modDie f (fun d => { d with
    sem := 0, dat := [], semq := [], chkMark := d.chkMark + BitVec.ofNat 64 (s.unmarked f), wit := { d.wit with appealing := false, testing := false, selfFenced := false, silentRounds := 0, accuse := 0, readmit := 0 }
    recs := (List.range 1024).map (fun i => (i, { gen := ((tget {} d.recs i : Rec).gen + 1) % 2 ^ 32 }))
    ring := d.ring.map (fun q => (q.1, { gen := (q.2.gen + 1) % 2 ^ 32 })) })
  ({ s2 with lost := s2.lost ||| 2 ^ f, cleared := s2.cleared.filter (fun g => dieOfKey (g * 64) != f) } : State).event (srcWitness 16) (256 + f) (n + 1)

/-- The die that a write comes from. -/
def State.writeSource (s : State) (w : PW) : Option Nat :=
  match w.hart with
  | some (q, pos) =>
    let r := s.gang (q / 1024) (q % 1024)
    (r.places[pos / max r.desc.h 1]?).map (·.core / 2)
  | none => none
/-- Requests on their way between dies: writes before their home moment, and scalar accesses that are not answered. -/
def State.onTheWay (s : State) : List Hold :=
  s.pw.filterMap (fun w => match (if w.phase = 0 then s.writeSource w else none), w.bytes with
      | some a, b :: _ => some { src := a, dst := dieOfKey b.1, write := some w.id }
      | _, _ => none)
    ++ s.cores.flatMap (fun (p, c) => c.harts.flatMap (fun (i, h) => match h with
      | some h => if h.remoteReq ∧ h.remoteAns = none then (h.reqOks.filterMap (fun o => o.loc.home)).eraseDups.map (fun b => { src := p / 2, dst := b, core := p, slot := i }) else []
      | none => []))
/-- A new round's routes (R412, R413), after those of `old`: what is on its way where a route has changed keeps later requests of its die waiting, and a scalar access whose old path
passes one of the dies `out` is lost. -/
def State.reroute (s : State) (old : Hub) (out : List Nat) : State :=
  let l := s.onTheWay.filter (fun q => q.src != q.dst && decide (q.src < 16) && decide (q.dst < 16))
  let via (q : Hold) : Bool := ((Hub.route old q.src q.dst).getD []).any (fun x => out.contains x.1)
  let s1 := l.foldl (fun t q => if q.write.isNone ∧ via q then t.modHart q.core q.slot (fun h => { h with remoteAns := some .lost }) else t) s
  s1.modHub (fun h => { h with holds := h.holds.filter s1.holdOpen ++ l.filter (fun q => s1.holdOpen q && Hub.route old q.src q.dst != Hub.route h q.src q.dst) })

/-- ROUND_END: verdicts, the tally, and the fence and readmission moments at the start of the next round (R409, R410, R418). -/
def State.roundEnd (s : State) : State :=
  let n := s.hub.round
  if !s.hub.roundOpen ∨ s.time / 8000 ≤ n then s
  else
    let (p, voted) := s.tally n
    let back := s.readmitted n p
    let old := s.hub.fset
    let vs := ((List.range 16).filter (fun d => !old.testBit d)).map (fun d => (d, s.verdict d n))
    let alone := (vs.filter (fun q => decide (6 ≤ q.2.silentRounds))).map (·.1)
    let out := voted
    let new := back.foldl (fun f x => setBit f x false) (out.foldl (fun f x => setBit f x true) old)
    let downs := s.hub.wit.beats.flatMap (fun b => if b.round = n then (bitsOf 4 b.down).flatMap (fun q => [4 * b.src + q, linkFar (4 * b.src + q)]) else [])
    let s1 := vs.foldl (fun s q => s.modWit q.1 (fun _ => { q.2 with pend := dieSet p, prob := q.2.prob &&& new })) s
    let hubProb := dieSet ((List.range 16).filter (fun x => old.testBit x && ((s.hub.wit.beat x n).map (·.appeal)).getD false))
    let s2 := s1.modHub (fun h => { h with
      roundOpen := false, fprev := old, fset := new, downs := downs.eraseDups
      wit := { h.wit with pend := dieSet p, prob := hubProb &&& new, beats := h.wit.beats.filter (fun y => decide (n ≤ y.round)), heard := h.wit.heard.filter (fun q => decide (n ≤ q.1)) } })
    let s3 := out.foldl (fun s f => s.fence f (((witnesses old f).filter (fun w => !new.testBit w)).foldl min 16) n) s2
    let s4 := (alone.filter (fun f => !s3.dead f)).foldl State.selfFence s3
    ((back.foldl (fun s f => s.readmit f n) s4).reroute s.hub out).loseReqs
def execRoundEnd (s : State) : Out := .next s.roundEnd

/-! Self-test of a core and of a fenced die (R324, R417). -/
/-- What a record of a self-test says (R403; log 20). -/
def evTest : Nat := 0x90
/-- A self-test of a core ends with a result, which the waiting STEST takes and a record reports; a failing core leaves the logical core map (R324, R403). -/
def State.testEnds (s : State) (p : Nat) (res : Word) (fail : Bool) : State :=
  match (s.core p).stest with
  | none => s
  | some t =>
    let s1 := (s.modCore p (fun c => { c with stest := none })).testLeaves p
    let s2 := if fail then s1.modHub (fun h => { h with trem := h.trem ||| 2 ^ p }) else s1
    (s2.event (srcService (p / 2)) (evTest + p % 2) res.toNat).modHart t.core t.slot (fun h => { h with regs := writeG h.regs t.rd res, pend := 0, minIssue := max h.minIssue (s.cycle + 1) })

/-- STEST_DONE: the pattern has run; PASS returns the expected signature, FAIL another (R324). -/
def execStestDone (s : State) : Out :=
  below s.arg.core 32 (match (s.core s.arg.core).stest with
    | some t =>
      let sig := s.arg.w.setWidth 32
      let fail := sig != Config.stestPass
      if t.started + 170000 ≤ s.cycle then s.testEnds s.arg.core (BitVec.ofNat 64 (sig.toNat * 2 ^ 32 + bit fail 0)) fail else s
    | none => s)

/-- A ready record of at least the abort priority has no other place than with the core under test, or a blocked head of at least that priority will use the core (R324, R344):
every test that may stop for the record is thought away, so that one which needs two cores under test stops both. -/
def State.abortWanted (s : State) (p prio : Nat) : Bool :=
  s.blockedHeads.any (fun q => q.2.2.contains p && decide (prio ≤ q.2.1.effPrio s.cycle))
    || (List.range 16).any (fun d => (s.readyList d).any (fun q =>
      let e := q.2.effPrio s.cycle
      let stops (c : Nat) : Bool := match (s.core c).stest with | some t => decide (t.prio ≤ e) | none => false
      decide (prio ≤ e) && (placeIn q.2 (s.roomFor q.2)).isNone
        && (match placeIn q.2 (fun c => let m := s.roomFor q.2 c; if stops c then { m with ok := !s.removed c } else m) with | some (l, _) => l.contains p | none => false)))

/-- STEST_ABORT (R324). -/
def execStestAbort (s : State) : Out :=
  below s.arg.core 32 (match (s.core s.arg.core).stest with
    | some t => if s.abortWanted s.arg.core t.prio then s.testEnds s.arg.core 2 false else s
    | none => s)

/-- A granule received from a die fails its check value (R401): the copy on its way is marked by the receiving die `d`, whose counters count it (R402), and where it came over a mesh or
Ibros hop that is a strike against the sending die `src`, at most one in a round (R408 item 5). What stands in memory is as it was: the granule travels on marked. -/
def State.hopFailure (s : State) (d src g : Nat) : State :=
  let n := s.hub.running
  if 16 ≤ d then s
  else
    let s1 := s.modDie d (fun x => { x with chkErr := x.chkErr + 1, chkLast := BitVec.ofNat 64 (s.paOf g), chkMark := x.chkMark + 1 })
    if src < 16 ∧ src ≠ d ∧ (witnesses (setBit s.hub.fset src false) src).contains d ∧ ¬ (tget [] (s.wit d).hops src).contains n then
      s1.modWit d (fun y => { y with strikes := tmod [] y.strikes src (fun l => l ++ [n]), hops := tset y.hops src [n] })
    else s1

/-- CHECK_VALUE_FAILURE, within a completing access (R401): with `flag` set, granule `id` either stops agreeing with its check value, which the next read of it finds, or, with
`ok`, fails on its way from die `idx` to die `die`. -/
def State.checkFailure (s : State) : State :=
  if !s.arg.flag then s
  else if s.arg.ok then s.hopFailure s.arg.die s.arg.idx s.arg.id
  else { s with badCheck := insSorted s.badCheck s.arg.id }
/-- The granule that fails on its way with the completing access. -/
def hopOf (a : Arg) : Option Nat := if a.flag && a.ok && decide (a.die < 16) then some a.id else none

/-- FENCED_SELFTEST_DONE: the self-test that the fence moment, or its own fence, began has ended. On a pass, a die with an appeal left begins to send APPEAL heartbeats; else it stays fenced until
reset (R417). -/
def execFencedSelftestDone (s : State) : Out :=
  below s.arg.die 16 (
    let d := s.arg.die
    let w := s.wit d
    if !s.dead d ∨ !w.testing then s
    else
      let s1 := (((s.testLeaves (2 * d)).testLeaves (2 * d + 1)).event (srcService d) (evTest + 2) (bit s.arg.ok 0)).modWit d (fun w => { w with testing := false })
      if s.arg.ok ∧ w.appeals < 3 then s1.modWit d (fun w => { w with appealing := true, appeals := w.appeals + 1 }) else s1)

end Sys2Proof.Machine
end

