-- ==== Sys2Proof/Machine/Port.lean ====
section
/-! DEFINITION. The Ethernet port (R420 to R426): host windows, RDMA messages, atomics, refusals, flow control, and the device timer's clock. -/
namespace Sys2Proof.Machine
open Sys2Proof

/-! Answers (log 21). -/
def outRdma : Nat := 2
def outCnp : Nat := 5
/-- Status of an RDMA answer: acknowledged, or a NAK for a remote access error, a remote operational error, an invalid request, receiver not ready. -/
def ackOk : Nat := 0
def nakAccess : Nat := 1
def nakOp : Nat := 2
def nakInvalid : Nat := 3
def nakNotReady : Nat := 4
def State.put (s : State) (kind dest status : Nat) (data : List Byte) : State := { s with outbox := s.outbox ++ [{ kind := kind, dest := dest, status := status, data := data }] }
/-- An answer of the port; while its priority is paused it waits, and so do those after it (R420). -/
def State.answer (s : State) (qp status : Nat) (data : List Byte) : State :=
  if s.time < s.hub.paused ∨ s.hub.heldOut ≠ [] then s.modHub (fun h => { h with heldOut := h.heldOut ++ [{ kind := outRdma, dest := qp, status := status, data := data }] })
  else s.put outRdma qp status data
/-- The pause is over: what waited for it goes out. -/
def State.sendHeld (s : State) : State :=
  if s.time < s.hub.paused ∨ s.hub.heldOut = [] then s else { s.modHub (fun h => { h with heldOut := [] }) with outbox := s.outbox ++ s.hub.heldOut }

def State.qpair (s : State) (n : Nat) : QPair := tget {} s.hub.qps n
def State.modQp (s : State) (n : Nat) (f : QPair → QPair) : State := s.modHub (fun h => { h with qps := tmod {} h.qps n f })

/-- NAKs of R422, R424 and R420 with their counters. -/
def State.refuseAccess (s : State) (qp : Nat) : State := (s.modHub (fun h => { h with nakAcc := h.nakAcc + 1 })).answer qp nakAccess []
def State.refuseOp (s : State) (qp : Nat) : State :=
  ((s.modHub (fun h => { h with nakOp := h.nakOp + 1 })).modQp qp (fun q => { q with error := true, msgs := [] })).answer qp nakOp []
def State.refuseInvalid (s : State) (qp : Nat) : State := (s.modHub (fun h => { h with nakInv := h.nakInv + 1 })).answer qp nakInvalid []

/-- The port serves new requests unless an evacuation holds it (R433, R434). -/
def EvacSt.portOpen : EvacSt → Bool | .idle | .armed | .adopted | .refused => true | _ => false

/-! Windows (R421, R422). -/
def Window.valid (w : Window) : Bool := w.key.getLsbD 0
def Window.may (w : Window) (acc : Acc) : Bool :=
  match acc with | .store => w.key.getLsbD 2 | .atomic => w.key.getLsbD 3 | _ => w.key.getLsbD 1
def State.window (s : State) (rkey : BitVec 32) : Option Window :=
  ((List.range 256).map (fun n => (tget {} s.hub.win n : Window))).find? (fun w => w.valid && fldN w.key 63 32 == rkey.toNat)

/-- Places of n bytes from an address, 4 KiB at a time; a failure says whether the message only has to wait (R127). -/
def State.portBytes (s : State) (w : Who) (acc : Acc) : Nat → VAddr → Nat → State × Except Bool (List XOk)
  | 0, _, _ => (s, .ok [])
  | k + 1, va, n =>
    if n = 0 then (s, .ok [])
    else match s.xlateSpan w va (min n 4096) acc false with
      | (s, .error x) => (s, .error x.2.wait)
      | (s, .ok l) =>
        match s.portBytes w acc k (va + 4096) (n - min n 4096) with
        | (s, .error x) => (s, .error x)
        | (s, .ok m) => (s, .ok (l ++ m))

/-- Every check of R422 on a message; answers the places of its bytes. -/
def State.portSpan (s : State) (rkey : BitVec 32) (off n : Nat) (acc : Acc) : State × Except Bool (List XOk) :=
  match s.window rkey with
  | none => (s, .error false)
  | some w =>
    if !w.may acc || !s.hub.ctxbase.getLsbD 0 || (acc == .atomic && off % 8 != 0) || decide ((fldN w.npg 31 0 + 1) * 65536 < off + n) then (s, .error false)
    else
      let ctx := fldN w.key 31 16
      match s.portBytes { die := 16, ctx := ctx, fw := ctx == 0 } acc (n / 4096 + 2) (BitVec.ofNat 80 (w.base.toNat * 65536 + off)) n with
      | (s, .ok l) =>
        if l.any (fun o => o.attr == 2 || (match o.loc with | .remote pa => !s.hasRoute pa | _ => false)) then (s, .error false) else (s, .ok l)
      | r => r

def locKeys (l : List XOk) : List Nat := l.filterMap (fun o => match o.loc with | .mem k => some k | _ => none)

/-- A byte as the port reads it: what is visible to the host, which a device write becomes at its system moment (R292, R423); one of another package is a free value (log 8). -/
def State.portByte (s : State) (o : XOk) : Byte :=
  match o.loc with
  | .mem k => ((s.pw.findSome? (fun w => w.old.find? (fun x => x.1 == k))).map (·.2)).getD (s.byte k)
  | .remote pa => Config.remoteByte s.draw pa
  | _ => 0

/-! Messages of a queue pair, one after another (R423). -/
def HostOp.acc : HostOp → Acc | .write _ => .store | .atomic _ _ => .atomic | _ => .load
def HostOp.size : HostOp → Nat | .write d => d.length | .read n => n | .atomic _ _ => 8 | .invalid => 0
/-- The bytes that the port takes next: `step` granules, which no write of the message or read of it divides (R290, R423). -/
def HostMsg.part (m : HostMsg) : Nat × Nat :=
  (64 * m.pos - m.off % 64, if m.step = 0 then m.op.size else min m.op.size (64 * (m.pos + m.step) - m.off % 64))
def slice {α : Type} (l : List α) (lo hi : Nat) : List α := (l.take hi).drop lo
/-- A granule that is never sent (R424): a bad one, or one that fails on its way (R401). -/
def State.unsent (s : State) (ks : List Nat) : Bool := ks.any (fun k => s.badKey k || hopOf s.arg == some (k / 64))
/-- Bytes that the port writes at places, with check values made at ingress (R400, R422). -/
def State.portPut (s : State) (l : List XOk) (b : List Byte) : State := s.commit ((l.zip b).filterMap (fun (o, b) => match o.loc with | .mem k => some (k, b) | _ => none)) false
/-- What an atomic stores over the old value (R420, R423). -/
def hostNew (cmp : Option Word) (x old : Word) : Option Word := match cmp with | none => some (old + x) | some c => if old = c then some x else none

/-- A translated message goes on; none where it is done and answered. Its writes are visible at every scope, part by part; a READ takes part by part what is visible to the host; an
atomic answers the old eight bytes and stores the new ones in one step, at the memory that owns them (R423). -/
def State.hostGo (s : State) (qp : Nat) (m : HostMsg) (l : List XOk) : State × Option HostMsg :=
  let (lo, hi) := m.part
  let p := slice l lo hi
  let ks := locKeys p
  let rest : HostMsg := { m with oks := some l, pos := m.pos + m.step }
  match m.op with
  | .write d =>
    let s1 := s.portPut p (slice d lo hi)
    if hi < d.length then (s1, some rest) else (s1.answer qp ackOk [], none)
  | .read n =>
    if s.unsent ks then ((s.verify (granules ks)).refuseOp qp, none)
    else if hi < n then (s.drawn, some { rest with got := m.got ++ p.map s.portByte })
    else (s.drawn.answer qp ackOk (m.got ++ p.map s.portByte), none)
  | .atomic cmp x =>
    if s.unsent ks then ((s.verify (granules ks)).refuseOp qp, none)
    else
      let old := p.map (fun o => match o.loc with | .mem k => s.byte k | _ => s.portByte o)
      let s1 : State := match hostNew cmp x (BitVec.ofNat 64 (leNat old)) with
        | some v => s.portPut p (leBytes 8 v.toNat)
        | none => s.breakLinks none (granules ks)
      (s1.drawn.answer qp ackOk old, none)
  | .invalid => (s.refuseInvalid qp, none)

/-- The first message of a queue pair: a length or a kind that is not supported (R420), the checks of R422, then its bytes. One whose translation only has to wait (R127) stays first. -/
def State.hostDo (s : State) (qp : Nat) (m : HostMsg) : State × Option HostMsg :=
  match m.oks with
  | some l => s.hostGo qp m l
  | none =>
    if m.op = .invalid ∨ 2 ^ 31 < m.op.size then (s.refuseInvalid qp, none)
    else match s.portSpan m.rkey m.off m.op.size m.op.acc with
      | (s, .error true) => (s, some m)
      | (s, .error false) => (s.refuseAccess qp, none)
      | (s, .ok l) => s.hostGo qp m l

/-- The messages of a queue pair in their order (R423), up to one that has to wait. -/
def State.serveQp (qp : Nat) : Nat → State → State
  | 0, s => s
  | k + 1, s =>
    match (s.qpair qp).msgs with
    | [] => s
    | m :: r =>
      match s.hostDo qp m with
      | (t, none) => (t.modQp qp (fun q => { q with msgs := if q.error then [] else r })).serveQp qp k
      | (t, some m1) => t.modQp qp (fun q => { q with msgs := m1 :: r })

/-- A message arrives on a queue pair and takes its turn; only a connected pair that is not in error is served. -/
def State.request (s : State) (qp : Nat) (m : HostMsg) : Out :=
  below qp 4096 (
    if !(s.qpair qp).connected || (s.qpair qp).error then s
    else if !s.hub.evac.st.portOpen then s.answer qp nakNotReady []
    else (s.modQp qp (fun q => { q with msgs := q.msgs ++ [m] })).serveQp qp ((s.qpair qp).msgs.length + 1))

/-- What the port does of itself: messages that wait are tried again, and answers go out once the pause is over (R420, R423). -/
def State.portRound (s : State) : State :=
  (s.hub.qps.foldl (fun s q => if q.2.msgs = [] then s else s.serveQp q.1 q.2.msgs.length) s).sendHeld

/-- RDMA_WRITE: every check of R422 comes before the first byte; `len` is the number of granules that are written at a time. -/
def execRdmaWrite (s : State) : Out := s.request s.arg.qp { rkey := s.arg.rkey, off := s.arg.off, op := .write s.arg.data, step := s.arg.len }
/-- RDMA_READ, with which a granule may fail its check value (R401); `slot` is the number of granules that are read at a time. A bad granule is never sent (R424). -/
def execRdmaRead (s : State) : Out := s.checkFailure.request s.arg.qp { rkey := s.arg.rkey, off := s.arg.off, op := .read s.arg.len, step := s.arg.slot }
/-- ATOMIC_COMPARE_AND_SWAP: `w` is compared and `w2` stored. -/
def execAtomicCompareAndSwap (s : State) : Out := s.request s.arg.qp { rkey := s.arg.rkey, off := s.arg.off, op := .atomic (some s.arg.w) s.arg.w2 }
def execAtomicFetchAndAdd (s : State) : Out := s.request s.arg.qp { rkey := s.arg.rkey, off := s.arg.off, op := .atomic none s.arg.w }

/-- INVALID_REQUEST: anything outside the supported subset (R420). -/
def execInvalidRequest (s : State) : Out := s.request s.arg.qp {}

/-- QUEUE_PAIR_CONNECT (R420): a host connects a reliable connection. -/
def execQueuePairConnect (s : State) : Out := below s.arg.qp 4096 (s.modQp s.arg.qp (fun _ => { connected := true }))

/-- PRIORITY_FLOW_CONTROL: the one priority is paused for `len` quanta of 512 bit times at 800 Gb/s, counted in whole nanoseconds; 0 ends the pause (R420; PRESUMED, log 82). -/
def execPriorityFlowControl (s : State) : Out := .next (s.modHub (fun h => { h with paused := s.time + s.arg.len * 16 / 25 })).sendHeld

/-- CONGESTION_NOTIFICATION: an ECN mark on a queue pair is answered by a congestion notification packet (R420). -/
def execCongestionNotification (s : State) : Out :=
  below s.arg.qp 4096 ((s.modHub (fun h => { h with cnps := h.cnps + 1 })).put outCnp s.arg.qp 0 [])

/-- PTP_MESSAGE: the clock that follows (R425). Before the first gang is placed the timer may be stepped by any amount; afterwards it only slews, by at most 100
parts per million. -/
def State.ptp (s : State) (amount : Int) : State :=
  let now : Int := s.time
  if !s.hub.everPlaced then s.modHub (fun h => { h with devBase := now + amount, devAt := s.cycle })
  else s.modHub (fun h => { h with devBase := now, devAt := s.cycle, devPpm := max (-100) (min 100 amount) })
def execPtpMessage (s : State) : Out := .next (if s.arg.ok then s.ptp s.arg.amount else s)

end Sys2Proof.Machine
end

