-- ==== Sys2Proof/Machine/Evac.lean ====
section
/-! DEFINITION. Evacuation and adoption of a package (R432 to R438), and the pull of a blade. -/
namespace Sys2Proof.Machine
open Sys2Proof

/-! Registers (R432, R436). -/
def evCfgMask : Word := 0xFFFFFFFFFFFF00#64
def Evac.links (e : Evac) : List Nat := (List.range 8).filter (fun i => e.cfg.getLsbD (8 + i))
def Evac.pkg (e : Evac) : Nat := fldN e.cfg 55 46
def Evac.rimg (e : Evac) : Nat := fldN e.cfg 45 16 * 65536
def Evac.from (e : Evac) : Nat := fldN e.rx 55 46
def EvacSt.code : EvacSt → Nat
  | .idle => 0 | .frozen => 1 | .saving => 2 | .copying => 3 | .draining => 4 | .ready => 5 | .failed => 6 | .released => 7 | .armed => 8
  | .adopted => 9 | .refused => 10
/-- An evacuation of this package is under way or over. -/
def EvacSt.leaving : EvacSt → Bool | .frozen | .saving | .copying | .draining | .ready | .failed | .released => true | _ => false
/-- From step 3 of an evacuation on, requests that arrive over Ibros take no effect (R433). -/
def EvacSt.bars : EvacSt → Bool | .copying | .draining | .ready | .failed | .released => true | _ => false
/-- EVAC.STAT (R432). -/
def State.evacStat (s : State) : Word :=
  let e := s.hub.evac
  BitVec.ofNat 64 ((if e.st.leaving then (s.time - e.goAt) / 1000000 else 0) % 2 ^ 32 * 2 ^ 32 + bit e.partial_ 8 + e.err * 16 + e.st.code)
def State.modEvac (s : State) (f : Evac → Evac) : State := s.modHub (fun h => { h with evac := f h.evac })
/-- The management controller writes a byte of the identity EEPROM; without one the write is dropped (R3, R431). -/
def Hub.putEeprom (h : Hub) (o : Nat) (b : Byte) : Hub := if h.eepromFitted then { h with eeprom := tset h.eeprom o b } else h
/-- EEPROM byte 256, the service state (R431). -/
def State.service (s : State) (v : Nat) : State := s.modHub (·.putEeprom 256 (BitVec.ofNat 8 v))

def outOffer : Nat := 6
def outOfferAnswer : Nat := 7
def outClaim : Nat := 8
def outClaimAnswer : Nat := 9
def outManifest : Nat := 10
def outCopy : Nat := 14
def outLost : Nat := 15

/-! The steps of an evacuation (R433 to R435). -/
/-- FREEZE and HOLD on every die. -/
def State.freezeAll (s : State) (b : Bool) : State := (List.range 16).foldl (fun s d => s.writeSched d (if b then 3 else 0)) s

/-- The region at RIMG lies wholly in HBM4 or LP6 of dies outside F (R435 check 4). -/
def State.rimgOk (s : State) : Bool :=
  (List.range 2048).all (fun i => match s.loc (s.hub.evac.rimg + 4096 * i) with
    | .mem k => decide (k < 0x30000000000) && !s.hub.fset.testBit (dieOfKey k)
    | _ => false)

/-- The first failing check of GO, 0 for none. -/
def State.goError (s : State) : Nat :=
  let e := s.hub.evac
  if e.links.length ≠ 2 then 1
  else if e.links.any (fun i => !(s.link (64 + i)).up || (s.link (64 + i)).peer != e.pkg) then 2
  else if e.pkg = s.hub.pkgid.toNat then 3
  else if !s.rimgOk then 4
  else 0

/-- GO in IDLE (R433 step 1, R435). -/
def State.evacGo (s : State) : State :=
  let x := s.goError
  if x ≠ 0 then s.modEvac (fun e => { e with err := x })
  else (s.freezeAll true).modEvac (fun e => { e with st := .frozen, err := 0, partial_ := false, absent := 0, goAt := s.time, offered := false, accepted := false, cfg := e.cfg ||| 1#64 })

/-- ABORT (R434, R438). -/
def State.evacAbort (s : State) : State :=
  match s.hub.evac.st with
  | .frozen | .saving | .copying => (s.freezeAll false).modEvac (fun e => { e with st := .idle, cfg := e.cfg &&& evCfgMask })
  | .ready | .failed => ((s.freezeAll false).modEvac (fun e => { e with st := .idle, indicator := false, cfg := e.cfg &&& evCfgMask })).service 0
  | _ => s

/-- A write of the first evacuation register: its fields, then GO in IDLE or ABORT elsewhere. A 1 written to ABORT stays to be read (R12) until an abort brings the evacuation back
to IDLE, and a GO that is refused or ignored does not set its bit (DESIGN CHOICE, log 45). -/
def State.writeEvac (s : State) (w : Word) : State :=
  let idle := s.hub.evac.st == .idle
  let s1 := s.modEvac (fun e => { e with cfg := (w &&& evCfgMask) ||| (e.cfg &&& 3#64) ||| (w &&& 2#64) })
  if idle then (if w.getLsbD 0 then s1.evacGo else s1) else if w.getLsbD 1 then s1.evacAbort else s1
def execEvacGo (s : State) : Out := .next (s.writeEvac (s.arg.w ||| 1#64))
def execEvacAbort (s : State) : Out := .next s.evacAbort

/-- The evacuation ends in FAILED. -/
def State.evacFail (s : State) (err : Nat) : State := (s.modEvac (fun e => { e with st := .failed, err := err, indicator := false })).service 2

/-- Suspends every running gang; one that is being placed follows once it runs (R334). -/
def State.suspendAll (s : State) : State := s.dies.foldl (fun s q => q.2.recs.foldl (fun s r => s.suspend q.1 r.1) s) s
/-- Stops every self-test (R433 step 2). -/
def State.abortTests (s : State) : State := (List.range 32).foldl (fun s p => if (s.core p).stest.isSome then s.testEnds p 2 false else s) s

/-- EVAC_FREEZE_DONE: SAVING begins (R433 step 2). -/
def execEvacFreezeDone (s : State) : Out :=
  .next (if s.hub.evac.st = .frozen then (s.abortTests.suspendAll).modEvac (fun e => { e with st := .saving }) else s)

/-! The record image and the manifest (R436). How bytes 128 to 255 of a slot hold what R436 puts there is not laid down, and 128 bytes cannot hold all of it: that chunk bits are
kept for the record (R145) is one bit, and a barrier's waiting NBYTES does not stand there; a receiver reads free values for both. The counters of R145 are 0 when the evacuee
reaches READY (R433). The layout is the model's (DESIGN CHOICE, log 22). -/
/-- Bits of a record's slot: launched by firmware, a configuration waits at barrier n, chunk bits are kept. -/
def Rec.flags (r : Rec) : Nat := bit r.byFw 0 + (List.range 4).foldl (fun m n => m + bit (tget {} r.bars n).nextv (1 + n)) 0 + bit (!r.keptK.isEmpty) 5
/-- A record's slot of the image. -/
def Rec.image (r : Rec) : List Byte :=
  if r.st = 0 then List.replicate 256 0
  else
    padTo 128 r.desc.raw
      ++ padTo 128 (leBytes 8 r.handle ++ leBytes 1 r.st ++ leBytes 1 r.g ++ leBytes 1 r.places.length ++ leBytes 1 r.flags ++ leBytes 2 r.deps ++ leBytes 2 r.ctx ++ leBytes 4 r.gen
        ++ padTo 24 (r.places.zipIdx.flatMap (fun (q, c) => leBytes 1 (q.core + 32 * q.rgi) ++ leBytes 1 (q.spbase / 65536) ++ leBytes 1 (tget {} r.saved c).groups))
        ++ (List.range 4).flatMap (fun n => let b : Barrier := tget {} r.bars n
            leBytes 4 b.phase ++ leBytes 1 b.narr ++ leBytes 1 b.arr ++ leBytes 7 b.cred ++ leBytes 6 b.nbytes ++ leBytes 1 b.next.1))
/-- A record from its slot of the image; one that was being saved is READY. What the slot has no room for is a free value (log 22), and all of each slice's header stands in the
save area (R395). -/
def Rec.ofImage (b : List Byte) (cycle : Nat) : Rec :=
  let x := b.drop 128
  let n := u8 x 10
  let desc := Desc.parse (b.take 128)
  let fl := BitVec.ofNat 8 (u8 x 11)
  if u8 x 8 = 0 then {}
  else
    { st := if u8 x 8 = 6 then 3 else u8 x 8, gen := uN x 16 4, handle := uN x 0 8, desc := desc, ctx := uN x 14 2, deps := uN x 12 2, g := u8 x 9
      readyAt := cycle, byFw := fl.getLsbD 0, ringIdx := if (uN x 0 8).testBit 25 then some (uN x 0 8 % 2 ^ 20) else none
      places := (List.range n).map (fun c => { core := u8 x (20 + 3 * c) % 32, spbase := u8 x (21 + 3 * c) * 65536, rgi := u8 x (20 + 3 * c) / 32 })
      saved := (List.range n).map (fun c => (c, { groups := u8 x (22 + 3 * c) })), save := { headed := List.range n }
      keptK := if fl.getLsbD 5 then (List.range (desc.h * n)).map (fun p => (p, (List.range 7).map (fun k => (k + 1, Config.internal x (8 * p + k))))) else []
      bars := (List.range 4).map (fun m => let o := 44 + 20 * m
        (m, { phase := uN x o 4, narr := u8 x (o + 4), arr := u8 x (o + 5), cred := uN x (o + 6) 7, nbytes := uN x (o + 13) 6
              next := (u8 x (o + 19), (Config.internal x (512 + m)).toNat % 2 ^ 48), nextv := fl.getLsbD (1 + m) })) }
/-- A spilled record from ring slot j of the package it came from (R338, R437). Bytes 128 to 255 are not laid down: generation, context, dependence count and launcher are free
values (log 22). -/
def Rec.ofRing (b : List Byte) (d j last : Nat) : Rec :=
  let n (k : Nat) : Nat := (Config.internal (b.drop 128) k).toNat
  { st := 1, gen := n 1 % 2 ^ 32, handle := handleOf (n 1 % 2 ^ 32) true d j, desc := Desc.parse (b.take 128), ctx := n 2 % 2 ^ 16, deps := n 3 % 2 ^ 16, byFw := n 4 % 2 == 1
    ringIdx := some j, order := n 5 % max last 1 }

/-- Writes bytes at a local address that names memory. -/
def State.writeLocal (s : State) (a : Nat) (b : List Byte) : State :=
  s.commit (b.zipIdx.filterMap (fun (x, i) => match s.loc (a + i) with | .mem k => some (k, x) | _ => none)) false
def State.readLocal (s : State) (a n : Nat) : List Byte :=
  (List.range n).map (fun i => match s.loc (a + i) with | .mem k => s.byte k | _ => 0)

/-- Writes the record image; the rest of its 8 MiB is zero. -/
def State.writeImage (s : State) : State :=
  let base := s.hub.evac.rimg
  let s1 := (List.range 16384).foldl (fun t n => t.writeLocal (base + 256 * n) (s.gang (n / 1024) (n % 1024)).image) s
  (List.range 16384).foldl (fun t n => t.writeLocal (base + 2 ^ 22 + 256 * n) (List.replicate 256 0)) s1

/-- The manifest's block of a die. -/
def State.dieManifest (s : State) (d : Nat) : List Byte :=
  let x := s.die d
  padTo 1024 (le8 x.ctxbase ++ le8 x.trapvec ++ le8 x.savebase ++ le16 x.ovrBase ++ le8 (ovrSizeWord x) ++ leBytes 8 (bit x.hold 1 + bit x.freeze 0)
    ++ le8 x.sem ++ (List.range 32).flatMap (fun n => le8 (tget 0 x.dat n)) ++ (List.range 16).flatMap (fun n => le8 (tget 0 x.ntf n))
    ++ le8 (s.core (2 * d)).lmap ++ le8 (s.core (2 * d + 1)).lmap)
def Window.bytes (w : Window) : List Byte := le8 w.base ++ le8 w.key ++ le8 w.npg ++ List.replicate 8 0
/-- Bytes 0x1000 to 0xFFFF. -/
def State.manifestBody (s : State) : List Byte :=
  padTo 0xF000 ((List.range 16).flatMap s.dieManifest ++ (List.range 256).flatMap (fun n => (tget {} s.hub.win n : Window).bytes)
    ++ (List.range 1024).flatMap (fun n => le8 (tget 0 s.hub.rt n)) ++ le8 s.hub.ctxbase)
def State.manifest (s : State) : List Byte :=
  let body := s.manifestBody
  padTo 0x1000 (leBytes 8 0x51584D46 ++ leBytes 8 (s.hub.pkgid.toNat + bit s.hub.ilvG 16) ++ leBytes 8 (s.hub.fset + bit s.hub.evac.partial_ 16)
    ++ leBytes 8 (s.hub.evac.rimg / 65536) ++ leBytes 8 (crc32c body).toNat) ++ body

/-- Every gang is saved and every accepted command has run (R433 step 2). -/
def State.allSaved (s : State) : Bool :=
  s.dies.all (fun q => q.2.recs.all (fun r => decide (r.2.st < 4)) && q.2.eng.all (fun e => e.2.cmds.isEmpty))

/-- EVAC_SAVE_DONE: COPYING begins with the record image and the offer on each chosen link (R433 step 3, R436). -/
def execEvacSaveDone (s : State) : Out :=
  .next (
    if s.hub.evac.st ≠ .saving then s
    else if !s.allSaved then s.suspendAll
    else
      let s1 := s.writeImage.modEvac (fun e => { e with st := .copying, offered := true, accepted := false, absent := s.hub.fset, partial_ := s.hub.fset != 0 })
      s.hub.evac.links.foldl (fun s l => s.put outOffer l s.hub.pkgid.toNat [BitVec.ofNat 8 (bit s.hub.ilvG 0)]) s1)

/-- EVAC_OFFER_ANSWER: ACCEPT, or REFUSE, for an unequal interleave where `flag` says so (R435, R436). -/
def execEvacOfferAnswer (s : State) : Out :=
  .next (
    if s.hub.evac.st ≠ .copying ∨ !s.hub.evac.offered then s
    else if s.arg.ok then s.modEvac (fun e => { e with offered := false, accepted := true })
    else s.evacFail (if s.arg.flag then 6 else 5))
/-- EVAC_OFFER_TIMEOUT: no answer within 1 ms (R435). -/
def execEvacOfferTimeout (s : State) : Out := .next (if s.hub.evac.st = .copying ∧ s.hub.evac.offered then s.evacFail 5 else s)

/-- Granules of main memory and scratchpads on dies whose memory is copied that list a byte or hold an uncorrectable error. -/
def State.copyGrans (s : State) : List Nat :=
  ((s.mem.map (fun (c : Host.Cell) => c.1 / 64)) ++ s.marks ++ s.badCheck).eraseDups.filter (fun g => decide (dieOfKey (g * 64) < 16) && !s.hub.evac.absent.testBit (dieOfKey (g * 64)))
/-- The copy of memory (R433 step 3), out of the device: 64 bytes for each granule at its local address, and whether it travels marked (R401); a die all of whose main memory was marked
at a readmission says so first (R418). Granules of which nothing is put out are zero (log 21). -/
def State.copyOut (s : State) : State :=
  let gs := s.copyGrans
  let s1 := s.verify gs
  let s2 := ((List.range 16).filter (fun d => s.lost.testBit d && !s.hub.evac.absent.testBit d)).foldl (fun t d => t.put outLost s.hub.evac.pkg d []) s1
  gs.foldl (fun t g => t.put outCopy s.hub.evac.pkg (g * 64) (s1.readAt (g * 64) 64 ++ [BitVec.ofNat 8 (bit (s1.badGran g) 0)])) s2

/-- EVAC_COPY_DONE: memory is copied while a chosen link carries traffic, the manifest last (R433 step 3, R434). -/
def execEvacCopyDone (s : State) : Out :=
  .next (
    if s.hub.evac.st = .copying ∧ s.hub.evac.accepted ∧ s.hub.evac.links.any (fun i => (s.link (64 + i)).up) then
      let s1 := s.copyOut.modEvac (fun e => { e with st := .draining })
      s1.put outManifest s.hub.evac.pkg 0 s1.manifest
    else s)

/-- Every pending-byte counter reads 0, those of harts that are not resident among them (R145), and no Catalogue command is under way (R433). -/
def State.noneOutstanding (s : State) : Bool :=
  s.cores.all (fun q => q.2.harts.all (fun h => (h.2.map (fun x => x.pbc.all (fun c => c.2 == 0))).getD true))
    && s.dies.all (fun q => q.2.cat.isEmpty && q.2.catAway.isEmpty && q.2.recs.all (fun r => r.2.keptPbc.all (fun x => x.2.all (fun c => c.2 == 0))))

/-- EVAC_DRAIN_DONE: nothing of the package is outstanding; READY (R433 steps 4 and 5), unless 30 s have passed since GO. -/
def execEvacDrainDone (s : State) : Out :=
  .next (
    if s.hub.evac.st = .draining ∧ s.pw.isEmpty ∧ s.noneOutstanding then
      if s.hub.evac.goAt + 30000000000 ≤ s.time then s.evacFail s.hub.evac.err
      else (s.modEvac (fun e => { e with st := .ready, indicator := true })).service 1
    else s)

/-- EVAC_TIMEOUT: 30 s have passed before READY (R433). -/
def execEvacTimeout (s : State) : Out :=
  .next (match s.hub.evac.st with
    | .frozen | .saving | .copying | .draining => if s.hub.evac.goAt + 30000000000 ≤ s.time then s.evacFail s.hub.evac.err else s
    | _ => s)

/-! The receiver (R436, R437). -/
def rxMask : Word := 0xFFC00000000000#64
/-- What arming requires. -/
def State.canArm (s : State) (w : Word) : Bool :=
  s.hub.evac.st == .idle && s.hub.fset == 0 && fldN w 55 46 != s.hub.pkgid.toNat
    && (List.range 16).all (fun d => (s.die d).hold && (s.die d).recs.all (fun q => q.2.st == 0) && (s.die d).ring.all (fun q => q.2.st == 0))

/-- The manifest in the buffer at hub offset 0x0C_0000. -/
def manifestKey : Nat := 0x380100C0000
def State.inbox (s : State) (o n : Nat) : List Byte := s.readAt (manifestKey + o) n
def zeroBytes (l : List Byte) : Bool := l.all (· == 0)
/-- Step 1 of R437. -/
def State.manifestOk (s : State) : Bool :=
  let n (o k : Nat) : Nat := leNat (s.inbox o k)
  n 0 4 == 0x51584D46 && n 4 4 == 0 && n 8 8 % 2 ^ 16 == s.hub.evac.from && n 8 8 / 2 ^ 17 == 0 && n 0x10 8 / 2 ^ 17 == 0 && n 0x18 8 / 2 ^ 30 == 0
    && n 0x20 4 == (crc32c (s.inbox 0x1000 0xF000)).toNat && zeroBytes (s.inbox 0x24 0xFDC)
    && (List.range 16).all (fun d => zeroBytes (s.inbox (0x1000 + 0x400 * d + 0x1D0) 0x230)) && zeroBytes (s.inbox 0x9008 0x6FF8)

/-- ADOPT on an armed receiver: the manifest is checked and a CLAIM sent. -/
def State.adopt (s : State) : State :=
  if !s.manifestOk then s.modEvac (fun e => { e with st := .refused, err := 8 })
  else (s.modEvac (fun e => { e with claiming := true })).put outClaim s.hub.evac.from s.hub.pkgid.toNat []

/-- A write of EVAC.RX. A 1 written to ADOPT stays to be read, in any state (R12), until a take-over or the disarming of an armed or refused receiver, and an ADOPT on an armed receiver
comes before an ARM = 0 of the same write (DESIGN CHOICE, log 45). -/
def State.writeRx (s : State) (w : Word) : State :=
  let st := s.hub.evac.st
  let s1 := s.modEvac (fun e => { e with rx := (w &&& rxMask) ||| (e.rx &&& 3#64) ||| (w &&& 2#64) })
  if st = .armed ∧ w.getLsbD 1 then s1.adopt
  else if w.getLsbD 0 then
    if st = .armed then s1
    else if s.canArm w then s1.modEvac (fun e => { e with st := .armed, rx := e.rx ||| 1#64 })
    else s1.modEvac (fun e => { e with err := 7 })
  else if st = .armed ∨ st = .refused then s1.modEvac (fun e => { e with rx := e.rx &&& rxMask, claiming := false, st := .idle })
  else s1.modEvac (fun e => { e with rx := e.rx &&& 0xFFFFFFFFFFFFFFFE#64 })
def execEvacArm (s : State) : Out := .next (s.writeRx (s.arg.w ||| 1#64))
def execEvacDisarm (s : State) : Out := .next (s.writeRx (s.arg.w &&& 0xFFFFFFFFFFFFFFFC#64))
def execEvacAdopt (s : State) : Out := .next (s.writeRx (s.arg.w ||| 2#64))

/-- EVAC_OFFER: package `idx`, whose MEM.ILV.G is `ok`, offers its evacuation. -/
def execEvacOffer (s : State) : Out :=
  let e := s.hub.evac
  let known := e.st == .armed && e.from == s.arg.idx
  let same := s.hub.ilvG == s.arg.ok
  .next (s.put outOfferAnswer s.arg.idx (if known && same then 0 else 1) [BitVec.ofNat 8 (bit (known && !same) 0)])

/-- EVAC_CLAIM: an evacuee in READY grants the claim of its receiver and is RELEASED; any other denies it. -/
def execEvacClaim (s : State) : Out :=
  let grant := s.hub.evac.st == .ready && s.hub.evac.pkg == s.arg.idx
  let s1 : State := if grant then s.modEvac (fun e => { e with st := .released }) else s
  .next (s1.put outClaimAnswer s.arg.idx (if grant then 0 else 1) [])

/-- Bits of XLT.CTXBASE, and of a notify slot, that are not RZ (R88, R336). -/
def baseMask : Word := 0xFFFFFFFFFF0001#64
/-- Bits of a host window's second word that are not RZ (R421), and of an entry of IBR.RT (R150). -/
def windowMask : Word := 0xFFFFFFFFFFFF000F#64
def routeMask : Word := 0x1FF#64

/-- Registers of a die from the manifest (R437 step 3); RZ bits stay 0 (R12). -/
def State.adoptDie (s : State) (d rimg : Nat) : State :=
  let b := s.inbox (0x1000 + 0x400 * d) 0x400
  let rec_ (i : Nat) : Rec := Rec.ofImage (s.readLocal (rimg + 2 ^ 18 * d + 256 * i) 256) s.cycle
  s.modDie d (fun x => { x with
    ctxbase := mk64 b 0 &&& baseMask, trapvec := mk64 b 8, savebase := mk64 b 0x10, ovrBase := mk80 b 0x18 >>> 16 <<< 16, ovrSlots := uN b 0x28 4 % 2 ^ 20, sem := mk64 b 0x38
    dat := (List.range 32).map (fun n => (n, mk64 b (0x40 + 8 * n))), ntf := (List.range 16).map (fun n => (n, mk64 b (0x140 + 8 * n) &&& baseMask))
    recs := ((List.range 1024).map (fun i => (i, rec_ i))) })

/-- The overflow ring of a die, whose slots came with memory (R437): those that a resident record names are its own, and as many more hold spilled records as USED of the manifest says.
Which they are, and in what order they were spilled, stands in bytes that are not laid down (log 22). -/
def State.adoptRing (s : State) (d : Nat) : State :=
  let x := s.die d
  let used := leNat (s.inbox (0x102C + 0x400 * d) 4) % 2 ^ 20
  let slot (j : Nat) : List Byte := match (s.xlateSpan (agent d 0) (x.ovrBase + BitVec.ofNat 80 (256 * j)) 256 .load false).2 with
    | .ok l => l.map (fun o => match o.loc with | .mem k => s.byte k | _ => 0)
    | .error _ => []
  let own := x.recs.filterMap (fun q => if q.2.st = 0 then none else q.2.ringIdx.map (fun j => (j, q.2)))
  let key (j : Nat) : Nat := (Config.internal ((slot j).drop 128) 0).toNat
  let rest := (sortBy (fun a b => decide (key a < key b)) ((List.range x.ovrSlots).filter (fun j => own.all (fun q => q.1 != j)))).take (used - own.length)
  let t := own.foldl (fun t q => tset t q.1 { q.2 with st := 2, gen := q.2.handle / 2 ^ 32 }) []
  s.modDie d (fun y => { y with ring := rest.foldl (fun t j => tset t j (Rec.ofRing (slot j) d j s.nextId)) t })

/-- Steps 3 and 4 of R437. -/
def State.takeOver (s : State) : State :=
  let rimg := leNat (s.inbox 0x18 8) % 2 ^ 30 * 65536
  let s1 := (List.range 16).foldl (fun s d => (s.adoptDie d rimg).keepTlb d (fun _ => false)) s
  let s2 := s1.modHub (fun h => { h with
    pkgid := BitVec.ofNat 10 h.evac.from, tlb := [], ctxbase := mk64 (s.inbox 0x9000 8) 0 &&& baseMask
    win := (List.range 256).map (fun n => let b := s.inbox (0x5000 + 32 * n) 32; (n, { base := mk64 b 0, key := mk64 b 8 &&& windowMask, npg := mk64 b 16 &&& 0xFFFFFFFF#64 }))
    rt := (List.range 1024).map (fun n => (n, mk64 (s.inbox (0x7000 + 8 * n) 8) 0 &&& routeMask)) })
  let s3 := (List.range 16).foldl State.adoptRing s2
  (s3.freezeAll false).modEvac (fun e => { e with st := .adopted, rx := e.rx &&& rxMask, claiming := false })

/-- The answer to a CLAIM (R437 step 2). -/
def State.claimed (s : State) (grant : Bool) : State :=
  if !s.hub.evac.claiming then s
  else if grant then s.takeOver else s.modEvac (fun e => { e with st := .refused, err := 9, claiming := false })
def execEvacClaimAnswer (s : State) : Out := .next (s.claimed s.arg.ok)

/-- EVAC_CLAIM_TIMEOUT: silence counts as DENY, but as GRANT where every link to the evacuee is DOWN. -/
def execEvacClaimTimeout (s : State) : Out :=
  let l := (List.range 8).filter (fun i => (s.link (64 + i)).peer == s.hub.evac.from)
  .next (s.claimed (!l.isEmpty && l.all (fun i => (s.link (64 + i)).down)))

end Sys2Proof.Machine
end

