-- ==== Sys2Proof/Machine/Service.lean ====
section
/-! DEFINITION. Reset and boot (R427, R428), measurements and attestation (R429), management (R430), the identity EEPROM (R431), and power (R439). -/
namespace Sys2Proof.Machine
open Sys2Proof

def outSpdm : Nat := 3
def outPldm : Nat := 4
def outEeprom : Nat := 12

/-! Images (R428). -/
/-- The first failing condition of an image's acceptance, 0 where it is accepted (log 23). -/
def imageError (b : List Byte) : Nat :=
  let part (o n : Nat) : List Byte := (b.drop o).take n
  let key := u8 b 8
  if 4 ≤ key ∨ Config.fuseRevoked key then 1
  else if Config.sha384 (part 64 96) ≠ Config.fuseKeyHash key then 2
  else if uN b 12 4 < Config.fuseMinVersion then 3
  else if Config.sha384 (part 512 (uN b 4 4)) ≠ part 16 48 then 4
  else if !Config.ecdsaOk (part 64 96) (part 0 384) (part 384 96) then 5
  else 0

/-- Extends a measurement register (R429). -/
def extend (m digest : List Byte) : List Byte := Config.sha384 (padTo 48 m ++ digest)

/-- Bytes of a flash bank. -/
def flashRead (l : List (Nat × Byte)) (o n : Nat) : List Byte := memRead l o n

/-- The package after power-on or RESET: every register at its reset value; the flash, the identity EEPROM, the LP6 groups present and the package's own number are not registers
and stay (log 24). -/
def State.restart (s : State) (powered : Bool) : State :=
  { State.reset with
    agenda := s.agenda, arg := s.arg, draw := s.draw, outbox := s.outbox
    hub := { pkgid := s.hub.ownPkg, ownPkg := s.hub.ownPkg, lp6 := s.hub.lp6, eepromFitted := s.hub.eepromFitted, bank0 := s.hub.bank0, bank1 := s.hub.bank1, active := s.hub.pendActive
             pendActive := s.hub.pendActive, eeprom := s.hub.eeprom, powered := powered } }

/-- A stage of the boot fails with a cause and halts it (R427). -/
def State.bootHalt (s : State) (stage cause : Nat) : State := s.modHub (fun h => { h with bootStage := stage, bootCause := cause })

/-- Stages 3 to 5 of R427 as far as the hub records them: the die firmware image that the hub firmware presents (`data`) is verified and measured, and a stage that fails (`len`, with its
cause `w`) halts the boot. An event that presents no image leaves the loading to the controller's writes, and the digest that register 2 takes is free (R429; log 24). -/
def State.bootFirmware (s : State) : State :=
  let err := imageError s.arg.data
  if !s.arg.data.isEmpty ∧ err ≠ 0 then s.bootHalt 3 err
  else
    let digest := if s.arg.data.isEmpty then leBytes 32 s.freeVal.toNat ++ leBytes 16 s.drawn.freeVal.toNat else (s.arg.data.drop 16).take 48
    let s1 := if s.arg.data.isEmpty ∧ s.arg.len = 3 then s else s.drawn.drawn.modHub (fun h => { h with meas := tset h.meas 2 (extend [] digest) })
    if 3 ≤ s.arg.len ∧ s.arg.len ≤ 5 then s1.bootHalt s.arg.len (s.arg.w.toNat % 256) else s1

/-- The boot of R427. Stage 1, the hub's self-test, fails where the event says so (`len` = 1); in stage 2 the ROM verifies the hub firmware image in the active bank and extends
the measurements; register 3 follows in stage 4, which writes LMAP. -/
def State.boot (s : State) : State :=
  let bank := if s.hub.active then s.hub.bank1 else s.hub.bank0
  let hdr := flashRead bank 0 512
  let img := hdr ++ flashRead bank 512 (uN hdr 4 4)
  let m0 := extend [] Config.romDigest
  let err := imageError img
  if s.arg.len = 1 then s.bootHalt 1 (s.arg.w.toNat % 256)
  else if err ≠ 0 then (s.modHub (fun h => { h with meas := [(0, m0)], idKey := Config.identityKey })).bootHalt 2 err
  else (s.modHub (fun h => { h with meas := [(0, m0), (1, extend [] ((hdr.drop 16).take 48))], idKey := Config.identityKey })).bootFirmware

/-- What the board carries (R3), as the operands of RESET tell: with `flag` set, the LP6 groups of `idx` are populated and train, and the identity EEPROM is fitted where `ok`
says so; otherwise the board stays as it is. -/
def State.board (s : State) : State := if s.arg.flag then s.modHub (fun h => { h with lp6 := s.arg.idx % 16, eepromFitted := s.arg.ok }) else s

/-- RESET (R427): the package starts anew and boots; what the firmware of stages 3 to 5 writes into memory and registers comes by the controller's accesses and by ordinary
instructions (log 24). -/
def execReset (s : State) : Out := .next (s.board.restart true).boot

/-- BLADE_PULL: the blade loses power; only what needs none stays (R431, R437). -/
def execBladePull (s : State) : Out := .next (s.restart false)

/-- BOOT.STAT (R427). -/
def Hub.bootStat (h : Hub) : Word := BitVec.ofNat 64 (h.bootStage % 16 + h.bootCause % 256 * 2 ^ 8 + h.lp6 % 16 * 2 ^ 16)

/-- Register 3 takes the fuse state and LMAP once, when stage 4 ends: it enables translation at the hub (R427, R429; DEDUCED, log 24). -/
def State.measureMap (s : State) : State :=
  if (tget [] s.hub.meas 3).isEmpty then s.modHub (fun h => { h with meas := tset h.meas 3 (extend [] (Config.fuseDigest ((List.range 32).map (fun p => (s.core p).lmap)))) }) else s
/-- Firmware extends one of its registers, 4 to 7 (R429). -/
def State.measure (s : State) (n : Nat) (digest : List Byte) : State :=
  if 4 ≤ n ∧ n < 8 then s.modHub (fun h => { h with meas := tmod [] h.meas n (fun m => extend m digest) }) else s

/-! Attestation (R429). What SPDM lays down beyond the measurement registers is a free value (log 13). -/
def State.spdm (s : State) (code : Nat) (pre : List Byte) : State := s.drawn.put outSpdm s.hub.eid.toNat code (pre ++ Config.spdmReply code s.draw s.hub.idKey s.arg.data)
def execGetVersion (s : State) : Out := .next (s.spdm 0x84 [])
def execGetCapabilities (s : State) : Out := .next (s.spdm 0xE1 [])
def execNegotiateAlgorithms (s : State) : Out := .next (s.spdm 0xE3 [])
def execGetDigests (s : State) : Out := .next (s.spdm 0x81 [])
def execGetCertificate (s : State) : Out := .next (s.spdm 0x82 [])
def execChallenge (s : State) : Out := .next (s.spdm 0x83 [])
/-- GET_MEASUREMENTS: the eight registers stand first in the answer. -/
def execGetMeasurements (s : State) : Out := .next (s.spdm 0xE0 ((List.range 8).flatMap (fun n => padTo 48 (tget [] s.hub.meas n))))

/-! Management (R430). -/
def EvRec.bytes (e : EvRec) : List Byte := leBytes 4 e.src ++ leBytes 4 e.seq ++ leBytes 8 e.time ++ leBytes 4 e.what ++ leBytes 8 e.arg
/-- Sensor word of R439. -/
def Hub.sensors (h : Hub) : Word := BitVec.ofNat 64 (h.tmax.toNat * 2 ^ 32 + h.pkgw.toNat * 2 ^ 16 + bit h.throt 0)

/-- PLDM_PLATFORM_MONITORING: sensors, power limit and BOOT.STAT, and the oldest event record not yet delivered (R404, R430). -/
def execPldmPlatformMonitoring (s : State) : Out :=
  let pre := le8 s.hub.sensors ++ leBytes 8 s.hub.cap.toNat ++ le8 s.hub.bootStat ++ ((s.events.head?.map (·.bytes)).getD [])
  .next (({ s with events := s.events.drop 1 } : State).drawn.put outPldm s.hub.eid.toNat 0 (pre ++ Config.pldmReply s.draw s.arg.data))

/-- PLDM_FIRMWARE_UPDATE: bytes go into the inactive bank; activation waits for the next reset (R430). -/
def execPldmFirmwareUpdate (s : State) : Out :=
  let l := s.arg.data.zipIdx.map (fun (b, i) => (s.arg.off + i, b))
  .next (s.modHub (fun h =>
    let h1 : Hub := if h.active then { h with bank0 := memSetMany h.bank0 l } else { h with bank1 := memSetMany h.bank1 l }
    { h1 with pendActive := if s.arg.flag then !h.active else h.pendActive }))

/-- ENDPOINT_IDENTIFIER_ASSIGN: the bus owner names the device (R430). -/
def execEndpointIdentifierAssign (s : State) : Out := .next (s.modHub (fun h => { h with eid := s.arg.w.setWidth 8 }))

/-! The identity EEPROM (R431). -/
def Hub.eepromAt (h : Hub) (o : Nat) : Byte := if 512 ≤ o then 0xFF else tget 0 h.eeprom o
/-- EEPROM_READ: one byte, power or none; a board without the EEPROM answers nothing (R3). -/
def execEepromRead (s : State) : Out := below s.arg.off 4096 (if s.hub.eepromFitted then s.put outEeprom s.arg.off 0 [s.hub.eepromAt s.arg.off] else s)
/-- EEPROM_WRITE: the management controller writes bytes 256 to 511 of a powered blade. -/
def execEepromWrite (s : State) : Out :=
  below s.arg.off 4096 (
    if 256 ≤ s.arg.off ∧ s.arg.off < 512 ∧ s.hub.powered then s.modHub (·.putEeprom s.arg.off (s.arg.w.setWidth 8)) else s)

/-! Power and temperature (R439). -/
/-- THERMAL_THROTTLE: new readings of the hottest die and of package power decide whether issue is throttled. -/
def execThermalThrottle (s : State) : Out :=
  .next (s.modHub (fun h => { h with tmax := s.arg.w.setWidth 16, pkgw := s.arg.w2.setWidth 16 }.throttle))

end Sys2Proof.Machine
end

