-- ==== Sys2Proof/Machine/Registers.lean ====
section
/-! DEFINITION. The device register blocks (R84, R87): what each offset reads and what a write of it does, the invalidation of translations
(R96), MEM.ILV (R86), and the untranslated accesses of the management controller (R101). -/
namespace Sys2Proof.Machine
open Sys2Proof

/-! Reads. -/
/-- Status word of a link; FENCED of a mesh port says that its neighbour is fenced or unreachable through it (R149, R151, R153). -/
def Link.word (l : Link) (b3 : Bool) : Nat := l.swaps * 2 ^ 16 + l.shadow * 2 ^ 8 + bit b3 3 + bit l.half 2 + bit l.train 1 + bit l.up 0
def Link.reg (l : Link) (word0 : Nat) (o : Nat) : Nat :=
  match o with | 0 => word0 | 8 => l.crcerr | 0x10 => l.retry | 0x18 => l.thr.toNat | 0x20 => l.retrains | _ => 0
def State.portReg (s : State) (d p o : Nat) : Nat :=
  let l : Link := tget {} (s.die d).port p
  if !portExists d p ∨ 0x20 ≤ o then 0 else l.reg (l.word (l.down || s.hub.fset.testBit (portNext d p))) o
def State.ibrosReg (s : State) (d o : Nat) : Nat :=
  let l := (s.die d).ibros
  if edgeDies.contains d then l.reg (l.word l.down + l.peer * 2 ^ 24) o else 0

/-- Dies with a Catalogue unit (R7, R107). -/
def catDies : List Nat := [0, 3, 12, 15]
/-- Scheduler status (R337). -/
def Die.schedStat (d : Die) : Nat :=
  let n (p : Rec → Bool) : Nat := (d.recs.filter (fun q => p q.2)).length
  n (fun r => r.st == 3) * 2 ^ 32 + n (fun r => decide (4 ≤ r.st)) * 2 ^ 11 + n (fun r => r.st != 0)
/-- Fault record queue status of a core (R381). -/
def Core.frqStat (c : Core) : Nat := c.frq.length + bit (c.harts.any (fun q => (q.2.map (fun h => !h.stall29.isEmpty)).getD false)) 7

def State.invStat (s : State) (b : Nat) : Nat :=
  if b < 16 then bit (s.die b).inverr 1 + bit (s.die b).inv.isSome 0 else bit s.hub.inverr 1 + bit s.hub.inv.isSome 0
def State.witReg (s : State) (b o : Nat) : Nat :=
  let w := s.wit b
  match o with
  | 0 => w.prob * 2 ^ 32 + w.pend * 2 ^ 16 + (if b < 16 then s.fenceView b else s.hub.fset)
  | 8 => s.time / 8000
  | 0x10 => w.late
  | 0x18 => w.bthr.toNat
  | _ => 0

/-- A register of a die's block. -/
def State.dieReg (s : State) (d off : Nat) : Nat :=
  let x := s.die d
  let lo := off % 0x10000
  match off / 0x10000 with
  | 0 => match lo with
    | 0 => x.ctxbase.toNat | 0x10 => s.invStat d | 0x18 => x.invva.toNat | 0x200 => x.boot.toNat | _ => 0
  | 1 => if catDies.contains d then (match lo with | 0 => x.slotbase.toNat | 8 => x.done.toNat | _ => 0) else 0
  | 2 => if lo < 0x400 then s.portReg d (lo / 0x100) (lo % 0x100) else 0
  | 3 => s.ibrosReg d lo
  | 5 => if lo < 0x80 then (tget 0 x.ntf (lo / 8)).toNat else match lo with
    | 0x80 => bit x.hold 1 + bit x.freeze 0 | 0x88 => x.schedStat | _ => 0
  | 6 => match lo with
    | 0 => x.trapvec.toNat | 8 => x.savebase.toNat | 0x10 => x.savestat.toNat | 0x18 => (s.core (2 * d)).frqStat | 0x20 => (s.core (2 * d + 1)).frqStat
    | _ => 0
  | 7 => match lo with | 0 => x.chkErr.toNat | 8 => x.chkMark.toNat | 0x10 => x.chkLast.toNat | _ => 0
  | 8 => s.witReg d lo
  | _ => 0

/-- A register of the hub's block. -/
def State.hubReg (s : State) (off : Nat) : Nat :=
  let h := s.hub
  let lo := off % 0x10000
  match off / 0x10000 with
  | 0 => match lo with
    | 0 => h.ctxbase.toNat | 0x10 => s.invStat 16 | 0x18 => h.invva.toNat | 0x100 => h.pkgid.toNat | 0x108 => bit h.ilvErr 1 + bit h.ilvG 0 | _ => 0
  | 4 => if lo < 0x2000 then (tget 0 h.rt (lo / 8)).toNat else 0
  | 8 => if lo = 0x100 then h.trem * 2 ^ 32 + h.frem else s.witReg 16 lo
  | 9 =>
    if lo < 0x2000 then
      let w : Window := tget {} h.win (lo / 32)
      (match lo % 32 with | 0 => w.base.toNat | 8 => w.key.toNat | 0x10 => w.npg.toNat | _ => 0)
    else match lo with | 0x2000 => h.nakAcc.toNat | 0x2008 => h.nakOp.toNat | 0x2010 => h.nakInv.toNat | 0x3000 => s.time | _ => 0
  | 0xA => match lo with | 0 => h.evac.cfg.toNat | 8 => s.evacStat.toNat | 0x18 => h.evac.rx.toNat | _ => 0
  | 0xB => match lo with | 0 => h.sensors.toNat | 8 => h.cap.toNat | _ => 0
  | 0xC => leNat (s.inbox lo 8)
  | _ => 0

/-- An aligned 8-byte read of a block (16: the hub). -/
def State.regRead (s : State) (b off : Nat) : Word := BitVec.ofNat 64 (if b < 16 then s.dieReg b off else s.hubReg off)
/-- A read of the broadcast block: the OR of the dies' XLT.INVSTAT, and zero elsewhere (R84, R96). -/
def State.bcastRead (s : State) (off : Nat) : Word :=
  if off = 0x10 then (List.range 16).foldl (fun w d => w ||| BitVec.ofNat 64 (s.invStat d)) 0 else 0

/-! Invalidation (R96). -/
/-- XLT.INV: the cached translations named leave at once; BUSY stands until what used them is done. -/
def State.xltInv (s : State) (b : Nat) (w : Word) : State :=
  let kind := fldN w 17 16
  let busy := if b < 16 then (s.die b).inv.isSome else s.hub.inv.isSome
  if kind = 3 ∨ busy then (if b < 16 then s.modDie b (fun d => { d with inverr := true }) else s.modHub (fun h => { h with inverr := true }))
  else
    let va := if b < 16 then (s.die b).invva else s.hub.invva
    let s1 := s.keepTlb b (fun t => !invalidates kind (fldN w 15 0) (va.toNat * 65536) (fldN w 33 18) t)
    if b < 16 then s1.modDie b (fun d => { d with inv := some w }) else s1.modHub (fun h => { h with inv := some w })
def execXltInv (s : State) : Out := below s.arg.blk 17 (s.xltInv s.arg.blk s.arg.w)

/-- INVALIDATION_DONE: no write is on its way to its home moment, no command and no scalar access of the die is under way, and its vector loads have been performed, so BUSY returns to 0; at the port, once no message that it has translated is still to be performed. -/
def State.invDone (s : State) (b : Nat) : State :=
  if s.pw.any (fun w => w.phase == 0) then s
  else if b < 16 then
    (if (s.die b).eng.all (fun q => q.2.cmds.isEmpty) ∧ s.dies.all (fun x => x.2.cat.all (fun c => c.die != b)) ∧ (s.die b).catAway.isEmpty
      ∧ [2 * b, 2 * b + 1].all (fun p => (s.core p).harts.all (fun q => (q.2.map (fun h => !h.remoteReq)).getD true)) then
        ((s.modDie b (fun d => { d with inv := none })).modCore (2 * b) Core.performed).modCore (2 * b + 1) Core.performed
      else s)
  else if s.hub.qps.any (fun q => q.2.msgs.any (fun m => m.oks.isSome)) then s
  else s.modHub (fun h => { h with inv := none })
def execInvalidationDone (s : State) : Out := below s.arg.blk 17 (s.invDone s.arg.blk)

/-! Writes. -/
/-- MEM.ILV (R86). -/
def State.writeIlv (s : State) (w : Word) : State :=
  s.modHub (fun h =>
    if h.ilvLock then { h with ilvErr := !w.getLsbD 1 }
    else { h with ilvG := w.getLsbD 0, ilvErr := h.ilvErr && !w.getLsbD 1 })
def execMemIlvWrite (s : State) : Out := .next (s.writeIlv s.arg.w)

/-- XLT.CTXBASE (R88); with translation enabled at the hub, stage 4 of the boot ends (R427). -/
def State.writeCtxbase (s : State) (b : Nat) (w : Word) : State :=
  let v := w &&& baseMask
  if b < 16 then s.modDie b (fun d => { d with ctxbase := v })
  else (if w.getLsbD 0 then s.measureMap else s).modHub (fun h => { h with ctxbase := v })
def execXltCtxbaseWrite (s : State) : Out := below s.arg.blk 17 (s.writeCtxbase s.arg.blk s.arg.w)

/-- A record of the die is in states 4 to 7 (R381). -/
def Die.placedAny (d : Die) : Bool := d.recs.any (fun q => decide (4 ≤ q.2.st))

/-- A write of a register of a die's block. -/
def State.writeDie (s : State) (d off : Nat) (w : Word) : State :=
  let lo := off % 0x10000
  match off / 0x10000 with
  | 0 => match lo with
    | 0 => s.writeCtxbase d w
    | 8 => s.xltInv d w
    | 0x10 => s.modDie d (fun x => { x with inverr := x.inverr && !w.getLsbD 1 })
    | 0x18 => s.modDie d (fun x => { x with invva := w })
    | 0x200 => s.writeBoot d w
    | _ => s
  | 1 => if catDies.contains d ∧ lo = 0 then s.modDie d (fun x => { x with slotbase := w &&& 0xFFFFFFFFFFC001#64 }) else s
  | 2 => if lo < 0x400 ∧ lo % 0x100 = 0x18 ∧ portExists d (lo / 0x100) then s.modDie d (fun x => { x with port := tmod {} x.port (lo / 0x100) (fun l => { l with thr := w.setWidth 8 }) }) else s
  | 3 => if lo = 0x18 ∧ edgeDies.contains d then s.modDie d (fun x => { x with ibros := { x.ibros with thr := w.setWidth 8 } }) else s
  | 5 =>
    if lo < 0x80 ∧ lo % 8 = 0 then s.modDie d (fun x => { x with ntf := tset x.ntf (lo / 8) (w &&& baseMask) })
    else if lo = 0x80 then s.writeSched d w else s
  | 6 => match lo with
    | 0 => s.modDie d (fun x => { x with trapvec := w })
    | 8 => s.modDie d (fun x => if x.placedAny then x else { x with savebase := w })
    | 0x10 => s.writeSaveStat d w
    | _ => s
  | 8 => if lo = 0x18 then s.modWit d (fun x => { x with bthr := w.setWidth 8 }) else s
  | _ => s

/-- A write of a register of the hub's block. -/
def State.writeHub (s : State) (off : Nat) (w : Word) : State :=
  let lo := off % 0x10000
  match off / 0x10000 with
  | 0 => match lo with
    | 0 => s.writeCtxbase 16 w
    | 8 => s.xltInv 16 w
    | 0x10 => s.modHub (fun h => { h with inverr := h.inverr && !w.getLsbD 1 })
    | 0x18 => s.modHub (fun h => { h with invva := w })
    | 0x108 => s.writeIlv w
    | _ => s
  | 4 => if lo < 0x2000 ∧ lo % 8 = 0 then s.modHub (fun h => { h with rt := tset h.rt (lo / 8) (w &&& routeMask) }) else s
  | 8 => if lo = 0x18 then s.modWit 16 (fun x => { x with bthr := w.setWidth 8 }) else s
  | 9 =>
    if lo < 0x2000 then s.modHub (fun h => { h with win := tmod {} h.win (lo / 32) (fun x => match lo % 32 with
      | 0 => { x with base := w } | 8 => { x with key := w &&& windowMask } | 0x10 => { x with npg := w &&& 0xFFFFFFFF#64 } | _ => x) })
    else s
  | 0xA => match lo with | 0 => s.writeEvac w | 0x18 => s.writeRx w | _ => s
  | 0xB => if lo = 8 then s.modHub (fun h => { h with cap := w.setWidth 16 }.throttle) else s
  | 0xC => s.commit (bytesAt (manifestKey + lo) 8 w.toNat) false
  | _ => s

/-- An aligned 8-byte write of a block (16: the hub). -/
def State.regWrite (s : State) (b off : Nat) (w : Word) : State := if b < 16 then s.writeDie b off w else s.writeHub off w
/-- A write of the broadcast block reaches the same offset on dies 0 to 15 (R84). -/
def State.bcastWrite (s : State) (off : Nat) (w : Word) : State := (List.range 16).foldl (fun s d => s.writeDie d off w) s

/-- REGISTER_WRITE (R12, R87). -/
def execRegisterWrite (s : State) : Out := below s.arg.blk 17 (if s.arg.off % 8 = 0 then s.regWrite s.arg.blk s.arg.off s.arg.w else s)

/-! The management controller (R87, R101). -/
def outAccess : Nat := 11
/-- Bytes that the controller reads at a local address: memory as it stands, or one aligned 8-byte register; anything else reads zero. -/
def State.ctlRead (s : State) (a n : Nat) : List Byte :=
  match s.loc a with
  | .reg b off => if n = 8 ∧ off % 8 = 0 then le8 (s.regRead b off) else List.replicate n 0
  | .bcast off => if n = 8 ∧ off % 8 = 0 then le8 (s.bcastRead off) else List.replicate n 0
  | _ => s.readLocal a n
/-- A write by the controller. -/
def State.ctlWrite (s : State) (a : Nat) (b : List Byte) : State :=
  match s.loc a with
  | .reg k off => if b.length = 8 ∧ off % 8 = 0 then s.regWrite k off (BitVec.ofNat 64 (leNat b)) else s
  | .bcast off => if b.length = 8 ∧ off % 8 = 0 then s.bcastWrite off (BitVec.ofNat 64 (leNat b)) else s
  | _ => s.writeLocal a b
/-- MANAGEMENT_CONTROLLER_ACCESS: a write of `data`, or a read of `len` bytes, at local address `off`; with `flag` firmware extends measurement register `idx` by `data` (R429). Without
hub firmware, in a boot that stage 1 or 2 has halted, there is none of these, and a halted boot writes nothing more (R427). -/
def execManagementControllerAccess (s : State) : Out :=
  .next (if s.hub.bootStage = 1 ∨ s.hub.bootStage = 2 ∨ ((s.arg.flag ∨ s.arg.ok) ∧ s.hub.bootStage ≠ 0) then s
    else if s.arg.flag then s.measure s.arg.idx s.arg.data
    else if s.arg.ok then s.ctlWrite s.arg.off s.arg.data else s.put outAccess s.arg.off 0 (s.ctlRead s.arg.off s.arg.len))

end Sys2Proof.Machine
end

