-- ==== Sys2Proof/Machine/Mem.lean ====
section
/-! DEFINITION. Scalar memory instructions (R179, R180, R186), what the ordering qualifiers wait for (R177, R297), accesses to other
packages (R104, R153), and the moments at which writes become visible (R292, R298). -/
namespace Sys2Proof.Machine
open Sys2Proof

/-! Ordering (R177, R291, R297). -/
/-- A write with .rel at a scope may go ahead: the counter reads 0, and at domain or system scope every write that earlier loads returned is visible there. -/
def State.relReady (s : State) (h : Hart) (sc : Nat) : Bool := h.drained sc && (decide (sc < 4) || h.saw.all (s.visibleAt sc))
/-- A load with .acq at domain or system scope returns only writes visible there. -/
def State.acqReady (s : State) (sc : Nat) (ks : List Nat) : Bool := decide (sc < 4) || (s.seen ks).all (s.visibleAt sc)
/-- The hart remembers which writes its load returned while they are still on their way (R297). -/
def State.noteSeen (s : State) (ks : List Nat) : State :=
  s.modCur (fun h => { h with saw := (h.saw ++ s.seen ks).eraseDups.filter (fun i => s.pw.any (fun w => w.id == i)) })
/-- A read of the bytes must wait: the hart's own write to the granule is not visible yet (R291, R295), or .acq holds it. -/
def State.readWaits (s : State) (f : LM) (ks : List Nat) : Bool := s.ownPending ks || (f.acq && !s.acqReady f.sc.toNat ks)
/-- A device access must wait: an earlier one of the hart is not visible yet (R97, R295). -/
def State.deviceWaits (s : State) (h : Hart) (l : List XOk) : Bool := l.any (fun o => o.attr == 2) && s.anyLive h.devW
/-- The hart remembers the writes made since `s0`: of a device access, or of one with .acq, which its later accesses wait for (R177, R295). -/
def State.noteWrites (s s0 : State) (dev acq : Bool) : State :=
  let ids := List.range' s0.nextId (s.nextId - s0.nextId)
  let live (l : List Nat) : List Nat := l.filter (fun i => s.pw.any (fun w => w.id == i))
  s.modCur (fun h => { h with devW := live h.devW ++ (if dev then ids else []), acqW := live h.acqW ++ (if acq then ids else []) })

/-! Addresses and access (R102, R179). -/
/-- `scalar_ea`. -/
def Hart.ea (h : Hart) (f : LM) : VAddr :=
  if f.pi = 1 then h.oa f.a.toNat else h.oa f.a.toNat + (h.og f.x.toNat).setWidth 80 + f.off.signExtend 80
/-- The post-increment of a[base]. -/
def State.bump (s : State) (h : Hart) (f : LM) (extra : Nat := 0) : State :=
  if f.pi = 1 then s.wrA f.a.toNat (h.oa f.a.toNat + f.off.signExtend 80 + BitVec.ofNat 80 extra) else s
/-- Number of bytes as a power of two, rounded up (R105 SIZE). Of an element narrower than a byte it is the bytes touched that count, two where it spans two (DESIGN CHOICE, log 80). -/
def sizeLog (n : Nat) : Nat := if n ≤ 1 then 0 else Nat.log2 (n - 1) + 1

/-- A precise memory trap. -/
def State.memTrap (s : State) (cause : Nat) (va : VAddr) (acc : Acc) (n level : Nat) (unk : Bool) : State :=
  s.raise { cause := cause, va := va, info := trinfo acc (sizeLog n) level unk }

/-- The first byte of an access that lies in another package: its number, address and level. -/
def firstRemote (l : List XOk) : Option (Nat × Nat × Nat) :=
  (l.zipIdx.findSome? (fun (o, i) => match o.loc with | .remote pa => some (i, pa, o.level) | _ => none))

/-- The writes sent since identifier `n` to the granule of a place travel on marked (R401). -/
def State.markSent (s : State) (n : Nat) (o : Option XOk) : State :=
  match (o.map (fun o => o.loc) : Option Loc) with
  | some (.mem k) => { s with pw := s.pw.map (fun w => if n ≤ w.id ∧ w.bytes.any (fun b => b.1 / 64 == k / 64) then { w with mark := true } else w) }
  | _ => s

/-- A scalar access (R102, R104, R153): translated whole or faulting whole. One that reaches another package waits for the answer, and goes on with the bytes
that it brings and the places where it was sent, whatever becomes of its translation meanwhile (R96). A store or atomic whose answer is lost has taken effect whole or not at all, and
the spec leaves open which: on another die of this package the model takes it as not performed (DESIGN CHOICE, log 80). -/
def State.scalar (s : State) (h : Hart) (va : VAddr) (n : Nat) (acc : Acc) (k : State → List XOk → List Byte → State) : State :=
  let w := s.who s.issue.core h
  match h.remoteAns with
  | some ans =>
    let l := h.reqOks
    let i := l.findIdx (·.asks true (s.issue.core / 2))
    let lv := (l[i]?.map (·.level)).getD 15
    let s1 := s.modCur (·.answered)
    match ans with
    | .data b => k s1 l b
    | .bad j => if acc = .store then (k s1 l []).markSent s.nextId (l[j]?) else s.memTrap 0x1F (va + BitVec.ofNat 80 j) acc n lv false
    | .refusedByHome => if (firstRemote l).isSome then s.memTrap 0x19 (va + BitVec.ofNat 80 i) acc n lv false else k s1 l []
    | .lost => s.memTrap 0x19 (va + BitVec.ofNat 80 i) acc n lv true
  | none =>
    let s0 : State := { s with issue := { s.issue with walk := some (w, va, n, acc) } }
    match s0.xlateSpan w va n acc (n == 8 && va.toNat % 8 == 0 && acc != .atomic) with
    | (s, .error (a, x)) => if x.wait then s.stall else s.memTrap x.cause a acc n x.level x.unk
    | (s, .ok l) =>
      if s.deviceWaits h l then s.stall
      else match firstRemote l with
      | some (i, pa, lv) =>
        if s.hasRoute pa then ({ s with issue := { s.issue with ask := true, oks := l } } : State).stall else s.memTrap 0x19 (va + BitVec.ofNat 80 i) acc n lv false
      | none => if l.any (·.asks s.issue.far (s.issue.core / 2)) then ({ s with issue := { s.issue with ask := true, oks := l } } : State).stall else k s l []

/-- Byte i of what an access reads; `b` is what the other package answered. -/
def State.gotByte (s : State) (o : XOk) (i : Nat) (b : List Byte) : Byte :=
  match o.loc with
  | .mem k => s.byte k
  | .reg r off => (le8 (s.regRead r (off / 8 * 8))).getD (off % 8) 0
  | .bcast off => (le8 (s.bcastRead (off / 8 * 8))).getD (off % 8) 0
  | .remote _ => b.getD i 0
  | .hole => 0
def State.got (s : State) (l : List XOk) (b : List Byte) : List Byte := l.zipIdx.map (fun (o, i) => s.gotByte o i b)

/-- The first byte that lies in a bad granule, with its level (R171). -/
def State.badByte (s : State) (l : List XOk) : Option (Nat × Nat) :=
  l.zipIdx.findSome? (fun (o, i) => match o.loc with | .mem k => if s.badKey k then some (i, o.level) else none | _ => none)

/-- Sends the bytes of one store instruction, one write for each granule (R292, R399); the hart's own links to those granules break (R174). -/
def State.sendAll (s : State) (bs : List (Nat × Byte)) (marked : Nat → Bool) : State :=
  let gs := granules (bs.map (·.1))
  (gs.foldl (fun s g => let l := bs.filter (fun b => b.1 / 64 == g); s.send l l.length (marked g) false) s).modCur
    (fun h => { h with links := h.links.filter (fun l => !gs.contains l.2) })

/-- The name under which a link stands on a granule of another package. -/
def awayGran (pa : Nat) : Nat := 2 ^ 60 + pa / 64
/-- A store or atomic to granules of another package breaks every link of this package's harts to them (R174, R186). -/
def State.breakAway (s : State) (l : List XOk) : State :=
  let gs := l.filterMap (fun o => match o.loc with | .remote pa => some (awayGran pa) | _ => none)
  if gs.isEmpty then s else s.breakLinks none gs

/-- Bytes that a store puts where an access leads: a register, memory, or another package, which has acknowledged them. -/
def State.putBytes (s : State) (l : List XOk) (bs : List Byte) : State :=
  match (l.head?.map (fun o => o.loc) : Option Loc) with
  | some (.reg r off) => s.regWrite r off (BitVec.ofNat 64 (leNat bs))
  | some (.bcast off) => s.bcastWrite off (BitVec.ofNat 64 (leNat bs))
  | _ =>
    let here := (l.zip bs).filterMap (fun (o, b) => match o.loc with | .mem k => some (k, b) | _ => none)
    let away := l.length - here.length
    let s1 := s.sendAll here (fun _ => false)
    if away = 0 then s1 else (s1.send [] away false true).breakAway l

/-! Scalar loads and stores (R179 to R181). -/
/-- A load of n bytes that hands them on; LDA needs 16-byte alignment. -/
def scalarLoad (f : LM) (n : Nat) (s : State) (put : State → List Byte → State) : Out :=
  onHart s (fun h =>
    let va := h.ea f
    if n = 16 ∧ va.toNat % 16 ≠ 0 then s.memTrap 0x21 va .load n 15 false
    else s.scalar h va n .load (fun s l b =>
      if s.readWaits f (locKeys l) then s.stall
      else match s.badByte l with
      | some (i, lv) => s.memTrap 0x1F (va + BitVec.ofNat 80 i) .load n lv false
      | none => ((put s (s.got l b)).noteSeen (locKeys l)).bump h f))

/-- A store of bytes; STA needs 16-byte alignment. -/
def scalarStore (f : LM) (n : Nat) (s : State) (bytes : Hart → List Byte) : Out :=
  onHart s (fun h =>
    let va := h.ea f
    if n = 16 ∧ va.toNat % 16 ≠ 0 then s.memTrap 0x21 va .store n 15 false
    else if f.rel ∧ !s.relReady h f.sc.toNat then s.stall
    else s.scalar h va n .store (fun s l _ => ((s.putBytes l (bytes h)).noteWrites s (l.any (fun o => o.attr == 2)) f.acq).bump h f))

def loadInt (f : LM) (n : Nat) (signed : Bool) (s : State) : Out :=
  scalarLoad f n s (fun s b =>
    let x := leNat b % 2 ^ (8 * n)
    s.wrG f.t.toNat (if signed then BitVec.ofInt 64 (sintOf (8 * n) x) else BitVec.ofNat 64 x))
def storeInt (f : LM) (n : Nat) (s : State) : Out := scalarStore f n s (fun h => leBytes n (h.og f.t.toNat).toNat)

def execLdB (f : LM) (s : State) : Out := loadInt f 1 true s
def execLdH (f : LM) (s : State) : Out := loadInt f 2 true s
def execLdW (f : LM) (s : State) : Out := loadInt f 4 true s
def execLdD (f : LM) (s : State) : Out := loadInt f 8 true s
def execLduB (f : LM) (s : State) : Out := loadInt f 1 false s
def execLduH (f : LM) (s : State) : Out := loadInt f 2 false s
def execLduW (f : LM) (s : State) : Out := loadInt f 4 false s
def execStB (f : LM) (s : State) : Out := storeInt f 1 s
def execStH (f : LM) (s : State) : Out := storeInt f 2 s
def execStW (f : LM) (s : State) : Out := storeInt f 4 s
def execStD (f : LM) (s : State) : Out := storeInt f 8 s
/-- LDA takes bytes 0 to 9 of 16. -/
def execLda (f : LM) (s : State) : Out := scalarLoad f 16 s (fun s b => s.wrA f.t.toNat (mk80 b 0))
/-- STA writes the address and six zero bytes. -/
def execSta (f : LM) (s : State) : Out := scalarStore f 16 s (fun h => leBytes 10 (h.oa f.t.toNat).toNat ++ List.replicate 6 0)

/-! Scalar atomics (R186). -/
/-- A scalar atomic: `op` gives the new value from the old one and the operand at the width, none where nothing is written. -/
def amo (f : LM) (s : State) (op : Nat → Nat → Nat → Nat → Option Nat) : Out :=
  onHart s (fun h =>
    let n := if f.t.getLsbD 5 then 8 else 4
    let va := h.oa f.a.toNat + f.off.signExtend 80
    let x := (h.og f.x.toNat).toNat % 2 ^ (8 * n)
    if va.toNat % n ≠ 0 then s.memTrap 0x21 va .atomic n 15 false
    else if f.rel ∧ !s.relReady h f.sc.toNat then s.stall
    else s.scalar h va n .atomic (fun s l b =>
      let ks := locKeys l
      if s.readWaits f ks then s.stall
      else match s.badByte l with
        | some (i, lv) => s.memTrap 0x1F (va + BitVec.ofNat 80 i) .atomic n lv false
        | none =>
          let old := leNat (s.got l b) % 2 ^ (8 * n)
          let new := op (8 * n) old x ((h.og (f.t.toNat % 32)).toNat % 2 ^ (8 * n))
          let s1 : State := match new with
            | none => (s.breakLinks none (granules ks)).breakAway l
            | some v => if ks.isEmpty then (s.send [] n false true).breakAway l else s.sendHome ((l.zip (leBytes n v)).filterMap (fun (o, b) => match o.loc with | .mem k => some (k, b) | _ => none)) n false
          let r : Word := if n = 4 ∧ !f.t.getLsbD 6 then BitVec.ofInt 64 (sintOf 32 old) else BitVec.ofNat 64 old
          ((s1.noteWrites s false f.acq).wrG (f.t.toNat % 32) r).noteSeen ks))

/-- The lesser or greater of two values, signed unless U. -/
def amoPick (u : Bool) (less : Bool) (w old x : Nat) : Nat :=
  let lt : Bool := if u then decide (x < old) else decide (sintOf w x < sintOf w old)
  let gt : Bool := if u then decide (old < x) else decide (sintOf w old < sintOf w x)
  if less then (if lt then x else old) else (if gt then x else old)

def execAmoadd (f : LM) (s : State) : Out := amo f s (fun w old x _ => some ((old + x) % 2 ^ w))
def execAmomin (f : LM) (s : State) : Out := amo f s (fun w old x _ => some (amoPick (f.t.getLsbD 6) true w old x))
def execAmomax (f : LM) (s : State) : Out := amo f s (fun w old x _ => some (amoPick (f.t.getLsbD 6) false w old x))
def execAmoand (f : LM) (s : State) : Out := amo f s (fun _ old x _ => some (old &&& x))
def execAmoor (f : LM) (s : State) : Out := amo f s (fun _ old x _ => some (old ||| x))
def execAmoxor (f : LM) (s : State) : Out := amo f s (fun _ old x _ => some (old ^^^ x))
def execAmoswp (f : LM) (s : State) : Out := amo f s (fun _ _ x _ => some x)
/-- AMOCAS writes g[X] where the old value equals g[T]. -/
def execAmocas (f : LM) (s : State) : Out := amo f s (fun _ old x t => if old = t then some x else none)

/-! The answer of another package, and the walker (R153, R95). -/
/-- The first byte of an access in a granule of this package. -/
def firstIn (l : List XOk) (g : Nat) : Option Nat := l.findIdx? (fun o => match o.loc with | .mem k => k / 64 == g | _ => false)
/-- An uncorrectable error of another package names the first byte of its granule that the access covers (R171). -/
def awayFirst (l : List XOk) (j : Nat) : Bool :=
  match (l[j]?.map (fun o => o.loc) : Option Loc) with
  | some (.remote pa) => !(l.take j).any (fun o => match o.loc with | .remote q => q / 64 == pa / 64 | _ => false)
  | _ => false
/-- What an answer says of the access that waits for it, none where it can be no answer to it; `hop` names a granule that fails on its way (R401). An answer is lost only on the way from
another package, or where a fence cuts the request off. -/
def answerTo (l : List XOk) (hop : Option Nat) (a : Answer) : Option Answer :=
  match hop.bind (firstIn l) with
  | some j => some (.bad j)
  | none => match a with
    | .bad j => if awayFirst l j then some a else none
    | .lost => if (firstRemote l).isSome then some a else none
    | a => some a

/-- SCALAR_ACCESS_COMPLETE: the answer to the access that a hart waits for; a granule may fail its check value with it (R401). -/
def execScalarAccessComplete (s : State) : Out :=
  below s.arg.core 32 (s.checkFailure.modHart s.arg.core s.arg.slot (fun h =>
    if h.remoteReq ∧ h.remoteAns = none then { h with remoteAns := answerTo h.reqOks (hopOf s.arg) s.arg.ans } else h))

/-- TRANSLATION_WALK: a walk of a die's walker for an access of one of its two cores in context `idx`; A and D are set and the translation is cached (R94, R95). -/
def execTranslationWalk (s : State) : Out :=
  below s.arg.die 17 (s.xlate { die := s.arg.die, core := 2 * s.arg.die + s.arg.core % 2, ctx := s.arg.idx, fw := s.arg.idx == 0 } s.arg.va s.arg.acc false).1

/-! Moments of a write (R292, R298). -/
def PW.touches (a b : PW) : Bool := a.bytes.any (fun x => b.bytes.any (fun y => x.1 / 64 == y.1 / 64))

/-- Counted bytes of a hart become visible at scopes `lo` to `hi`, wherever the hart's counters are kept: with the die while the gang is saved or being restored (R145). -/
def State.uncountOf (s : State) (hart : Option (Nat × Nat)) (lo hi n : Nat) : State :=
  match hart with
  | none => s
  | some (q, pos) =>
    let d := q / 1024
    let i := q % 1024
    let r := s.gang d i
    match (if r.save.restore then none else (s.hartsOf r).find? (fun x => x.2.2.pos == pos)) with
    | some (p, h, _) => s.modHart p h (·.uncount lo hi n)
    | none => s.modGang d i (fun r => { r with keptPbc := tmod [] r.keptPbc pos (fun t => ({ pbc := t } : Hart).uncount lo hi n |>.pbc) })

/-- The bytes that a write puts in memory: those of which it keeps bits are merged with what stands there (R185). -/
def State.landing (s : State) (w : PW) : List (Nat × Byte) :=
  if w.keep.isEmpty then w.bytes
  else w.bytes.map (fun b => (b.1, match w.keep.find? (fun x => x.1 == b.1) with | some x => (s.byte b.1 &&& x.2) ||| b.2 | none => b.2))

/-- WRITE_HOME_MOMENT: the write reaches memory; its hart's earlier writes to the granule are visible in the whole system (R291, R295), and the writes that it is ordered after are
visible at their scope (R293). One to a fenced die never lands (R411). -/
def State.homeMoment (s : State) (id : Nat) : State :=
  match s.pw.find? (fun w => w.id == id) with
  | none => s
  | some w =>
    if w.phase ≠ 0 ∨ s.pw.any (fun v => v.hart == w.hart && decide (v.id < id) && v.touches w) ∨ !w.after.all (fun a => s.visibleAt a.2 a.1)
        ∨ w.bytes.any (fun b => decide (dieOfKey b.1 < 16) && s.hub.fset.testBit (dieOfKey b.1)) then s
    else ({ s.commit (s.landing w) w.mark none w.keep w.cov with
      pw := s.pw.filter (fun v => v.id != id) ++ [{ w with phase := 1, old := w.bytes.map (fun b => (b.1, s.byte b.1)) }] } : State).uncountOf w.hart 0 3 w.cnt
/-- A write fails its check value on the way from die `src` to die `d`, and travels on marked (R401). -/
def State.writeFails (s : State) (d src id : Nat) : State :=
  match s.pw.find? (fun w => w.id == id) with
  | some w =>
    if w.phase ≠ 0 ∨ 16 ≤ d then s
    else { s.hopFailure d src ((w.bytes.map (fun b => b.1 / 64)).headD 0) with pw := s.pw.map (fun v => if v.id = id then { v with mark := true } else v) }
  | none => s

/-- Answers to requests of other packages (log 21). -/
def outPeer : Nat := 13
/-- A request that arrives over Ibros is taken: not from step 3 of an evacuation on (R433), and while armed only writes of the evacuee to memory and to the manifest buffer
(R436). -/
def State.peerMay (s : State) (pkg : Nat) (write : Bool) (l : Loc) : Bool :=
  match s.hub.evac.st with
  | .armed => write && pkg == s.hub.evac.from && (match l with | .mem _ => true | .reg b o => b == 16 && decide (0xC0000 ≤ o) && decide (o < 0xD0000) | _ => false)
  | st => !st.bars

/-- Bytes that another package puts in memory are home at once and have their domain and system moments to come (log 41). -/
def State.peerPut (s : State) (bs : List (Nat × Byte)) (mark : Bool) : State :=
  { s.commit bs mark with nextId := s.nextId + 1, pw := s.pw ++ [{ id := s.nextId, bytes := bs, mark := mark, phase := 1, old := bs.map (fun b => (b.1, s.byte b.1)) }] }
/-- A write of another package: bytes of one granule, or a register, as the controller writes it (R87, R426). -/
def State.peerWrite (s : State) : State :=
  let a := s.arg
  match s.loc a.off with
  | .mem k => s.peerPut (bytesOn k a.data) a.ok
  | .reg _ o => if s.hub.evac.st = .armed then s.commit (bytesOn (manifestKey + o % 0x10000) a.data) false else s.ctlWrite a.off a.data
  | _ => s.ctlWrite a.off a.data
/-- What an atomic of another package writes over the old value of width w, by its opcode (R186, R371): operands x and t, unsigned where u says so. -/
def peerNew (op w : Nat) (u : Bool) (old x t : Nat) : Option Nat :=
  match op with
  | 0x20 => some ((old + x) % 2 ^ w)
  | 0x21 => some (amoPick u true w old x)
  | 0x22 => some (amoPick u false w old x)
  | 0x23 => some (old &&& x)
  | 0x24 => some (old ||| x)
  | 0x25 => some (old ^^^ x)
  | 0x26 => some x
  | 0x27 => if old = t then some x else none
  | 0x79 => if (x % 2 ^ 63 + 2 ^ 63 - old % 2 ^ 63) % 2 ^ 63 < 2 ^ 62 then some (x % 2 ^ 63) else none
  | _ => none
/-- A load or atomic of another package on `n` bytes of memory, answered with the bytes as they stood, or with cause 0x1F where their granule is bad (R186, R426). -/
def State.peerRmw (s : State) (k n : Nat) : State :=
  let a := s.arg
  let old := s.readAt k n
  let bs := (peerNew a.len (8 * n) (a.core == 1) (leNat old) (a.w.toNat % 2 ^ (8 * n)) (a.w2.toNat % 2 ^ (8 * n))).map (leBytes n)
  if s.badKey k then (s.verify [k / 64]).put outPeer a.idx 0x1F []
  else (match bs with
    | some b => s.peerPut (bytesOn k b) false
    | none => if a.len = 1 then s else s.breakLinks none [k / 64]).put outPeer a.idx 0 old
/-- A request of package `idx` arrives over an Ibros link that is UP: with len 0 a write of `data`, with 1 a load of `blk` bytes, else the atomic of opcode `len`, unsigned where `core` is 1;
it lies in one granule. One for a fenced die is dropped (R411); one that is not taken answers cause 0x19 at its requester (R433, R436). -/
def State.peerRequest (s : State) : State :=
  let a := s.arg
  let l := s.loc a.off
  let n := if a.len = 0 then a.data.length else a.blk
  if ¬ (a.link < 8 ∧ (s.link (64 + a.link)).up ∧ a.off % 64 + n ≤ 64) ∨ l.home.any s.hub.fset.testBit then s
  else if !s.peerMay a.idx (a.len == 0) l then s.put outPeer a.idx 0x19 []
  else if a.len = 0 then s.peerWrite.put outPeer a.idx 0 []
  else match l with
    | .mem k => s.peerRmw k n
    | _ => if a.len = 1 then s.put outPeer a.idx 0 (s.ctlRead a.off n) else s.put outPeer a.idx 0x19 []
/-- WRITE_HOME_MOMENT; with `flag` a request of another package arrives instead, and with `ok` the write fails at a hop on its way (R401). -/
def execWriteHomeMoment (s : State) : Out :=
  .next (if s.arg.flag then s.peerRequest else if s.arg.ok then s.writeFails s.arg.die s.arg.idx s.arg.id else s.homeMoment s.arg.id)

/-- Writes before one in the order of their home moments. -/
def homedBefore (l : List PW) (id : Nat) : List PW := (l.takeWhile (fun v => v.id != id))

/-- WRITE_DOMAIN_MOMENT: the write is visible in the whole domain. -/
def State.domainMoment (s : State) (id : Nat) : State :=
  match s.pw.find? (fun w => w.id == id) with
  | none => s
  | some w =>
    if w.phase ≠ 1 ∨ (homedBefore s.pw id).any (fun v => v.phase == 1 && v.touches w) ∨ !w.after.all (fun a => s.visibleAt a.2 a.1) then s
    else ({ s with pw := s.pw.map (fun v => if v.id = id then { v with phase := 2 } else v) } : State).uncountOf w.hart (if w.remote then 0 else 4) 4 w.cnt
def execWriteDomainMoment (s : State) : Out := .next (s.domainMoment s.arg.id)

/-- WRITE_SYSTEM_MOMENT: the write is visible to the host too. -/
def State.systemMoment (s : State) (id : Nat) : State :=
  match s.pw.find? (fun w => w.id == id) with
  | none => s
  | some w =>
    if w.phase ≠ 2 ∨ (homedBefore s.pw id).any (fun v => v.phase != 0 && v.touches w) then s
    else ({ s with pw := s.pw.filter (fun v => v.id != id) } : State).uncountOf w.hart 5 5 w.cnt
def execWriteSystemMoment (s : State) : Out := .next (s.systemMoment s.arg.id)

end Sys2Proof.Machine
end

