-- ==== Sys2Proof/Machine/VMem.lean ====
section
/-! DEFINITION. Vector memory instructions (06_load_store_unit.md, R182 to R188): MFC, address forms, conversion on the move, microscaled
blocks, compressed streams, element faults and open entries, poison, links, vector atomics and the grid drain. -/
namespace Sys2Proof.Machine
open Sys2Proof

/-! Elements and their translation. -/
/-- Address forms (R161). -/
inductive VForm where | unit | stride | seg | index
  deriving DecidableEq, Repr

/-- One element of one field: number, field (255 for the scale byte of its block), address, bytes it spans, bit offset. -/
structure El where
  e : Nat
  fl : Nat
  va : VAddr
  nb : Nat
  bo : Nat

/-- An element with what its translation gave. -/
structure Item where
  el : El
  res : Except (VAddr × XFault) (List XOk)

def Item.ok (i : Item) : Option (List XOk) := match i.res with | .ok l => some l | .error _ => none
def Item.bad (i : Item) : Option (VAddr × XFault) := match i.res with | .ok _ => none | .error x => some x

/-- The answer to the access that the hart in issue waits for is lost (R153, R415). -/
def State.lostReq (s : State) : Bool := (s.cur.map (fun h => h.remoteAns == some .lost)).getD false

/-- Translates one element; what another package answers is free (R104, R153; log 8). An element that had left for a die fenced since may have taken effect there (R415). -/
def State.vxlate (s : State) (w : Who) (va : VAddr) (n : Nat) (acc : Acc) : State × Except (VAddr × XFault) (List XOk) :=
  match s.xlateSpan w va n acc false with
  | (s, .error (a, x)) => (s, .error (a, { x with unk := x.unk || (x.cause == 0x19 && s.lostReq) }))
  | (s, .ok l) =>
    match firstRemote l with
    | none => (s, .ok l)
    | some (i, pa, lv) =>
      let x : XFault := { cause := 0x19, level := lv }
      let a := va + BitVec.ofNat 80 i
      if !s.hasRoute pa then (s, .error (a, x))
      else if s.freeVal.toNat % 3 = 0 then (s.drawn, .ok l)
      else (s.drawn, .error (a, { x with unk := s.freeVal.toNat % 3 == 2 }))

/-- Judges elements in order (R103, R165, R193): alignment, then translation. With .ord the first that fails ends the instruction; a scale byte that fails fails
its block (`skip` is that block's number plus 1). -/
def State.plan (w : Who) (acc : Acc) (ord : Bool) (align : Nat) : List El → State → Nat → State × List Item
  | [], s, _ => (s, [])
  | x :: r, s, skip =>
    if x.e / 32 + 1 = skip ∧ x.fl ≠ 255 then State.plan w acc ord align r s skip
    else
      let q : State × Except (VAddr × XFault) (List XOk) :=
        if x.va.toNat % align ≠ 0 then (s, .error (x.va, { cause := 0x21 })) else s.vxlate w x.va x.nb acc
      let i : Item := { el := x, res := q.2 }
      match i.bad with
      | none => let t := State.plan w acc ord align r q.1 skip; (t.1, i :: t.2)
      | some _ =>
        if ord then (q.1, [i])
        else let t := State.plan w acc ord align r q.1 (if x.fl = 255 then x.e / 32 + 1 else skip); (t.1, i :: t.2)

/-- What a vector access works on: the queue-side format, the element and field counts, the governing mask (R156). Fields of a segment store whose entries differ in
format have theirs in `fmts`. -/
structure VJob where
  fmt : Fmt
  ne : Nat
  fN : Nat := 1
  mask : Mask
  fmts : List Fmt := []

/-- The cell of an element, and its number of cells (R156). -/
def cellOf (f : Fmt) (e : Nat) : Nat := if f = .bx then 8 * e else e / f.perCell
def cellsPer (f : Fmt) : Nat := if f = .bx then 8 else 1
def VJob.fmtOf (j : VJob) (fl : Nat) : Fmt := j.fmts.getD fl j.fmt
def VJob.active (j : VJob) (fl e : Nat) : Bool := j.mask.getLsbD (cellOf (j.fmtOf fl) e)
/-- Elements that are active in some field. -/
def VJob.actives (j : VJob) : List Nat := (List.range j.ne).filter (fun e => (List.range j.fN).any (fun fl => j.active fl e))
/-- Active elements that were not performed, with their field. -/
def VJob.left (j : VJob) (items : List Item) : List (Nat × Nat) :=
  j.actives.flatMap (fun e => ((List.range j.fN).filter (fun fl => j.active fl e && !items.any (fun i => i.el.e == e && i.el.fl == fl && i.ok.isSome))).map (fun fl => (e, fl)))

/-- The governing mask: NOT P in a re-issue, all ones for a chunk acquire, else k (R156, R178, R385). -/
def State.vmask (s : State) (h : Hart) (f : LM) (load : Bool) : Mask :=
  if s.issue.again then ~~~h.pmask else if load && f.acq then BitVec.allOnes 256 else h.ok f.k.toNat

/-- B of R161. -/
def Hart.vbase (h : Hart) (f : LM) : VAddr := if f.pi = 1 then h.oa f.a.toNat else h.oa f.a.toNat + f.off.signExtend 80
/-- F of a segment form. -/
def segF (form : VForm) (f : LM) : Nat := if form = .seg then f.t.toNat / 16 % 8 + 1 else 1

/-- Byte address and bit offset of element e, field fl (R161). -/
def Hart.vaddr (h : Hart) (form : VForm) (f : LM) (wm : Nat) (idx : List Int) (e fl : Nat) : VAddr × Nat :=
  let b := h.vbase f
  let x : Int := sintOf 64 (h.og f.x.toNat).toNat
  match form with
  | .unit => (b + BitVec.ofNat 80 (e * wm / 8), e * wm % 8)
  | .stride => (addVA b (e * x), 0)
  | .seg => (addVA b (e * (if f.x = 0 then ((segF form f * wm / 8 : Nat) : Int) else x) + (fl * wm / 8 : Nat)), 0)
  | .index => (addVA b (idx.getD e 0 * (2 ^ mfcIsh h.octrl.mfc : Nat)), 0)

/-- The elements of an access in order; `scale` gives the base of the scale bytes of an MX access, each judged before its block (R160). -/
def VJob.els (j : VJob) (h : Hart) (form : VForm) (f : LM) (wm : Nat) (idx : List Int) (scale : Option VAddr) : List El :=
  let el (e : Nat) : List El := ((List.range j.fN).filter (fun fl => j.active fl e)).map (fun fl =>
    let (va, bo) := h.vaddr form f wm idx e fl
    { e := e, fl := fl, va := va, nb := (bo + wm + 7) / 8, bo := bo })
  match scale with
  | none => j.actives.flatMap el
  | some b => (List.range ((j.ne + 31) / 32)).flatMap (fun k =>
      let es := j.actives.filter (fun e => e / 32 == k)
      if es.isEmpty then [] else ({ e := 32 * k, fl := 255, va := b + BitVec.ofNat 80 k, nb := 1, bo := 0 } : El) :: es.flatMap el)

/-! Reading. -/
def State.vbyte (s : State) (o : XOk) : Byte := match o.loc with | .mem k => s.byte k | .remote pa => Config.remoteByte s.draw pa | _ => 0
def State.vread (s : State) (l : List XOk) : List Byte := l.map s.vbyte
/-- A granule that the bytes touch holds an uncorrectable error (R170); of one in another package that is free (log 8). -/
def State.badAny (s : State) (l : List XOk) : Bool :=
  l.any (fun o => match o.loc with | .mem k => s.badKey k | .remote pa => s.freeVal.getLsbD (pa / 64 % 256) | _ => false)
/-- The bytes of memory that the performed elements touch. -/
def itemKeys (items : List Item) : List Nat := items.flatMap (fun i => locKeys (i.ok.getD []))
def anyAway (items : List Item) : Bool := items.any (fun i => (firstRemote (i.ok.getD [])).isSome)
/-- After the reads of an instruction: check values verified, the writes they returned remembered, and the next free value called for. -/
def State.readDone (s : State) (items : List Item) : State :=
  let ks := itemKeys items
  let s1 := (s.verify (granules ks)).noteSeen ks
  if anyAway items then s1.drawn else s1
/-- The translation of an element must wait (R127). -/
def anyWait (items : List Item) : Bool := items.any (fun i => match i.bad with | some x => x.2.wait | none => false)
/-- Elements on another die of the package are not answered at once where the event says so (R104): the packet waits with what it asks. -/
def State.farAsk (s : State) (h : Hart) (l : List XOk) : Option State :=
  let there (o : XOk) : Bool := match o.loc.home with | some b => b != s.issue.core / 2 | none => false
  if h.remoteAns.isNone && s.issue.far && l.any there then some ({ s with issue := { s.issue with ask := true, oks := l } } : State).stall else none
/-- The places of the elements. -/
def itemOks (items : List Item) : List XOk := items.flatMap (fun i => i.ok.getD [])
/-- One of the elements must wait (R127, R291, R297). -/
def State.vWaits (s : State) (f : LM) (items : List Item) : Bool := anyWait items || s.readWaits f (itemKeys items)

/-! Ending with failed elements (R165 to R169). -/
/-- One failing item for each failing element, in ascending order. -/
def failures (items : List Item) : List (El × VAddr × XFault) :=
  (items.filterMap (fun i => i.bad.map (fun x => (i.el, x.1, x.2)))).foldl (fun l x => if l.any (fun y => y.1.e == x.1.e) then l else l ++ [x]) []

/-- INFO of a fault record (R166); SIZE is that of the bytes which the element touches (log 80). -/
def recInfo (acc : Acc) (n : Nat) (x : XFault) : Nat := x.level + sizeLog n * 16 + acc.code * 256 + (if x.unk then 1024 else 0)

/-- The partial-completion mask P. -/
def VJob.partialMask (j : VJob) (left : List (Nat × Nat)) : Mask :=
  ~~~(BitVec.ofNat 256 (maskOf 256 (fun c => left.any (fun q =>
    let f := j.fmtOf q.2
    decide (cellOf f q.1 ≤ c) && decide (c < cellOf f q.1 + cellsPer f)))))

/-- TRLG: elements of each lane group before its first unperformed one. -/
def VJob.progress (j : VJob) (left : List (Nat × Nat)) : Tbl (BitVec 16) :=
  let per (fl : Nat) : Nat := if j.fmtOf fl = .bx then 2 else 16 * (j.fmtOf fl).perCell
  (List.range 16).map (fun g => (g, BitVec.ofNat 16 (((left.find? (fun q => q.1 / per q.2 == g)).map (fun q => q.1 % per q.2)).getD (per 0))))

/-- The end of a vector instruction with failed elements: its records, P, TRLG and the trap owed. Where records find no room they are held back, and P and TRLG are written once the
instruction ends (R387). -/
def State.vFault (s : State) (h : Hart) (j : VJob) (acc : Acc) (items : List Item) (left : List (Nat × Nat)) : State :=
  let p := s.issue.core
  let fs := failures items
  let recs := fs.map (fun q => faultRec q.2.1 q.1.e q.2.2.cause (recInfo acc q.1.nb q.2.2) s.issue.slot p 0 0)
  let (s1, rest) := s.pushRecs p recs
  let m := j.partialMask left
  let s2 : State := s1.modCur (fun h1 =>
    let h2 := { h1 with pmask := m, owedK := if mfcPck h.octrl.mfc = 0 then [] else [(mfcPck h.octrl.mfc, m)], owedLg := some (j.progress left), stall29 := rest }
    if rest.isEmpty then h2.report s.cycle else h2)
  match fs with
  | [] => s2
  | (el, va, x) :: _ => s2.after { cause := 0x20, va := va, info := trinfo acc (sizeLog el.nb) x.level x.unk, ret := 1, reissue := 2, nrec := recs.length }

/-! The queue side. -/
/-- The bits of an element in an entry, with the poison of its cells (R156). -/
def Entry.elem (en : Entry) (e : Nat) : Nat × Bool :=
  let c := cellOf en.fmt e
  if en.fmt = .bx then (joinOf 32 ((List.range 8).map (fun i => (tget 0 en.cells (c + i)).toNat)), (List.range 8).any (fun i => en.pois.getLsbD (c + i)))
  else ((subsOf en.fmt.perCell en.fmt.width (tget 0 en.cells c).toNat).getD (e % en.fmt.perCell) 0, en.pois.getLsbD c)

/-- Puts element e into an entry. -/
def Entry.putElem (en : Entry) (e x : Nat) : Entry :=
  let n := en.fmt.perCell
  { en with cells := tmod 0 en.cells (e / n) (fun c => BitVec.ofNat 32 (joinOf en.fmt.width ((subsOf n en.fmt.width c.toNat).set (e % n) x))) }

/-- Puts the elements that a load performed; a cell is poisoned while one of its elements holds the poison value (R168, R170). -/
def Entry.fillWith (en : Entry) (l : List (Nat × Nat × Bool)) : Entry :=
  let n := en.fmt.perCell
  let els := en.poisEls.filter (fun e => !l.any (fun q => q.1 == e)) ++ (l.filter (·.2.2)).map (·.1)
  let touched := BitVec.ofNat 256 (maskOf 256 (fun c => l.any (fun q => q.1 / n == c)))
  let bad := BitVec.ofNat 256 (maskOf 256 (fun c => els.any (fun e => e / n == c)))
  { l.foldl (fun en q => en.putElem q.1 q.2.1) en with pois := (en.pois &&& ~~~touched) ||| bad, poisEls := els }

/-- The first open entry of a queue. -/
def Queue.openAt (q : Queue) : Option (Nat × Entry) := (q.ents.zipIdx.find? (fun x => x.1.st == .opened)).map (fun x => (x.2, x.1))

/-- Checks on the destination of a load in the order 0x31, 0x36, then room (R157, R168, R201): the subcause, or whether it waits. -/
def State.destCheck (s : State) (h : Hart) (q cells ne form fN : Nat) : Except Nat Bool :=
  let x := s.queue s.issue.core q
  match x.openAt with
  | some (_, en) => if en.ne ≠ ne ∨ en.form ≠ form then .error 0x31 else if s.queueCells h q < cells then .error 0x36 else .ok false
  | none => if s.queueCells h q < cells then .error 0x36 else .ok (decide (x.room s.cycle < fN))

/-- Puts what a load brought into its entries: `fill` changes the open entries or the new ones (R157, R168); `fail` leaves them open. -/
def State.deliver (s : State) (q : Nat) (proto : Entry) (fN : Nat) (fill : Nat → Entry → Entry) (fail : Bool) : State :=
  let p := s.issue.core
  let x := s.queue p q
  let id := s.nextId
  let fin (i : Nat) (en : Entry) (again : Bool) : Entry :=
    let e1 := fill i en
    { e1 with id := id, ne := proto.ne, form := proto.form, st := if fail then .opened else if again then .filled else .reserved }
  let x1 : Queue := match x.openAt with
    | some (k, _) => { x with ents := x.ents.zipIdx.map (fun y => if k ≤ y.2 ∧ y.2 < k + fN then fin (y.2 - k) y.1 true else y.1) }
    | none => x.push s.cycle ((List.range fN).map (fun i => fin i proto false))
  let s1 : State := { s with nextId := id + 1 }.setQueue p q x1
  if fail then s1 else s1.modCur (fun h => { h with accs := h.accs ++ [id] })

/-- Dequeues the head of a queue. -/
def State.deq (s : State) (q n : Nat) : State := s.setQueue s.issue.core q ((s.queue s.issue.core q).pop s.cycle n)
/-- The index words of an entry (R161); none where it is refused (R194). -/
def indexOf (en : Entry) (ne : Nat) : Option (List Int) :=
  if en.fmt.width ≠ 32 ∨ en.cnt < ne then none else some ((List.range ne).map (fun e => sintOf 32 (tget 0 en.cells e).toNat))
/-- Visible heads of a queue, where the form needs them. -/
def State.headsIf (s : State) (need : Bool) (q n : Nat) : Option (List Entry) :=
  if need then (s.queue s.issue.core q).heads s.cycle n else some []
def headOf (l : List Entry) : Entry := l.headD {}

/-! Loads (R155, R158, R160, R182). -/
def fmtAt (n : Nat) : Option Fmt := Fmt.ofCode n
def isMx (f : Fmt) : Bool := f == .e4m3 || f == .e5m2 || f == .e2m3 || f == .e3m2 || f == .e2m1
/-- What R155 refuses of a load, entry counts apart. -/
def ldRefused (m : Word) (form : VForm) (narrowOk : Bool) (base : Nat) : Bool :=
  match fmtAt (mfcLmem m), fmtAt (mfcLreg m) with
  | some lm, some lr =>
    decide (6 ≤ mfcLrm m) || decide (2 ≤ mfcLsc m) || !lr.inQueue || lm == .bx || lm == .e8m0
      || (mfcLsc m == 1 && (!isMx lm || form != .unit || mfcLsa m == base)) || (!narrowOk && decide (lm.width < 8))
  | _, _ => true

/-- `mx_apply` (R158). -/
def mxApply (v : Val) (x : Byte) : Val :=
  if x = 0xFF#8 then .nan
  else match v with
    | .fin n m e => .fin n m (e + ((x.toNat : Int) - 127))
    | v => v

/-- `load_elem` (R158) under a hart's control state: `scale` is the scale byte of an MX load. -/
def loadElemC (c : Ctrl) (seed : Word) (x e : Nat) (scale : Option Byte) : Nat :=
  let m := c.mfc
  let lm := (fmtAt (mfcLmem m)).getD .fp32
  let lr := (fmtAt (mfcLreg m)).getD .fp32
  if lm = lr ∧ scale = none then x
  else
    let v := match scale with | some b => mxApply (lm.decode x) b | none => lm.decode x
    convert v lr ((Rnd.ofCode (mfcLrm m)).getD .rne) (mfcLsat m) (pepper c.dsel seed (e % 4096) (e % 256))
def loadElem (h : Hart) (seed : Word) (x e : Nat) (scale : Option Byte) : Nat := loadElemC h.octrl seed x e scale

/-- The poison value of a queue format (R170). -/
def poisonVal (f : Fmt) : Nat := if f.hasNaN then f.canonNaN else 0

/-- The elements that are performed, as memory gives them now. -/
def State.rawsOf (s : State) (items : List Item) : List VRaw :=
  items.filterMap (fun i => i.ok.map (fun l => { e := i.el.e, fl := i.el.fl, bo := i.el.bo, bytes := s.vread l, bad := s.badAny l, oks := l }))

/-- What elements bring to field fl of format `lr`: element, bits and poison of each (R158, R170). -/
def broughtBy (c : Ctrl) (seed : Word) (wm : Nat) (mx : Bool) (lr : Fmt) (raws : List VRaw) (fl : Nat) : List (Nat × Nat × Bool) :=
  let scaleOf (e : Nat) : Byte × Bool :=
    match raws.find? (fun r => r.fl == 255 && r.e == e / 32 * 32) with
    | some r => (r.bytes.headD 0, r.bad)
    | none => (0, false)
  (raws.filter (fun r => r.fl == fl)).map (fun r =>
    let sc := scaleOf r.e
    let bad := r.bad || (mx && sc.2)
    (r.e, if bad then poisonVal lr else loadElemC c seed (leNat r.bytes / 2 ^ r.bo % 2 ^ wm) r.e (if mx then some sc.1 else none), bad))

/-- What a load brings to field fl. -/
def State.loaded (s : State) (h : Hart) (items : List Item) (wm : Nat) (mx : Bool) (lr : Fmt) (fl : Nat) : List (Nat × Nat × Bool) :=
  broughtBy h.octrl (s.core s.issue.core).pgseed wm mx lr (s.rawsOf items) fl

/-- The elements of a load stand until its entries, which `s0` named next, are visible: until then each may still be performed anew, at a moment of its own (R293). Those of a GLL and of a
load with .acq beyond the package are performed together, and so are those beside an S slot, which may order them (R177, R189). -/
def State.keepReads (s s0 : State) (h : Hart) (q : Nat) (together : Bool) (raws : List VRaw) : State :=
  let v : VRead := { id := s0.nextId, q := q, live := !together && tget 0 s.issue.words 0 == 0, ctrl := h.octrl, seed := (s0.core s0.issue.core).pgseed, raws := raws }
  s.modCur (fun h => { h with vreads := h.vreads ++ [v] })
/-- The elements of a load are performed together. -/
def together (gll : Bool) (f : LM) : Bool := gll || (f.acq && decide (4 ≤ f.sc.toNat))

/-- The link set that a GLL records (R174): element and granule; a granule of another package is numbered apart. -/
def linksOf (items : List Item) : List (Nat × Nat) :=
  items.flatMap (fun i => ((i.ok.getD []).map (fun o => match o.loc with | .mem k => k / 64 | .remote pa => awayGran pa | _ => 0)).eraseDups.map (fun g => (i.el.e, g)))

/-- A vector load whose checks have passed (R165, R168, R170, R182). The elements of a GLL report KIND atomic, which R105 and R188 leave open (DESIGN CHOICE, log 80). -/
def vloadGo (form : VForm) (code : Nat) (gll : Bool) (f : LM) (h : Hart) (j : VJob) (idx : List Int) (s : State) : State :=
  let p := s.issue.core
  let m := h.octrl.mfc
  let lm := (fmtAt (mfcLmem m)).getD .fp32
  let mx := mfcLsc m == 1
  let q := f.t.toNat % 8
  let acc : Acc := if gll then .atomic else .load
  let els := j.els h form f lm.width idx (if mx then some (h.oa (mfcLsa m)) else none)
  let (s1, items) := State.plan (s.who p h) acc f.ord 1 els s 0
  if s1.vWaits f items then s.stall
  else match s1.farAsk h (itemOks items) with
  | some t => t
  | none =>
    let left := j.left items
    let proto : Entry := { fmt := j.fmt, cnt := j.ne, ne := j.ne, form := code + 256 * j.fN }
    let s2 := (s1.deliver q proto j.fN (fun i en => en.fillWith (s1.loaded h items lm.width mx j.fmt i)) !left.isEmpty).readDone items
    let s2 := if left.isEmpty then s2.keepReads s1 h q (together gll f) (s1.rawsOf items) else s2
    let s3 : State := if gll then s2.modCur (fun h => { h with links := linksOf (items.filter (fun i => i.el.fl != 255)) }) else s2
    if !left.isEmpty then s3.vFault h j acc items left
    else
      let s4 := if form = .index then s3.deq (f.x.toNat % 8) 1 else s3
      let s5 := s4.bump h f
      if mx ∧ f.pi = 1 then s5.wrA (mfcLsa m) (h.oa (mfcLsa m) + BitVec.ofNat 80 ((j.ne + 31) / 32)) else s5

/-- VLD, VLDS, VLDSEG, VLDX and GLL: the checks of R193 order 1, the waits of R157, then the load. With VL = 0 nothing is accessed (R156). -/
def vload (form : VForm) (code : Nat) (gll : Bool) (f : LM) (s : State) : Out :=
  onHart s (fun h =>
    let m := h.octrl.mfc
    let vl := h.octrl.vl
    let iq := f.x.toNat % 8
    let heads := s.headsIf (form == .index) iq 1
    if vl = 0 then
      match heads with
      | none => s.stall
      | some _ =>
        let s1 := if form = .index then s.deq iq 1 else s
        (if gll then s1.modCur (fun h => { h with links := [] }) else s1).bump h f
    else if ldRefused m form (form == .unit || gll) f.a.toNat then s.operand 0x30
    else
      let lr := (fmtAt (mfcLreg m)).getD .fp32
      let ne := vl * lr.perCell
      let j : VJob := { fmt := lr, ne := ne, fN := segF form f, mask := s.vmask h f true }
      if (form = .seg ∨ (form = .index ∧ gll = false)) ∧ 256 < ne then s.operand 0x30
      else if gll ∧ (((fmtAt (mfcLmem m)).getD .fp32).width ≠ 32 ∨ lr ≠ .fp32) then s.operand 0x34
      else match heads with
      | none => s.stall
      | some hs =>
        match (if form = .index then indexOf (headOf hs) ne else some []) with
        | none => s.operand 0x33
        | some idx =>
          match s.destCheck h (f.t.toNat % 8) vl ne (code + 256 * j.fN) j.fN with
          | .error sub => s.operand sub
          | .ok true => s.stall
          | .ok false => vloadGo form code gll f h j idx s)

def execVld (f : LM) (s : State) : Out := vload .unit 0x10 false f s
def execVlds (f : LM) (s : State) : Out := vload .stride 0x11 false f s
def execVldseg (f : LM) (s : State) : Out := vload .seg 0x12 false f s
def execVldx (f : LM) (s : State) : Out := vload .index 0x13 false f s
def execGll (f : LM) (s : State) : Out := vload .index 0x2C true f s

/-- VPF moves no architectural state but its post-increment (R183). -/
def execVpf (f : LM) (s : State) : Out := onHart s (fun h => s.bump h f)

/-! Compressed streams (R162 to R164). -/
/-- The stream read so far: elements with their poison, their places, bytes consumed, the fault that ends it, and whether a read must wait. -/
structure Scan where
  s : State
  u : Nat := 0
  raw : List (Nat × Bool) := []
  oks : List (List XOk) := []
  fault : Option (VAddr × XFault) := none
  wait : Bool := false
  ks : List Nat := []

/-- Elements of a literal run of `wb` bytes each. -/
def literal (s : State) (wb cnt : Nat) (l : List XOk) : List (Nat × Bool) :=
  (List.range cnt).map (fun i => let o := (l.drop (i * wb)).take wb; (leNat (s.vread o), s.badAny o))

/-- The places of a literal run, element by element (R103, R164), up to the first byte that faults. -/
def literalRun (w : Who) (wb : Nat) (a : VAddr) : Nat → State → State × Except (VAddr × XFault) (List XOk)
  | 0, s => (s, .ok [])
  | n + 1, s =>
    match s.vxlate w a wb .load with
    | (s, .error x) => (s, .error x)
    | (s, .ok l) =>
      match literalRun w wb (a + BitVec.ofNat 80 wb) n s with
      | (s, .error x) => (s, .error x)
      | (s, .ok r) => (s, .ok (l ++ r))

/-- The fault that ends a stream, or the wait of its translation. -/
def Scan.stop (c : Scan) (s : State) (x : VAddr × XFault) : Scan := if x.2.wait then { c with wait := true } else { c with s := s, fault := some x }

/-- Expands whole blocks while the budget and the element limit admit them. -/
def scan (w : Who) (f : LM) (wb ne budget : Nat) (start : VAddr) : Nat → Scan → Scan
  | 0, c => c
  | n + 1, c =>
    if ne ≤ c.raw.length ∨ budget ≤ c.u then c
    else
      let a := start + BitVec.ofNat 80 c.u
      match c.s.vxlate w a 1 .load with
      | (s, .error x) => c.stop s x
      | (s, .ok l) =>
        let ks := locKeys l
        if s.readWaits f ks then { c with wait := true }
        else if s.badAny l then { c with s := s.verify (granules ks), fault := some (a, { cause := 0x1F, level := (l.head?.map (fun o => o.level)).getD 15 }) }
        else
          let hb := ((s.vread l).headD 0).toNat
          let cnt := hb % 128 + 1
          let size := if hb < 128 then 1 + cnt * wb else 1
          if budget < c.u + size ∨ ne < c.raw.length + cnt then { c with s := s, ks := c.ks ++ ks }
          else if 128 ≤ hb then
            scan w f wb ne budget start n { c with s := s, u := c.u + 1, raw := c.raw ++ List.replicate cnt (0, false), oks := c.oks ++ List.replicate cnt [], ks := c.ks ++ ks }
          else
            match literalRun w wb (a + 1#80) cnt s with
            | (s, .error x) => c.stop s x
            | (s, .ok r) =>
              if s.readWaits f (locKeys r) then { c with wait := true }
              else scan w f wb ne budget start n { c with s := s, u := c.u + size, raw := c.raw ++ literal s wb cnt r, oks := c.oks ++ (List.range cnt).map (fun i => (r.drop (i * wb)).take wb), ks := c.ks ++ ks ++ locKeys r }

/-- What VLDC does with the stream it has read (R163, R164). -/
def vldcDone (f : LM) (h : Hart) (j : VJob) (c : Scan) : State :=
  let p := c.s.issue.core
  let n := j.fmt.perCell
  let el := c.raw.length
  let vals := c.raw.zipIdx.filterMap (fun (x, e) =>
    if j.active 0 e then some (e, if x.2 then poisonVal j.fmt else loadElem h (c.s.core p).pgseed x.1 e none, x.2) else none)
  let proto : Entry := { fmt := j.fmt, cnt := el, ne := j.ne, form := 0x114 }
  let s1 := (c.s.verify (granules c.ks)).noteSeen c.ks
  let raws : List VRaw := (c.raw.zip c.oks).zipIdx.filterMap (fun (x, e) => if j.active 0 e then some { e := e, fl := 0, bo := 0, bytes := leBytes x.2.length x.1.1, bad := x.1.2, oks := x.2 } else none)
  let s2 := if el = 0 then s1 else (s1.deliver (f.t.toNat % 8) proto 1 (fun _ en => en.fillWith vals) false).keepReads s1 h (f.t.toNat % 8) true raws
  let s3 := ((s2.modCtrl (fun q => { q with vl := (el + n - 1) / n })).wrG f.x.toNat (h.og f.x.toNat - BitVec.ofNat 64 c.u)).bump h f c.u
  match c.fault with
  | none => s3
  | some (va, x) =>
    let (s4, rest) := s3.pushRecs p [faultRec va el x.cause (recInfo .load 1 x) s3.issue.slot p 0 0]
    let left := (j.actives.filter (fun e => decide (el ≤ e))).map (fun e => (e, 0))
    (s4.modCur (fun h =>
      let h1 := { h with stall29 := rest, owedLg := some (j.progress left) }
      if rest.isEmpty then h1.report s3.cycle else h1)).after
      { cause := 0x20, va := va, info := trinfo .load 0 x.level x.unk, ret := 2, nrec := 1 }

/-- VLDC (R163). -/
def execVldc (f : LM) (s : State) : Out :=
  onHart s (fun h =>
    let m := h.octrl.mfc
    let vl := h.octrl.vl
    if vl = 0 then s.bump h f
    else if ldRefused m .stride false f.a.toNat then s.operand 0x30
    else
      let lr := (fmtAt (mfcLreg m)).getD .fp32
      let ne := vl * lr.perCell
      let j : VJob := { fmt := lr, ne := ne, mask := s.vmask h f true }
      match s.destCheck h (f.t.toNat % 8) vl ne 0x114 1 with
      | .error sub => s.operand sub
      | .ok true => s.stall
      | .ok false =>
        let c := scan (s.who s.issue.core h) f (((fmtAt (mfcLmem m)).getD .fp32).width / 8) ne (h.og f.x.toNat).toNat (h.vbase f) (ne + 1) { s := s }
        if c.wait then s.stall
        else match c.s.farAsk h c.oks.flatten with
        | some t => t
        | none => vldcDone f h j c)

/-! Stores (R155, R158, R160, R172, R185). -/
/-- What R155 refuses of a store whatever its entry. -/
def stRefused (m : Word) (form : VForm) (narrowOk : Bool) (base : Nat) : Bool :=
  match fmtAt (mfcSmem m) with
  | some sm =>
    decide (6 ≤ mfcSrm m) || decide (2 ≤ mfcSsc m) || sm == .e8m0
      || (mfcSsc m == 1 && (!isMx sm || form != .unit || mfcSsa m == base)) || (!narrowOk && decide (sm.width < 8))
  | none => true

/-- Pepper of an element at its destination in memory (R36, R37). -/
def storePep (h : Hart) (seed : Word) (ws : Nat) (x : El) : Nat :=
  pepper h.octrl.dsel seed ((8 * x.va.toNat + x.bo) / ws % 4096) (x.e % 256)

/-- `store_elem` (R158). -/
def storeElem (h : Hart) (seed : Word) (en : Entry) (x : El) : Nat :=
  let m := h.octrl.mfc
  let sm := (fmtAt (mfcSmem m)).getD .fp32
  let v := (en.elem x.e).1
  if en.fmt = sm then v
  else convert (en.fmt.decode v) sm ((Rnd.ofCode (mfcSrm m)).getD .rne) (mfcSsat m) (storePep h seed sm.width x)

/-- The blocks of an MX store: scale and elements (R40, R160). -/
def mxBlocks (h : Hart) (seed : Word) (f : LM) (en : Entry) : List (Nat × List Nat) :=
  let m := h.octrl.mfc
  let sm := (fmtAt (mfcSmem m)).getD .fp32
  (List.range ((en.cnt + 31) / 32)).map (fun b =>
    mxQuant ((List.range 32).map (fun i => if 32 * b + i < en.cnt then rn32 (en.fmt.decode (en.elem (32 * b + i)).1) else 0)) sm
      ((Rnd.ofCode (mfcSrm m)).getD .rne)
      (fun i => let (va, bo) := h.vaddr .unit f sm.width [] (32 * b + i) 0
        storePep h seed sm.width { e := 32 * b + i, fl := 0, va := va, nb := 1, bo := bo }))

/-- A byte that a store writes: its key, the bits it writes, their value, and whether its element is poisoned. -/
structure Put where
  k : Nat
  mask : Nat
  val : Nat
  pois : Bool

/-- The bytes of memory that one item writes, for the bits of its element. -/
def itemPuts (i : Item) (wm v : Nat) (pois : Bool) : List Put :=
  (i.ok.getD []).zipIdx.filterMap (fun (o, n) =>
    match o.loc with
    | .mem k => some { k := k, mask := (2 ^ wm - 1) * 2 ^ i.el.bo / 256 ^ n % 256, val := v * 2 ^ i.el.bo / 256 ^ n % 256, pois := pois }
    | _ => none)

/-- Bits of byte k that none of the puts writes, and what they write of it. -/
def keptBits (l : List Put) (k : Nat) : Byte := BitVec.ofNat 8 (l.foldl (fun b q => if q.k = k then b &&& (255 - q.mask) else b) 255)
def putBits (l : List Put) (k : Nat) : Byte := BitVec.ofNat 8 (l.foldl (fun b q => if q.k = k then (b &&& (255 - q.mask)) ||| q.val else b) 0)

/-- Sends what a store writes (R172, R181). Parts of bytes are merged at the home moment, as one indivisible read-modify-write (R185); the elements of an SCC that succeed are written
at once. -/
def State.sendPuts (s : State) (l : List Put) (home : Bool) : State :=
  let marked (g : Nat) : Bool := l.any (fun q => q.pois && q.k / 64 == g)
  if home then
    let ks := (l.map (·.k)).eraseDups
    (granules ks).foldl (fun t g =>
      let bs := (ks.filter (fun k => k / 64 == g)).map (fun k => (k, (s.byte k &&& keptBits l k) ||| putBits l k))
      t.sendHome bs bs.length (marked g)) s
  else if l.all (fun q => q.mask == 255) then s.sendAll (l.map (fun q => (q.k, BitVec.ofNat 8 q.val))) marked
  else
    let ks := (l.map (·.k)).eraseDups
    let t := s.sendAll (ks.map (fun k => (k, putBits l k))) marked
    { t with pw := t.pw.map (fun w => if s.nextId ≤ w.id then { w with keep := (ks.filter (fun k => w.bytes.any (fun b => b.1 == k))).map (fun k => (k, keptBits l k)) } else w) }

/-- The bytes that an item writes in other packages. -/
def Item.away (i : Item) : List XOk := (i.ok.getD []).filter (fun o => match o.loc with | .remote _ => true | _ => false)
/-- Bytes written in other packages, which have acknowledged them. -/
def State.sendAway (s : State) (l : List XOk) : State := if l.isEmpty then s else (s.send [] l.length false true).breakAway l

/-- The writes of an element under .ord: with .rel they follow those of the element before it, `prev`, which must be visible at a scope (R177, R293). With `before`, what earlier elements wrote,
they are one write for the mark of a granule (R399). -/
def State.sendAfter (s : State) (l : List Put) (away : List XOk) (rel : Bool) (sc : Nat) (prev : List Nat) (before : List Put) : State × List Nat :=
  let t := (s.sendPuts l false).sendAway away
  let ids := List.range' s.nextId (t.nextId - s.nextId)
  let near (w : PW) : List Put := before.filter (fun q => w.bytes.any (fun b => b.1 / 64 == q.k / 64))
  let bits (l : List Put) (k : Nat) : Byte := ~~~(keptBits l k)
  ({ t with pw := t.pw.map (fun w =>
      if s.nextId ≤ w.id then
        let l := near w
        { w with after := if rel then prev.map (fun i => (i, sc)) else [], mark := w.mark || l.any (·.pois), cov := ((l.map (·.k)).eraseDups).map (fun k => (k, bits l k, putBits l k)) }
      else w) },
    if ids.isEmpty then prev else ids)

/-- Sends the elements of a store, each with the bytes that it writes in other packages: in ascending order under .ord, and each released by itself under .ord.rel (R177, R293). -/
def State.sendEls (s : State) (f : LM) (home : Bool) (els : List (List Put × List XOk)) : State :=
  if f.ord && !home then
    (els.foldl (fun (t : (State × List Nat) × List Put) l => (t.1.1.sendAfter l.1 l.2 f.rel f.sc.toNat t.1.2 t.2, t.2 ++ l.1)) ((s, []), [])).1.1
  else (s.sendPuts (els.flatMap (·.1)) home).sendAway (els.flatMap (·.2))

/-- The elements of an SCC that succeed (R174): each granule still linked by the same element, and no lower active element targets it, of these or of `lower`, which came before. -/
def sccWins (s : State) (h : Hart) (items : List Item) (lower : List (Nat × Nat) := []) : List Nat :=
  let ls := lower ++ linksOf items
  items.filterMap (fun (i : Item) =>
    let gs : List Nat := (ls.filter (fun q => q.1 == i.el.e)).map (fun q => q.2)
    if i.ok.isSome && gs.all (fun g => h.links.contains (i.el.e, g) && !ls.any (fun q => decide (q.1 < i.el.e) && q.2 == g)
        && (decide (g < 2 ^ 60) || s.freeVal.getLsbD (i.el.e % 256))) then some i.el.e else none)

/-- A vector store whose checks have passed. The elements of an SCC report KIND atomic, which R105 and R188 leave open (DESIGN CHOICE, log 80). -/
def vstoreGo (form : VForm) (scc : Bool) (f : LM) (h : Hart) (j : VJob) (es : List Entry) (idx : List Int) (s : State) : State :=
  let p := s.issue.core
  let m := h.octrl.mfc
  let sm := (fmtAt (mfcSmem m)).getD .fp32
  let mx := mfcSsc m == 1
  let acc : Acc := if scc then .atomic else .store
  let seed := (s.core p).pgseed
  let els := j.els h form f sm.width idx (if mx then some (h.oa (mfcSsa m)) else none)
  let (s1, items) := State.plan (s.who p h) acc f.ord 1 els s 0
  let wins := if scc then sccWins s1 h items else []
  let doing := items.filter (fun i => i.ok.isSome && (!scc || wins.contains i.el.e))
  if anyWait items || (scc && s1.ownPending (itemKeys doing)) then s.stall
  else match s1.farAsk h (itemOks doing) with
  | some t => t
  | none =>
    let blocks := if mx then mxBlocks h seed f (headOf es) else []
    let puts (i : Item) : List Put :=
      if i.el.fl = 255 then itemPuts i 8 (blocks.getD (i.el.e / 32) (0, [])).1 false
      else
        let en := es.getD i.el.fl {}
        let v := if mx then (blocks.getD (i.el.e / 32) (0, [])).2.getD (i.el.e % 32) 0 else storeElem h seed en i.el
        itemPuts i sm.width v (en.elem i.el.e).2
    let s2 := s1.sendEls f scc (doing.map (fun i => (puts i, i.away)))
    let s4 := (if scc && anyAway items then s2.drawn else s2).noteWrites s1 false f.acq
    let left := if scc then (j.actives.filter (fun e => !wins.contains e)).map (fun e => (e, 0)) else j.left items
    if (failures items).isEmpty then
      let s5 := s4.deq (8 + f.t.toNat % 2) j.fN
      let s6 := if form = .index then s5.deq (f.x.toNat % 8) 1 else s5
      let s7 := if scc then s6.wrK (mfcPck m) (j.partialMask left) else s6
      let s8 := s7.bump h f
      if mx ∧ f.pi = 1 then s8.wrA (mfcSsa m) (h.oa (mfcSsa m) + BitVec.ofNat 80 ((j.ne + 31) / 32)) else s8
    else s4.vFault h j acc items left

/-! Elements one by one: a vector atomic or SCC under .ord.rel at domain or system scope, each of whose elements waits until the one before it is visible there (R177, R293). -/
def stepwise (f : LM) : Bool := f.ord && f.rel && decide (4 ≤ f.sc.toNat)
/-- The instruction as it stands before its first element. -/
def State.vpendNow (s : State) (en : Entry) (idx : List Int) : VPend := { word := tget 0 s.issue.words 1, again := s.issue.again, src := en, idx := idx }
/-- Active elements of which `did` does not hold. -/
def VJob.undone (j : VJob) (did : List Nat) : List (Nat × Nat) := (j.actives.filter (fun e => !did.contains e)).map (fun e => (e, 0))
/-- What comes next of such an instruction: nothing, a wait, or an element as it is judged now. -/
inductive VNext where | over | waits (t : State) | next (s : State) (i : Item)
def State.vecNext (s : State) (f : LM) (h : Hart) (reads : Bool) (align : Nat) (j : VJob) (v : VPend) : VNext :=
  match (j.els h .index f 32 v.idx none).find? (fun x => !v.done.any (fun d => d.e == x.e)) with
  | none => .over
  | some x =>
    let (s1, items) := State.plan (s.who s.issue.core h) .atomic true align [x] s 0
    match items with
    | [] => .over
    | i :: _ =>
      let ks := itemKeys items
      if !s.relReady h f.sc.toNat || anyWait items || (if reads then s1.readWaits f ks else s1.ownPending ks) then .waits s.stall
      else match s1.farAsk h (itemOks items) with | some t => .waits t | none => .next s1 i
/-- Further elements are to come. -/
def VJob.more (j : VJob) (v : VPend) : Bool := j.actives.any (fun e => !v.done.any (fun d => d.e == e))
/-- The instruction has ended. -/
def State.vecOver (s : State) : State := s.modCur (fun h => { h with vpend := none })

/-- The end of an SCC whose elements were performed one by one; `items` has the one that failed, if one did. -/
def sccEnd (f : LM) (h : Hart) (j : VJob) (v : VPend) (items : List Item) (s : State) : State :=
  let left := j.undone ((v.done.filter (·.wrote)).map (·.e))
  if items.isEmpty then
    ((((s.vecOver.deq (8 + f.t.toNat % 2) 1).deq (f.x.toNat % 8) 1).wrK (mfcPck h.octrl.mfc) (j.partialMask left))).bump h f
  else s.vecOver.vFault h j .atomic items left
/-- The next element of such an SCC (R174, R188). -/
def sccStep (f : LM) (h : Hart) (j : VJob) (v : VPend) (s : State) : State :=
  match s.vecNext f h false 1 j v with
  | .waits t => t
  | .over => sccEnd f h j v [] s
  | .next s1 i =>
    if i.ok.isNone then sccEnd f h j v [i] s1
    else
      let wins := (sccWins s1 h [i] (v.done.flatMap (fun d => d.grans.map (fun g => (d.e, g))))).contains i.el.e
      let l := itemPuts i 32 (storeElem h (s1.core s1.issue.core).pgseed v.src i.el) (v.src.elem i.el.e).2
      let s2 := if wins then (s1.sendEls f true [(l, i.away)]).noteWrites s1 false f.acq else s1
      let s3 := if i.away.isEmpty then s2 else s2.drawn
      let v1 : VPend := { v with done := v.done ++ [{ e := i.el.e, wrote := wins, grans := (linksOf [i]).map (·.2) }] }
      if j.more v1 then s3.modCur (fun h => { h with vpend := some v1 }) else sccEnd f h j v1 [] s3
/-- An SCC goes on with its next element. -/
def sccGoesOn (f : LM) (s : State) (h : Hart) (v : VPend) : State :=
  sccStep f h { fmt := v.src.fmt, ne := v.src.cnt, mask := s.vmask h f false } v s

/-- VST, VSTS, VSTSEG, VSTX and SCC: the checks of R193 order 1 and the waits of R177 and R185, then the store. -/
def vstore (form : VForm) (scc : Bool) (f : LM) (s : State) : Out :=
  onHart s (fun h =>
    let m := h.octrl.mfc
    let fN := segF form f
    let sm := (fmtAt (mfcSmem m)).getD .fp32
    if stRefused m form (form == .unit || scc) f.a.toNat then s.operand 0x30
    else match s.headsIf true (8 + f.t.toNat % 2) fN with
    | none => s.stall
    | some es =>
      let en := headOf es
      let ne := en.cnt
      let j : VJob := { fmt := en.fmt, ne := ne, fN := fN, mask := s.vmask h f false, fmts := if form = .seg then es.map (·.fmt) else [] }
      if (form = .seg ∨ (form = .index ∧ scc = false)) ∧ 256 < ne then s.operand 0x30
      else if mfcSsc m = 1 ∧ !(en.fmt == .fp32 || en.fmt == .bf16 || en.fmt == .fp16) then s.operand 0x30
      else if sm = .bx ∧ es.any (fun e => e.fmt != .bx) then s.operand 0x30
      else if scc ∧ (sm.width ≠ 32 ∨ en.fmt.width ≠ 32 ∨ mfcPck m = 0) then s.operand 0x34
      else match s.headsIf (form == .index) (f.x.toNat % 8) 1 with
      | none => s.stall
      | some hs =>
        if es.any (fun e => (e.fmt == .bx && (sm != .bx || mfcSsc m != 0)) || e.cnt != ne) then s.operand 0x32
        else match (if form = .index then indexOf (headOf hs) ne else some []) with
        | none => s.operand 0x33
        | some idx =>
          if f.rel ∧ !s.relReady h f.sc.toNat then s.stall
          else if scc ∧ stepwise f then sccStep f h j (s.vpendNow en idx) s else vstoreGo form scc f h j es idx s)

def execVst (f : LM) (s : State) : Out := vstore .unit false f s
def execVsts (f : LM) (s : State) : Out := vstore .stride false f s
def execVstseg (f : LM) (s : State) : Out := vstore .seg false f s
def execVstx (f : LM) (s : State) : Out := vstore .index false f s
/-- SCC; one whose elements are performed one by one goes on with the next. -/
def execScc (f : LM) (s : State) : Out :=
  match (if s.issue.vec then s.cur.bind (·.vpend) else none) with
  | some v => onHart s (fun h => sccGoesOn f s h v)
  | none => vstore .index true f s

/-! Vector atomics (R173, R187). -/
/-- One element at the memory that owns it: the state after, the old word and whether it was uncorrectable (R170, R172). -/
def State.vamoOne (s : State) (l : List XOk) (x : Nat) (pois : Bool) (op : Nat → Nat → Nat) : State × Nat × Bool :=
  let ks := locKeys l
  let old := leNat (s.vread l)
  if s.badAny l then (s, poisonVal .fp32, true)
  else if ks.isEmpty then (((s.send [] 4 false true).breakAway l).drawn, old, false)
  else (s.sendHome (ks.zip (leBytes 4 (op old x))) 4 pois, old, false)

/-- The order in which elements take effect (R173): ascending in a gang's window and under .ord; elsewhere, where two elements meet in one word, in an
order that nothing constrains (log 4). -/
def vamoOrder (ord : Bool) (s : State) (items : List Item) : State × List Item :=
  let win (i : Item) : Bool := i.el.va.toNat / 2 ^ 72 == 0xFF
  let rest := items.filter (fun i => !win i)
  let ks := rest.map (fun i => (locKeys (i.ok.getD [])).headD 0)
  if ord ∨ ks.eraseDups.length = ks.length then (s, items)
  else
    let keyed := rest.zipIdx.map (fun (i, n) => ((Config.free (s.draw + n)).toNat, i))
    let sorted := sortBy (fun (a b : Nat × Item) => decide (a.1 < b.1)) keyed
    ({ s with draw := s.draw + rest.length }, items.filter win ++ sorted.map (·.2))

/-- The return entry of a vector atomic, `rets` elements with their old words and poison. -/
def vamoProto (code : Nat) (j : VJob) : Entry := { fmt := .fp32, cnt := j.ne, ne := j.ne, form := code + 256 }
/-- The end of a vector atomic whose elements were performed one by one: its return entry is filled, and left open where an element failed (R168). -/
def vamoEnd (f : LM) (h : Hart) (j : VJob) (v : VPend) (items : List Item) (s : State) : State :=
  let left := j.undone (v.done.map (·.e))
  let q := f.t.toNat / 2 % 8
  let p := s.issue.core
  let fill (e : Entry) : Entry := if e.id = v.ret then { e.fillWith (v.done.map (fun d => (d.e, d.old, d.bad))) with st := if items.isEmpty then e.st else .opened } else e
  let s1 := if f.vret then
      (s.setQueue p q { s.queue p q with ents := (s.queue p q).ents.map fill }).modCur (fun h => { h with accs := if items.isEmpty then h.accs ++ [v.ret] else h.accs })
    else s
  if items.isEmpty then ((s1.vecOver.deq (8 + f.t.toNat % 2) 1).deq (f.x.toNat % 8) 1) else s1.vecOver.vFault h j .atomic items left
/-- The next element of such an atomic (R173, R187). -/
def vamoStep (f : LM) (h : Hart) (j : VJob) (op : Nat → Nat → Nat) (v : VPend) (s : State) : State :=
  match s.vecNext f h true 4 j v with
  | .waits t => t
  | .over => vamoEnd f h j v [] s
  | .next s1 i =>
    if i.ok.isNone then vamoEnd f h j v [i] s1
    else
      let x := v.src.elem i.el.e
      let r := (s1.readDone [i]).vamoOne (i.ok.getD []) x.1 x.2 op
      let s2 := r.1.noteWrites s1 false f.acq
      let v1 : VPend := { v with done := v.done ++ [{ e := i.el.e, old := r.2.1, bad := r.2.2 }] }
      if j.more v1 then s2.modCur (fun h => { h with vpend := some v1 }) else vamoEnd f h j v1 [] s2
/-- Such an atomic begins: its return entry is reserved at issue (R157, R187). -/
def vamoBegin (f : LM) (code : Nat) (h : Hart) (j : VJob) (op : Nat → Nat → Nat) (v : VPend) (s : State) : State :=
  match s.vecNext f h true 4 j v with
  | .waits t => t
  | _ =>
    if f.vret then
      let id := s.nextId
      vamoStep f h j op { v with ret := id } ((s.deliver (f.t.toNat / 2 % 8) (vamoProto code j) 1 (fun _ e => e) false).modCur (fun h => { h with accs := h.accs.filter (· != id) }))
    else vamoStep f h j op v s

/-- A vector atomic whose checks have passed. -/
def vamoGo (f : LM) (code : Nat) (h : Hart) (j : VJob) (en : Entry) (idx : List Int) (op : Nat → Nat → Nat) (s : State) : State :=
  let p := s.issue.core
  let (s1, items) := State.plan (s.who p h) .atomic f.ord 4 (j.els h .index f 32 idx none) s 0
  let doing := items.filter (fun i => i.ok.isSome)
  if anyWait items || s1.vWaits f doing then s.stall
  else match s1.farAsk h (itemOks doing) with
  | some t => t
  | none =>
    let (s2, order) := vamoOrder f.ord (s1.readDone doing) doing
    let step (t : State × List (Nat × Nat × Bool)) (i : Item) : State × List (Nat × Nat × Bool) :=
      let x := en.elem i.el.e
      let r := t.1.vamoOne (i.ok.getD []) x.1 x.2 op
      (r.1, t.2 ++ [(i.el.e, r.2.1, r.2.2)])
    let (s3, rets) := order.foldl step (s2, [])
    let left := j.left items
    let proto : Entry := vamoProto code j
    let s3 := s3.noteWrites s1 false f.acq
    let s4 := if f.vret then s3.deliver (f.t.toNat / 2 % 8) proto 1 (fun _ e => e.fillWith rets) !left.isEmpty else s3
    if left.isEmpty then (s4.deq (8 + f.t.toNat % 2) 1).deq (f.x.toNat % 8) 1 else s4.vFault h j .atomic items left

/-- The checks of a vector atomic (R173, R187, R194), then its elements; one whose elements are performed one by one goes on with the next. -/
def vamo (code : Nat) (f : LM) (s : State) (op : Nat → Nat → Nat) : Out :=
  onHart s (fun h =>
    let ne := h.octrl.vl
    match (if s.issue.vec then h.vpend else none) with
    | some v => vamoStep f h { fmt := .fp32, ne := ne, mask := s.vmask h f false } op v s
    | none =>
    match s.headsIf true (8 + f.t.toNat % 2) 1, s.headsIf true (f.x.toNat % 8) 1 with
    | some es, some hs =>
      let en := headOf es
      let j : VJob := { fmt := .fp32, ne := ne, mask := s.vmask h f false }
      if en.fmt.width ≠ 32 then s.operand 0x35
      else if en.cnt ≠ ne then s.operand 0x32
      else match indexOf (headOf hs) ne with
      | none => s.operand 0x33
      | some idx =>
        match (if f.vret then s.destCheck h (f.t.toNat / 2 % 8) ne ne (code + 256) 1 else .ok false) with
        | .error sub => s.operand sub
        | .ok true => s.stall
        | .ok false =>
          if f.rel ∧ !s.relReady h f.sc.toNat then s.stall
          else if stepwise f then vamoBegin f code h j op (s.vpendNow en idx) s else vamoGo f code h j en idx op s
    | _, _ => s.stall)

def execVamoadd (f : LM) (s : State) : Out :=
  vamo 0x28 f s (fun old x => if f.vfp then rn32 (Val.sum [f32 old, f32 x]) else (old + x) % 2 ^ 32)
def execVamomin (f : LM) (s : State) : Out := vamo 0x29 f s (fun old x => if f.vfp then fmin32 old x else amoPick f.vu true 32 old x)
def execVamomax (f : LM) (s : State) : Out := vamo 0x2A f s (fun old x => if f.vfp then fmax32 old x else amoPick f.vu false 32 old x)
def execVamoswp (f : LM) (s : State) : Out := vamo 0x2B f s (fun _ x => x)

/-! The grid drain (R184). -/
def drvView (f : LM) : View := match f.x.toNat / 8 with | 0 => .row f.t.toNat | 1 => .col f.t.toNat | _ => .diag f.t.toNat

/-- DRV. A column or diagonal view of a BX band raises subcause 0x37, which R184 and R194 give for it, and not the 0x13 of the table of R213 (DEDUCED, log 75). -/
def execDrv (f : LM) (s0 : State) : Out :=
  onHart s0 (fun h =>
    let p := s0.issue.core
    let x := s0.vctx h h.octrl.vl
    let v := drvView f
    let s := if s0.rowsLate p s0.issue.slot h Flight.writes (vRows v x.len 1) (x.groupsAt (vCols v x.len)) then s0.late 1 else s0
    let dq := 8 + f.x.toNat % 8
    if x.len = 0 then s
    else if x.wide v then s.operand 0x12
    else match x.tags v 1 with
    | [t] =>
      if t = .bx ∧ (f.x.toNat / 8 ≠ 0 ∨ x.len % 8 ≠ 0) then s.operand 0x37
      else if s.queueCells h dq < x.len then s.operand 0x36
      else if s.rowsBusy p s.issue.slot (vRows v x.len 1) (x.groupsAt (vCols v x.len)) ∨ (s.queue p dq).room s.cycle = 0 then s.stall
      else
        let l := (List.range x.len).filter (fun j => (h.ok f.k.toNat).getLsbD j)
        let at_ (j : Nat) : Nat × Nat := vAt v 0 j
        let en : Entry := {
          id := s.nextId, st := .visible, since := s.cycle, fmt := t.fmt, cnt := if t = .bx then x.len / 8 else x.len * t.n
          cells := l.map (fun j => (j, x.c.cell x.gs (at_ j).1 (at_ j).2))
          pois := BitVec.ofNat 256 (maskOf 256 (fun j => l.contains j && x.c.poison x.gs (at_ j).1 (at_ j).2)) }
        { s with nextId := s.nextId + 1 }.setQueue p dq ((s.queue p dq).push s.cycle [en])
    | _ => s.operand 0x11)

end Sys2Proof.Machine
end

