-- ==== Sys2Proof/Machine/Retire.lean ====
section
/-! DEFINITION. The ends of slots in flight: write cycles (R222), completed vector accesses (R157), retirement and its tokens (R58, R203), the choice
among post-effect traps (R380), protected mode (R224), and power gating (R220). -/
namespace Sys2Proof.Machine
open Sys2Proof

/-! Post-effect traps. -/
/-- Nothing of the hart's packets is in flight on its core. -/
def State.landed (s : State) (p i : Nat) (h : Hart) : Bool := (s.core p).flight.all (fun f => f.slot != i) && h.accs.isEmpty && h.vpend.isNone

/-- Cause 0x29 of a hart whose instruction holds records that find no room (R387). -/
def Hart.fullReq (h : Hart) : TrapReq := { cause := 0x29, crl := h.stallOwed.any (·.crl), pc := (h.stallOwed.head?).bind (·.pc) }
/-- What the packet raises once its instruction has ended stands aside while the hart handles the full queue, and its serialising slot waits on there (R387). -/
def Hart.standAside (h : Hart) : Hart := { h with owed := [], stallOwed := h.owed, pend := 0, pendAside := h.pend }
/-- The stalled instruction has ended, and its packet goes on as it stood. -/
def Hart.comeBack (h : Hart) (cycle : Nat) : Hart :=
  let g := h.report cycle
  { g with stall29 := [], owed := h.stallOwed, stallOwed := [], pend := h.pendAside, pendAside := 0, opnd := h.kOpnd, octrl := h.kCtrl }

/-- Takes the post-effect trap of a hart's last packet once every slot of it has taken effect (R379); where its records found no room the hart takes 0x29
first, and its own trap later (R387). A STEST of the packet ends before that. At a stop a slot that the stop abandons no longer holds the trap back: the hart stops in handler state,
and the slot waits on there once the hart runs again (R354, R389). -/
def State.settle (s : State) (p i : Nat) : State :=
  match s.hart? p i with
  | none => s
  | some h =>
    if h.owed.isEmpty ∨ fldN h.pend 63 56 = 0xE2 then s
    else if !h.stall29.isEmpty then (s.setHart p i h.standAside).enterTrap p i h.standAside.fullReq
    else if (h.pend ≠ 0 ∧ !(h.stopped && s.abandons p i h)) ∨ !s.landed p i h then s
    else match pickOwed h.owed with
      | none => s
      | some t => (s.modHart p i (fun h => { h with owed := [], tileInfo := tileOf h.owed, pend := 0, pendAside := h.pend })).enterTrap p i t

/-- A hart back from cause 0x29: its stalled instruction pushes its records, and takes 0x29 again where they do not fit or its own trap where they
do (R387). -/
def State.unstall (s : State) (p i : Nat) : State :=
  match s.hart? p i with
  | none => s
  | some h =>
    if h.stallOwed.isEmpty then s
    else
      let (s1, left) := s.pushRecs p h.stall29
      if left.isEmpty then (s1.modHart p i (·.comeBack s.cycle)).settle p i
      else (s1.modHart p i (fun h => { h with stall29 := left })).enterTrap p i h.fullReq

/-! Write cycles. -/
/-- Flights issued before one, in order. -/
def before (l : List Flight) (id : Nat) : List Flight := l.takeWhile (fun f => f.id != id)
def overlaps (a b : Flight) : Bool :=
  (a.wrote.any b.wrote.contains && a.groups.any b.groups.contains) || (a.slot == b.slot && a.deps.any b.deps.contains)

/-- A flight whose write cycle has ended, with none before it that writes what it writes. -/
def State.flightDue (s : State) (p id : Nat) : Option Flight :=
  let l := (s.core p).flight
  match l.find? (fun f => f.id == id) with
  | none => none
  | some f => if f.due < s.cycle ∧ (before l id).all (fun g => !overlaps g f) then some f else none

/-- A cell as it is written: bits that stay are those of the cell as it stands, with its poison (R270, R280). -/
def VEff.merged (e : VEff) (c : Core) (r j : Nat) (v : Cell × Bool) : Cell × Bool :=
  match e.keep.find? (fun q => q.1 == r && q.2.1 == j) with
  | none => v
  | some (_, _, m) => ((v.1 &&& ~~~m) ||| (c.cell e.gs r j &&& m), v.2 || c.poison e.gs r j)

/-- The writes of a V slot to the grid and the tags. -/
def VEff.grid (e : VEff) (c : Core) : Core :=
  e.tags.foldl (fun c q => c.putTag e.gs q.1 q.2) (e.puts.foldl (fun c q =>
    let o := e.merged c q.1 q.2.1 q.2.2
    c.putCell e.gs q.1 q.2.1 o.1 o.2) c)

/-- The writes of a V slot to its hart's masks and vsc in a cycle. -/
def VEff.hart (e : VEff) (cycle : Nat) (h : Hart) : Hart := { e.masks.foldl (fun h q => h.putK cycle q.1 q.2) h with vsc := tsetMany h.vsc e.vsc }

/-- A grid cell's corrected error is counted; the device reports a physical group whose count passes the threshold, and leaves it in use (R219, log 70). -/
def State.correctError (s : State) (p g : Nat) : State :=
  let n := tget 0 (s.core p).corrected g + 1
  let s1 := s.modCore p (fun c => { c with corrected := tset c.corrected g n })
  if n = Config.correctedThreshold + 1 then s1.event (srcService (p / 2)) evCorrected (p * 32 + g) else s1
/-- The corrected error that a write-back brings, if it does: physical group `arg.idx`. -/
def State.correctedNow (s : State) (p : Nat) : State := if s.arg.flag ∧ s.arg.idx < 17 then s.correctError p s.arg.idx else s

/-- Removes a flight; its settings end with it (R221). -/
def State.unfly (s : State) (p id : Nat) : State := s.modCore p (fun c => { c with flight := c.flight.filter (fun f => f.id != id) })

/-- V_WRITEBACK: the write cycle of a V slot (R222, R255), with whose end its drain entry becomes visible (R199); one that fails there writes nothing (R225, R286). -/
def State.vWriteback (s : State) (p id : Nat) : State :=
  match s.flightDue p id with
  | some f =>
    match f.eff with
    | .v e =>
      let s1 := s.unfly p id
      let s2 : State := if f.fault then s1
        else
          let s3 := (s1.modCore p e.grid).modHart p f.slot (e.hart f.due)
          match e.dq with
          | some (q, x) => s3.setQueue p q ((s3.queue p q).show f.due x)
          | none => s3
      (s2.correctedNow p).settle p f.slot
    | .m _ => s
  | none => s
def execVWriteback (s : State) : Out := below s.arg.core 32 (s.vWriteback s.arg.core s.arg.id)

/-- UPDATE_WRITEBACK: the write cycle of an update (R232). -/
def State.updateWriteback (s : State) (p id : Nat) : State :=
  match s.flightDue p id, (s.flightDue p id).bind (fun f => s.hart? p f.slot) with
  | some f, some h =>
    match f.eff with
    | .m e =>
      let r := e.apply (s.core p) (s.colo p h)
      ((((s.setCore p r.1).unfly p id).setColo p h r.2).correctedNow p).settle p f.slot
    | .v _ => s
  | _, _ => s
def execUpdateWriteback (s : State) : Out := below s.arg.core 32 (s.updateWriteback s.arg.core s.arg.id)

/-- A slot of the core has yet to write what it was to write before this cycle. -/
def State.overdue (s : State) (p : Nat) : Bool := (s.core p).flight.any (fun f => (s.flightDue p f.id).isSome)

/-- PEPPER_GENERATOR_STEP: one core cycle passes on every core (R4, R37), once the writes of the cycle before have been made; the Ethernet port goes on with what waits in it. -/
def execPepperGeneratorStep (s : State) : Out :=
  .next (if (List.range 32).any s.overdue then s
    else ({ s with cycle := s.cycle + 1, cores := (List.range 32).map (fun p => (p, (s.core p).tick s.cycle)) } : State).portRound)

/-! Vector accesses and retirement. -/
/-- The hart that waits for an access, with its slot and what the access has brought. -/
def Core.reader (c : Core) (id : Nat) : Option (Nat × Hart × VRead) :=
  c.harts.findSome? (fun q => q.2.bind (fun h => (h.vreads.find? (fun v => v.id == id)).map (fun v => (q.1, h, v))))
/-- What a vector load has brought changes before its entries are visible. -/
def State.rebring (s : State) (p i : Nat) (v : VRead) : State :=
  let m := v.ctrl.mfc
  let wm := ((fmtAt (mfcLmem m)).getD .fp32).width
  let ents := (s.queue p v.q).ents
  let first := ents.findIdx (fun e => e.id == v.id)
  let again (e : Entry) (n : Nat) : Entry := if e.id = v.id then e.fillWith (broughtBy v.ctrl v.seed wm (mfcLsc m == 1) e.fmt v.raws (n - first)) else e
  (s.setQueue p v.q { s.queue p v.q with ents := ents.zipIdx.map (fun x => again x.1 x.2) }).modHart p i (fun h =>
    { h with vreads := h.vreads.map (fun w => if w.id = v.id then v else w) })
/-- Element `n` of a vector load is performed at this moment (R289, R293). -/
def State.elementNow (s : State) (p id n : Nat) : State :=
  match (s.core p).reader id with
  | none => s
  | some (i, _, v) =>
    match v.live, v.raws[n]? with
    | true, some r =>
      let s1 : State := { s with issue := { core := p, slot := i } }
      let s2 := s1.rebring p i { v with raws := v.raws.set n { r with bytes := s.vread r.oks, bad := s.badAny r.oks } }
      let s3 := s2.readDone [{ el := { e := r.e, fl := r.fl, va := 0, nb := 0, bo := r.bo }, res := .ok r.oks }]
      { s3 with issue := {} }
    | _, _ => s
/-- A granule that a vector load has read fails on its way to the core: the elements that touch it are uncorrectable (R170, R401). -/
def State.elementFails (s : State) (p id d src g : Nat) : State :=
  match (s.core p).reader id with
  | none => s
  | some (i, _, v) =>
    let hit (r : VRaw) : Bool := r.oks.any (fun o => match o.loc with | .mem k => k / 64 == g | _ => false)
    if !v.raws.any hit ∨ 16 ≤ d then s else (s.hopFailure d src g).rebring p i { v with raws := v.raws.map (fun r => if hit r then { r with bad := true } else r) }

/-- The entries that a vector load reserved become visible, and its access is over (R157, R199). -/
def State.accessDone (s : State) (p id : Nat) : State :=
  let mine := (s.core p).harts.any (fun q => q.2.any (fun h => h.accs.contains id))
  let s1 := if !mine then s else s.modCore p (fun c => { c with
    q := c.q.map (fun q => (q.1, q.2.show s.cycle id))
    harts := c.harts.map (fun q => (q.1, q.2.map (fun h => { h with accs := h.accs.filter (· != id), vreads := h.vreads.filter (fun v => v.id != id) }))) })
  (List.range 8).foldl (fun s i => s.settle p i) s1
/-- VECTOR_ACCESS_COMPLETE; with `flag` the access goes on: one of its elements is performed now, or with `ok` a granule fails on its way. -/
def execVectorAccessComplete (s : State) : Out :=
  let a := s.arg
  below a.core 32 (if a.flag then (if a.ok then s.elementFails a.core a.id a.die a.idx a.off else s.elementNow a.core a.id a.len) else s.accessDone a.core a.id)

/-- A packet that reserved a token place has drained: what it put in flight has landed, and its register writes are complete (R53, R58). -/
def State.drainedOf (s : State) (p i : Nat) (h : Hart) (t : TokPlace) : Bool :=
  let mine (n : Nat) : Bool := decide (t.lo ≤ n) && decide (n < t.hi)
  (s.core p).flight.all (fun f => f.slot != i || !mine f.id) && h.accs.all (fun a => !mine a) && decide (t.due ≤ s.cycle)

/-- The packet's serialising slot still waits, or its vector instruction is stalled under 0x29, and no stop ends them (R58, R205, R353, R387). -/
def State.slotWaits (s : State) (p i : Nat) (h : Hart) (t : TokPlace) : Bool :=
  h.pendTok == some t.hi && (h.vpend.isSome || (if h.stopped then !s.idlePend p i h else h.pend != 0 || h.pendAside != 0 || !h.stall29.isEmpty))

/-- PACKET_RETIRE: the token place of a packet that has retired becomes a token (R58, R203). -/
def State.retire (s : State) (p i : Nat) : State :=
  match s.hart? p i with
  | none => s
  | some h =>
    match h.tokens.find? (fun t => s.drainedOf p i h t && !s.slotWaits p i h t) with
    | none => s
    | some t => (s.setHart p i { h with tokens := h.tokens.erase t }).modFifo p t.fifo (·.fill s.cycle)
def execPacketRetire (s : State) : Out := below s.arg.core 32 (s.retire s.arg.core s.arg.slot)

/-! Protected mode (R224). -/
/-- Copies every primary column of every row, poison included, into its mirror. -/
def Core.mirror (c : Core) (gs : List Nat) : Core :=
  let w := protCols true gs.length
  (List.range 256).foldl (fun c i => (List.range w).foldl (fun c j => c.putCell gs i (j + w) (c.cell gs i j) (c.poison gs i j)) c) c

/-- PROTECTED_MODE_ENABLE: once no row of the gang is busy, the mirror columns are copied and the lengths clamped. -/
def State.protect (s : State) (p i : Nat) : State :=
  match s.hart? p i with
  | none => s
  | some h =>
    let gs := s.groupsOf p h
    if !h.protBusy || s.anyBusy p gs then s
    else
      let m := s.maxl p h
      (s.modCore p (·.mirror gs)).modHart p i (fun h => { h with protBusy := false, ctrl := { h.ctrl with vl := min h.ctrl.vl m, mvl := min h.ctrl.mvl m } })
def execProtectedModeEnable (s : State) : Out := below s.arg.core 32 (s.protect s.arg.core s.arg.slot)

/-- GROUP_POWER_GATE: a group free for 65,536 cycles is gated; nothing that a program reads changes (R220). -/
def execGroupPowerGate (s : State) : Out :=
  below s.arg.core 32 (s.modCore s.arg.core (fun c =>
    if s.arg.idx < 16 ∧ latOwner c.lat s.arg.idx = 7 ∧ tget 0 c.freeAt s.arg.idx + 65536 ≤ s.cycle then
      { c with gated := tset c.gated s.arg.idx true } else c))

end Sys2Proof.Machine
end

