-- ==== Sys2Proof/Machine/Sync.lean ====
section
/-! DEFINITION. Synchronisation and task instructions (R352 to R375), FENCE and BARARR (R189), and the system instructions TRAP, ERET, FRQPOP and
STEST (R321 to R324). A slot that waits after its packet has issued stands in `Hart.pend`; its meaning runs again until it is done (R353). -/
namespace Sys2Proof.Machine
open Sys2Proof

/-- A serialising slot retires with a result. -/
def State.retireG (s : State) (d : Nat) (v : Word) : State := (s.wrG d v).pend 0
/-- Requests of a core cannot reach a die: it is fenced or no route leads to it (R412, R415). -/
def State.gone (s : State) (p d : Nat) : Bool := !s.reach (p / 2) d

/-! Semaphores and communication words (R355 to R358). -/
def selDie (x : Word) : Nat := fldN x 11 8
def selBit (x : Word) : Nat := fldN x 5 0
/-- The handle of the gang that a hart belongs to. -/
def State.handleOfHart (s : State) (h : Hart) : Nat := (s.gang h.die h.idx).handle

/-- A request of the slot in issue reaches a die (R355); one that comes out of the order of its cycle arrives in a later one. -/
def State.atDie (s : State) (d kind bit : Nat) (w : Word) (k : State → State) : State :=
  match s.turn d (8 * s.issue.core + s.issue.slot) kind bit with
  | none => s.pend w
  | some t => k t

/-- SEMTS. -/
def execSemts (f : SI) (s : State) : Out :=
  onHart s (fun h =>
    let p := s.issue.core
    let d := selDie (h.og f.s1.toNat)
    let b := selBit (h.og f.s1.toNat)
    let mine (q : SemReq) : Bool := q.core == p && q.slot == s.issue.slot && q.handle == s.handleOfHart h && q.bit == b
    let quit (s : State) : State := s.modDie d (fun x => { x with semq := x.semq.filter (fun q => !mine q) })
    match (s.die d).semq.find? mine with
    | some q => if q.granted then (quit s).retireG f.d.toNat 0 else if s.gone p d then (quit s).retireG f.d.toNat 6 else s.pend (encode (.semts f))
    | none =>
      if s.gone p d then s.retireG f.d.toNat 6
      else s.atDie d 1 b (encode (.semts f)) (fun s =>
        if (s.die d).sem.getLsbD b then
          (s.modDie d (fun x => { x with semq := x.semq ++ [{ bit := b, core := p, slot := s.issue.slot, handle := s.handleOfHart h }] })).pend (encode (.semts f))
        else (s.modDie d (fun x => { x with sem := x.sem ||| (1#64 <<< b) })).retireG f.d.toNat 0))

/-- SEMTS.TRY. -/
def execSemtsTry (f : SI) (s : State) : Out :=
  onHart s (fun h =>
    let d := selDie (h.og f.s1.toNat)
    let b := selBit (h.og f.s1.toNat)
    if s.gone s.issue.core d then s.retireG f.d.toNat 6
    else s.atDie d 1 b (encode (.semtsTry f)) (fun s =>
      if (s.die d).sem.getLsbD b then s.retireG f.d.toNat 1
      else (s.modDie d (fun x => { x with sem := x.sem ||| (1#64 <<< b) })).retireG f.d.toNat 0))

/-- Clears a bit, or hands it to the oldest waiting request (R356). -/
def Die.clearSem (x : Die) (b : Nat) : Die :=
  match x.semq.findIdx? (fun q => q.bit == b && !q.granted) with
  | some i => { x with semq := x.semq.zipIdx.map (fun (q, j) => if j = i then { q with granted := true } else q) }
  | none => { x with sem := x.sem &&& ~~~(1#64 <<< b) }

/-- SEMCLR: a release at package scope, then the clear; what a die that cannot be reached returns is free. -/
def execSemclr (f : SR) (s : State) : Out :=
  onHart s (fun h =>
    let d := selDie (h.og f.s1.toNat)
    let b := selBit (h.og f.s1.toNat)
    if !s.relReady h 3 then s.pend (encode (.semclr f))
    else if s.gone s.issue.core d then s.drawn.retireG f.d.toNat (s.freeVal.setWidth 64)
    else s.atDie d 2 b (encode (.semclr f)) (fun s =>
      if (s.die d).sem.getLsbD b then (s.modDie d (·.clearSem b)).retireG f.d.toNat 1
      else s.retireG f.d.toNat 0))

/-- CMRD. -/
def execCmrd (f : SR) (s : State) : Out :=
  onHart s (fun h =>
    let x := h.og f.s1.toNat
    let d := selDie x
    if s.gone s.issue.core d then s.retireG f.d.toNat 0
    else s.atDie d 0 0 (encode (.cmrd f)) (fun s => s.retireG f.d.toNat (if x.getLsbD 6 then (s.die d).sem else tget 0 (s.die d).dat (fldN x 4 0))))

/-- CMWR. -/
def execCmwr (f : SR) (s : State) : Out :=
  onHart s (fun h =>
    let x := h.og f.s1.toNat
    let d := selDie x
    let n := fldN x 4 0
    if s.gone s.issue.core d then s.retireG f.d.toNat 0
    else s.atDie d 0 0 (encode (.cmwr f)) (fun s =>
      (s.modDie d (fun y => { y with dat := tset y.dat n (h.og f.s2.toNat) })).retireG f.d.toNat (tget 0 (s.die d).dat n)))

/-! Gang barriers (R359 to R363). -/
def State.bar (s : State) (h : Hart) (n : Nat) : Barrier := tget {} (s.gang h.die h.idx).bars n
def State.setBar (s : State) (h : Hart) (n : Nat) (b : Barrier) : State := s.modGang h.die h.idx (fun r => { r with bars := tset r.bars n b })

/-- BARWAIT (R361). -/
def execBarwait (f : SI) (s : State) : Out :=
  onHart s (fun h =>
    let n := f.imm.toNat % 4
    let b := (s.bar h n).sync s.cycle
    if barDone b.phase (tget 0 h.wt n) then s.retireG f.d.toNat (BitVec.ofNat 64 b.phase) else s.pend (encode (.barwait f)))

/-- BARWAIT.SET (R362). -/
def execBarwaitSet (f : SI) (s : State) : Out :=
  onHart s (fun h =>
    let n := f.imm.toNat % 4
    let x := h.og f.s1.toNat
    let b := (s.bar h n).sync s.cycle
    if 64 < fldN x 6 0 ∨ fldN x 15 7 ≠ 0 then s.retireG f.d.toNat 3
    else if b.arr = 0 ∧ b.cred = 0 then (s.setBar h n { b with narr := fldN x 6 0, nbytes := fldN x 63 16 }).retireG f.d.toNat 0
    else (s.setBar h n { b with next := (fldN x 6 0, fldN x 63 16), nextv := true }).retireG f.d.toNat 0)

/-- FENCE and BARARR may retire (R189, R297): earlier accesses have returned, and the counter reads 0. -/
def State.fenceReady (s : State) (h : Hart) (sc : Nat) : Bool := h.accs.isEmpty && s.relReady h sc

/-- FENCE. Beside an ERET it takes effect first, so that packet waits whole (R384). -/
def execFence (f : LM) (s : State) : Out :=
  onHart s (fun h =>
    if s.fenceReady h f.sc.toNat then s.pend 0
    else if fldN (tget 0 s.issue.words 0) 63 56 = 0xE1 then s.stall
    else s.pend (encode (.fence f)))

/-- BARARR. -/
def execBararr (f : LM) (s : State) : Out :=
  onHart s (fun h =>
    let n := f.t.toNat % 4
    if s.fenceReady h f.sc.toNat then
      let a := (s.bar h n).arrive s.cycle
      ((s.setBar h n a.2).modCur (fun h => { h with wt := tset h.wt n a.1 })).pend 0
    else s.pend (encode (.bararr f)))

/-! Records (R364 to R368). -/
def launchFail (code : Nat) : Word := BitVec.ofNat 64 (2 ^ 30 + code)

/-- Accepts a descriptor: the lowest free resident slot, else the overflow ring, else FULL (R338, R364, R365). -/
def State.accept (s : State) (h : Hart) (d : Nat) (b : List Byte) (rd : Nat) : State :=
  let x := s.die d
  let desc := Desc.parse b
  let ctx := if h.priv then desc.ctx else h.ctx
  let full : State := s.modDie d (fun x => { x with fullAt := some s.cycle })
  match (List.range 1024).find? (fun i => (s.gang d i).st == 0) with
  | some i =>
    let gen := (s.gang d i).gen
    let r : Rec := { st := 2, gen := gen, handle := handleOf gen false d i, desc := desc, ctx := ctx, deps := desc.deps, byFw := h.priv }
    ((s.seeNote d r).setGang d i (s.evaluate d r)).retireG rd (BitVec.ofNat 64 r.handle)
  | none =>
    match (List.range x.ovrSlots).find? (fun j => (s.ringRec d j).st == 0) with
    | none => full.retireG rd (launchFail 1)
    | some j =>
      let va := x.ovrBase + BitVec.ofNat 80 (256 * j)
      match full.xlateSpan (agent d 0) va 256 .store false with
      | (_, .error (a, y)) => if y.wait then s.stall else s.memTrap y.cause a .store 256 y.level y.unk
      | (s1, .ok l) =>
        let gen := (s.ringRec d j).gen
        let r : Rec := { st := 1, gen := gen, handle := handleOf gen true d j, desc := desc, ctx := ctx, deps := desc.deps, byFw := h.priv, ringIdx := some j, order := s.nextId }
        let own := (List.range 4).flatMap (fun n => leBytes 32 (Config.free (s.draw + n)).toNat)
        let s2 := ({ s1 with nextId := s.nextId + 1, draw := s.draw + 4 } : State).commit (memBytes l (b ++ own)) false
        (s2.setRing d j r).retireG rd (BitVec.ofNat 64 r.handle)

/-- LAUNCH (R364). Its faults are precise, and a packet takes effect only after every precise check of it has passed (R379): the packet waits whole until the release is complete
(DEDUCED, log 73). -/
def execLaunch (f : SR) (s : State) : Out :=
  onHart s (fun h =>
    let d := s.issue.core / 2
    let va := h.oa f.s1.toNat
    if va.toNat % 64 ≠ 0 then s.memTrap 0x21 va .load 128 15 false
    else if !s.relReady h 3 then s.stall
    else s.scalar h va 128 .load (fun s l b =>
      match s.badByte l with
      | some (i, lv) => s.memTrap 0x1F (va + BitVec.ofNat 80 i) .load 128 lv false
      | none =>
        let bytes := s.got l b
        let s1 := s.noteSeen (locKeys l)
        if s.descAccepted bytes h.priv then s1.accept h d bytes f.d.toNat else s1.retireG f.d.toNat (launchFail 2)))

/-- A handle of a record that a fenced die held at its fence moment (R366, R415). -/
def State.orphaned (s : State) (h : Nat) : Bool :=
  let d := h / 2 ^ 20 % 32
  decide (d < 16) && s.hub.fset.testBit d && h != 0 && ((s.die d).recs.any (fun q => q.2.handle == h) || (s.die d).ring.any (fun q => q.2.handle == h))
/-- The first status of R366 that applies to a record, none where the act may go ahead. -/
def State.recStatus (s : State) (h : Hart) (handle : Nat) : Except Nat (Nat × RecAt) :=
  match s.lookup handle with
  | none => .error (if s.orphaned handle then 6 else 2)
  | some (d, a) =>
    if s.gone s.issue.core d then .error 6
    else if (s.recAt d a).ctx ≠ h.curCtx ∧ !h.priv then .error 3
    else .ok (d, a)

/-- SIGNAL (R367). -/
def execSignal (f : SR) (s : State) : Out :=
  onHart s (fun h =>
    if !s.relReady h 3 then s.pend (encode (.signal f))
    else match s.recStatus h (h.og f.s1.toNat).toNat with
    | .error c => s.retireG f.d.toNat (BitVec.ofNat 64 c)
    | .ok (d, a) => s.atDie d 0 0 (encode (.signal f)) (fun s =>
      let r := s.recAt d a
      if r.deps = 0 then s.retireG f.d.toNat 1
      else ((s.seeNote d r).setRecAt d a (s.evaluate d { r with deps := r.deps - 1 })).retireG f.d.toNat 0))

/-- Ends a record that was never placed, with status 0x01 (R349, R368). -/
def State.cancelUnplaced (s : State) (d : Nat) (a : RecAt) : State :=
  let s1 := s.endWord d (s.recAt d a) 1
  match a with
  | .res i => s1.freeRec d i
  | .ring j => s1.setRing d j { gen := ((s1.ringRec d j).gen + 1) % 2 ^ 32 }

/-- CANCEL (R368): run again while the record is placing or being saved, and while the end of one that was never placed has to wait, for its end word (R127) or for the next cycle
(R364). -/
def execCancel (f : SR) (s : State) : Out :=
  onHart s (fun h =>
    let again := h.served
    let ok (s : State) : State := s.retireG f.d.toNat 0
    match s.recStatus h (h.og f.s1.toNat).toNat with
    | .error c => if again ∧ c = 2 then ok s else s.retireG f.d.toNat (BitVec.ofNat 64 c)
    | .ok (d, a) =>
      let r := s.recAt d a
      if a = .res h.idx ∧ d = h.die then s.retireG f.d.toNat 4
      else if r.st = 7 then (if again then ok s else s.retireG f.d.toNat 5)
      else (if again then (fun k => k s) else s.atDie d 0 0 (encode (.cancel f))) (fun s =>
        if r.st = 1 ∨ r.st = 2 ∨ (r.st = 3 ∧ r.places.isEmpty) then
          (if s.endWaits d r ∨ (s.die d).fullAt = some s.cycle then s.pendServed (encode (.cancel f)) else ok (s.cancelUnplaced d a))
        else match a with
        | .ring _ => ok s
        | .res i =>
          if r.st = 3 then ok (s.modGang d i (fun r => { r with st := 7, endStatus := some 2 }))
          else if r.st = 5 then ok (s.endGang d i 2)
          else (s.modGang d i (fun r => { r with cancelWait := true })).pendServed (encode (.cancel f))))

/-! Notify words (R369 to R371). -/
def ntfFail (code : Nat) : Word := BitVec.ofNat 64 (2 ^ 63 + code)

/-- NWAIT. -/
def execNwait (f : SR) (s : State) : Out :=
  onHart s (fun h =>
    match s.ntfSel s.issue.core (h.og f.s1.toNat) with
    | none => s.retireG f.d.toNat (ntfFail 1)
    | some k =>
      let v := s.readN k 8
      if s.badKey k then (s.verify [k / 64]).retireG f.d.toNat (ntfFail 2)
      else if !s.ownPending [k] && s.acqReady 5 [k] && reached v (h.og f.s2.toNat).toNat then (s.noteSeen [k]).retireG f.d.toNat (BitVec.ofNat 64 (v % 2 ^ 63))
      else s.pend (encode (.nwait f)))

/-- NPOST. -/
def execNpost (f : SR) (s : State) : Out :=
  onHart s (fun h =>
    if !s.relReady h 5 then s.pend (encode (.npost f))
    else match s.ntfSel s.issue.core (h.og f.s1.toNat) with
    | none => s.retireG f.d.toNat (ntfFail 1)
    | some k =>
      if s.badKey k then (s.verify [k / 64]).retireG f.d.toNat (ntfFail 2)
      else
        let old := s.readN k 8 % 2 ^ 63
        let v := (h.og f.s2.toNat).toNat % 2 ^ 63
        let s1 := if (v + 2 ^ 63 - old) % 2 ^ 63 < 2 ^ 62 then s.sendHome (bytesAt k 8 v) 8 false else s
        s1.retireG f.d.toNat (BitVec.ofNat 64 old))

/-! Yielding and exit (R372, R373). -/
/-- YIELD. -/
def execYield (f : SI) (s : State) : Out :=
  onHart s (fun h =>
    let n := min (h.og f.s1.toNat).toNat (2 ^ 20)
    if n = 0 ∨ (h.yieldUntil ≠ 0 ∧ h.yieldUntil ≤ s.cycle) then (s.modCur (fun h => { h with yieldUntil := 0 })).retireG f.d.toNat 0
    else (if h.yieldUntil = 0 then s.modCur (fun h => { h with yieldUntil := s.cycle + n }) else s).pend (encode (.yield f)))

/-- The head of a gang's home die wants what the gang offers. -/
def State.yieldWanted (s : State) (h : Hart) : Bool :=
  let g := s.gang h.die h.idx
  match s.readyList h.die with
  | [] => false
  | (_, r) :: _ =>
    decide (g.desc.prio ≤ r.effPrio s.cycle) && (placeIn r (s.roomFor r)).isNone && g.places.any (fun q => r.desc.cmask.testBit q.core)

/-- YIELD.GANG: a suspended gang finds 1 at its resume. -/
def execYieldGang (f : SI) (s : State) : Out :=
  onHart s (fun h =>
    if (s.gang h.die h.idx).st = 4 ∨ (s.gang h.die h.idx).st = 5 then
      (if s.yieldWanted h then (((s.retireG f.d.toNat 1).gangRuns h).suspend h.die h.idx) else s.retireG f.d.toNat 0)
    else s.retireG f.d.toNat 0)

/-- Every hart of a record has executed GEXIT. -/
def State.allExited (s : State) (r : Rec) : Bool := (s.hartsOf r).all (fun q => q.2.2.exited)

/-- GEXIT: the other slots of its packet take effect and what the hart has issued ends before it stops, records that find no room among them (R169, R373). -/
def execGexit (f : SR) (s : State) : Out :=
  onHart s (fun h =>
    if h.pend = 0 ∨ !s.landed s.issue.core s.issue.slot h ∨ !h.stall29.isEmpty then s.pend (encode (.gexit f))
    else
      let s1 := s.modGang h.die h.idx (fun r => { r with bars := r.bars.map (fun q => (q.1, q.2.leave s.cycle)) })
      let s2 := (s1.modCur (fun h => { h with exited := true, stopped := true, owed := [], pend := 0 })).releasePending h.die h.idx
      let r := s2.gang h.die h.idx
      if s2.allExited r ∧ r.st ≠ 7 then s2.endGang h.die h.idx 0 else s2)

/-- PBCRD (R374). -/
def execPbcrd (f : SI) (s : State) : Out := onHart s (fun h => s.wrG f.d.toNat (BitVec.ofNat 64 (tget 0 h.pbc (f.imm.toNat % 8))))

/-- YIELD_WAKE: a sleeping hart's YIELD retires (R372). -/
def execYieldWake (s : State) : Out :=
  below s.arg.core 32 (
    let p := s.arg.core
    let i := s.arg.slot
    match s.hart? p i with
    | none => s
    | some h =>
      if fldN h.pend 63 56 = 0x7A ∧ h.yieldUntil ≠ 0 ∧ h.yieldUntil ≤ s.cycle ∧ s.asleep h = false then
        ((s.setHart p i { h with regs := writeG h.regs (fldN h.pend 55 51) 0, pend := 0, yieldUntil := 0, pendTok := none, minIssue := max h.minIssue (s.cycle + 1) }).gangRuns h).settle p i
      else s)

/-! System instructions. -/
/-- TRAP: the software trap is taken after every other slot (R321). -/
def execTrap (f : SR) (s : State) : Out := onHart s (fun h => s.after { cause := 0x28, info := (h.og f.s1.toNat).toNat, ret := 2 })

/-- ERET (R322, R384); after cause 0x29 the stalled instruction goes on (R387). -/
def execEret (_f : SR) (s : State) : Out :=
  onHart s (fun h =>
    let p := s.issue.core
    let i := s.issue.slot
    if !h.handler then s.illegal 8 0
    else if fldN h.trap.cause 13 12 = 3 ∨ fldN h.trap.cause 7 0 ≠ 0x29 then s.leaveTrap p i
    else (s.leaveTrap p i).unstall p i)

/-- FRQPOP (R323). -/
def execFrqpop (f : SR) (s : State) : Out :=
  onHart s (fun _ =>
    let p := s.issue.core
    let d := f.d.toNat
    let put (x : BitVec 256) (s : State) : State := (List.range 4).foldl (fun s n => s.wrG (d + n) ((x >>> (64 * n)).setWidth 64)) s
    match (s.core p).frq with
    | [] => put (BitVec.ofNat 256 (2 ^ 127)) s
    | r :: rest => put r (s.modCore p (fun c => { c with frq := rest, frqFreed := (if c.frqFreedAt = s.cycle then c.frqFreed else 0) + 1, frqFreedAt := s.cycle })))

/-- A core is idle (R324). -/
def State.coreIdle (s : State) (p : Nat) : Bool :=
  let c := s.core p
  c.harts.all (fun q => q.2.isNone) && c.stest.isNone && (s.recsOn p).all (fun r => !r.holds && r.desc.spres == 0)
    && (List.range 16).all (fun g => decide (6 ≤ latOwner c.lat g)) && !s.hub.fset.testBit (p / 2)

/-- STEST (R324): its result comes with the end of the test. -/
def execStest (f : SR) (s : State) : Out :=
  onHart s (fun h =>
    let p := s.issue.core
    let x := (h.og f.s1.toNat).toNat
    let y := (h.og f.s2.toNat).toNat
    let w := encode (.stest f)
    if h.pend ≠ 0 then
      (if (List.range 32).any (fun q => (s.core q).stest.any (fun t => t.core == p && t.slot == s.issue.slot)) then s.pend w else s.retireG f.d.toNat 2)
    else if 32 ≤ x ∨ 8 ≤ y then s.retireG f.d.toNat 4
    else if x = p ∨ !s.coreIdle x then s.retireG f.d.toNat 3
    else (s.modCore x (fun c => { c with stest := some { die := x / 2, slot := s.issue.slot, core := p, rd := f.d.toNat, prio := y, started := s.cycle } })).pend w)

end Sys2Proof.Machine
end

