-- ==== Sys2Proof/Machine/Copy.lean ====
section
/-! DEFINITION. Copy engines (R131 to R147): acceptance of CPY, CPYX, CPYM and CPYB, CPST, and the steps of an engine: the start of a command, a chunk that
becomes visible, an arrival credit, and completion. -/
namespace Sys2Proof.Machine
open Sys2Proof

/-! Places of copied bytes. -/
def remotePlace : Nat := 2 ^ 60
def Loc.place : Loc → Nat
  | .mem k => k
  | .remote pa => remotePlace + pa
  | _ => remotePlace
/-- Place of an offset in a list of runs. -/
def runAt (l : List (Nat × Nat × Nat)) (o : Nat) : Nat :=
  match l.find? (fun r => decide (r.1 ≤ o) && decide (o < r.1 + r.2.2)) with
  | some r => r.2.1 + (o - r.1)
  | none => remotePlace
/-- The die of a place is cut off from an engine's die (R415). -/
def State.placeCut (s : State) (d p : Nat) : Bool := decide (p < remotePlace) && s.cutOff d (.mem p)

/-- The place of a byte whose walk is cut off: it names no package, so that the command finds no route to it (R135, log 57). -/
def cutPlace : Nat := remotePlace + 2 ^ 56
/-- Translates one piece of a copy command. Cause 0x19 never arises here: a place on a die that is cut off is taken as it is, and one whose walk is cut off finds no route (R135). -/
def State.copyXlate (s : State) (w : Who) (va : VAddr) (acc : Acc) : State × Except XFault Nat :=
  match s.xlate w va acc false with
  | (s, .ok o) => (s, .ok o.loc.place)
  | (s, .error x) =>
    if x.cause ≠ 0x19 ∨ x.wait then (s, .error x)
    else if !(s.ctxbase w.die).getLsbD 0 then (s, .ok (s.paLoc va.toNat).place)
    else match (s.tlb w).find? (fun t => t.serves w va.toNat acc) with
      | some t => (s, .ok (s.paLoc (t.pa + (va.toNat - t.va))).place)
      | none => (s, .ok cutPlace)

/-- Runs of `n` bytes from an address, split at 4 KiB; `off` is the offset of the first byte. -/
def State.copyRuns (w : Who) (acc : Acc) : Nat → State → VAddr → Nat → Nat → State × Except (VAddr × XFault) (List (Nat × Nat × Nat))
  | 0, s, _, _, _ => (s, .ok [])
  | fuel + 1, s, va, off, n =>
    if n = 0 then (s, .ok [])
    else
      let m := min n (4096 - va.toNat % 4096)
      match s.copyXlate w va acc with
      | (s, .error x) => (s, .error (va, x))
      | (s, .ok p) =>
        match copyRuns w acc fuel s (va + BitVec.ofNat 80 m) (off + m) (n - m) with
        | (s, .error x) => (s, .error x)
        | (s, .ok l) => (s, .ok ((off, p, m) :: l))

/-- Runs of rows, each a first offset from the address and a length. -/
def State.copyRows (w : Who) (acc : Acc) (va : VAddr) : List (Nat × Nat) → State → State × Except (VAddr × XFault) (List (Nat × Nat × Nat))
  | [], s => (s, .ok [])
  | (o, n) :: r, s =>
    match State.copyRuns w acc (n / 4096 + 2) s (va + BitVec.ofNat 80 o) o n with
    | (s, .error x) => (s, .error x)
    | (s, .ok l) =>
      match copyRows w acc va r s with
      | (s, .error x) => (s, .error x)
      | (s, .ok l2) => (s, .ok (l ++ l2))

/-! The descriptor (R134). -/
def CopyCmd.u (c : CopyCmd) (o n : Nat) : Nat := uN c.desc o n
def CopyCmd.srcVa (c : CopyCmd) : VAddr := mk80 c.desc 16
def CopyCmd.dstVa (c : CopyCmd) : VAddr := mk80 c.desc 32
def CopyCmd.sf (c : CopyCmd) : Option Fmt := Fmt.ofCode (c.u 68 1)
def CopyCmd.df (c : CopyCmd) : Option Fmt := Fmt.ofCode (c.u 69 1)
def CopyCmd.rows (c : CopyCmd) : Nat := c.u 72 4
def CopyCmd.cols (c : CopyCmd) : Nat := c.u 76 4
def CopyCmd.dcols (c : CopyCmd) : Nat := c.u 80 4
def CopyCmd.tr (c : CopyCmd) : Bool := (c.u 70 1).testBit 4
def CopyCmd.arr (c : CopyCmd) : Bool := c.kind == 2 && (c.u 65 1).testBit 0
def CopyCmd.flagOp (c : CopyCmd) : Nat := c.u 64 1
/-- Bytes of a row of n elements (R138). -/
def rowBytes (f : Option Fmt) (n : Nat) : Nat := (n * (f.getD .fp32).width + 7) / 8
/-- Rows that CPYX writes. -/
def CopyCmd.drows (c : CopyCmd) : Nat := if c.tr then c.cols else c.rows
/-- Source and destination rows of CPYX. -/
def CopyCmd.srcRows (c : CopyCmd) : List (Nat × Nat) := (List.range c.rows).map (fun i => (i * c.u 88 8, rowBytes c.sf c.cols))
def CopyCmd.dstRows (c : CopyCmd) : List (Nat × Nat) := (List.range c.drows).map (fun i => (i * c.u 96 8, rowBytes c.df c.dcols))
/-- Length from the first row's first byte to the last row's last byte (R138). -/
def CopyCmd.srcSpan (c : CopyCmd) : Nat := (c.rows - 1) * c.u 88 8 + rowBytes c.sf c.cols
def CopyCmd.dstSpan (c : CopyCmd) : Nat := (c.drows - 1) * c.u 96 8 + rowBytes c.df c.dcols

/-- Lengths of the two footprints of a command. -/
def CopyCmd.srcLen (c : CopyCmd) : Nat := if c.kind = 1 then c.srcSpan else if c.kind = 3 then c.len * (c.sf.getD .fp32).width / 8 else c.len
def CopyCmd.dstLen (c : CopyCmd) : Nat := if c.kind = 1 then c.dstSpan else if c.kind = 3 then 32 * c.len else c.len

/-- Fields that a command does not use are zero, and the others are in range (R134, R138, R140). -/
def CopyCmd.descOk (c : CopyCmd) : Bool :=
  let z (o n : Nat) : Bool := c.u o n == 0
  let fl : Bool := decide (c.flagOp ≤ 2) && z 58 6 && (if c.flagOp = 0 then z 48 10 else c.u 48 10 % 8 == 0)
  let com : Bool := z 26 6 && fl && z 66 2 && z 71 1 && z 104 24
  let noX : Bool := z 70 1 && z 72 32
  match c.kind with
  | 0 => com && z 42 6 && z 65 1 && z 68 2 && noX
  | 1 =>
    let plain (f : Option Fmt) : Bool := match f with | none => false | some .e8m0 => false | some .bx => false | some _ => true
    com && z 42 6 && z 65 1 && plain c.sf && plain c.df && decide (c.u 70 1 / 32 = 0) && decide (c.u 70 1 % 8 ≤ 5)
      && decide (1 ≤ c.rows) && decide (c.rows ≤ 65536) && decide (1 ≤ c.cols) && decide (c.cols ≤ 65536)
      && decide ((if c.tr then c.rows else c.cols) ≤ c.dcols)
  | 2 => com && z 40 8 && decide (c.u 65 1 / 8 = 0) && z 68 2 && noX
  | _ => com && z 42 6 && z 65 1 && z 69 1 && noX && (c.sf == some .fp32 || c.sf == some .fp16 || c.sf == some .bf16 || c.sf == some .bx) && c.u 32 10 % 32 == 0

/-- Bytes of the destination span that chunks divide (R142). -/
def CopyCmd.span (c : CopyCmd) : Nat := if c.kind = 1 then c.dstSpan else if c.kind = 3 then 32 * c.len else c.len
def CopyCmd.chunkSize (c : CopyCmd) : Nat := 2 ^ (6 + c.cs)
def CopyCmd.chunks (c : CopyCmd) : Nat := (c.span + c.chunkSize - 1) / c.chunkSize
/-- Destination bytes that the pending-byte counters take (R144). -/
def CopyCmd.counted (c : CopyCmd) : Nat :=
  match c.kind with
  | 0 => c.len
  | 1 => if c.bad = none then c.drows * rowBytes c.df c.dcols else 0
  | 2 => c.len * c.cores.length
  | _ => 32 * c.len

/-! Acceptance (R135). -/
/-- The queue that a selector names (R132). -/
def selQueue (f : LC) : Nat := f.imm.toNat % 32
def State.engQ (s : State) (d n : Nat) : EngQ := tget {} (s.die d).eng n
def State.setEngQ (s : State) (d n : Nat) (q : EngQ) : State := s.modDie d (fun x => { x with eng := tset x.eng n q })

/-- A translation fault of acceptance is precise, and its walk stands (R104, R135). -/
def State.copyTrap (s : State) (w : Who) (va : VAddr) (x : XFault) (acc : Acc) : State :=
  if x.wait then s.stall else { s with issue := { s.issue with walk := some (w, va, 1, acc) } }.memTrap x.cause va acc 1 x.level x.unk

/-- The level of the leaf that translates an address. -/
def State.leafLevel (s : State) (w : Who) (va : VAddr) : Nat := match (s.xlate w va .load false).2 with | .ok o => o.level | .error _ => 15

/-- A byte lies in a package that no route leads to. -/
def State.unrouted (s : State) (p : Nat) : Bool := decide (remotePlace ≤ p) && !s.hasRoute (p - remotePlace)

/-- Runs of the source of a command, then of its destinations. -/
def CopyCmd.translate (c : CopyCmd) (s : State) (w : Who) (base : Nat → Nat) : State × Except (VAddr × XFault × Acc) CopyCmd :=
  let n := if c.kind = 3 then c.len * (c.sf.getD .fp32).width / 8 else c.len
  let whole (m : Nat) : List (Nat × Nat) := [(0, m)]
  match State.copyRows w .load c.srcVa (if c.kind = 1 then c.srcRows else whole n) s with
  | (s, .error (a, x)) => (s, .error (a, x, .load))
  | (s, .ok src) =>
    if c.kind = 2 then (s, .ok { c with src := src, dst := c.cores.map (fun p => [(0, padKey p (base p + c.u 32 8), c.len)]) })
    else
      let acc : Acc := if c.kind = 3 then .atomic else .store
      match State.copyRows w acc c.dstVa (if c.kind = 1 then c.dstRows else whole (if c.kind = 3 then 32 * c.len else c.len)) s with
      | (s, .error (a, x)) => (s, .error (a, x, acc))
      | (s, .ok dst) => (s, .ok { c with src := src, dst := [dst] })

/-- Translation of the flag. -/
def CopyCmd.flagXlate (c : CopyCmd) (s : State) (w : Who) : State × Except (VAddr × XFault × Acc) CopyCmd :=
  if c.flagOp = 0 then (s, .ok c)
  else
    let acc : Acc := if c.flagOp = 2 then .atomic else .store
    match s.copyXlate w (mk80 c.desc 48) acc with
    | (s, .error x) => (s, .error (mk80 c.desc 48, x, acc))
    | (s, .ok p) => (s, .ok { c with flag := (List.range 8).map (p + ·) })

/-- Places of a range as far as it translates, gaps between rows included; nothing is set or copied for it (R138). -/
def State.footprint (s : State) (w : Who) : Nat → VAddr → Nat → List (Nat × Nat)
  | 0, _, _ => []
  | fuel + 1, va, n =>
    if n = 0 then []
    else
      let m := min n (4096 - va.toNat % 4096)
      (match (s.copyXlate w va .load).2 with | .ok p => [(p, m)] | .error _ => []) ++ footprint s w fuel (va + BitVec.ofNat 80 m) (n - m)
def placesMeet (a b : List (Nat × Nat)) : Bool := a.any (fun x => b.any (fun y => decide (x.1 < y.1 + y.2) && decide (y.1 < x.1 + x.2)))
/-- Source and destination share a location, by virtual address or by place (R137, R138). -/
def CopyCmd.meets (c : CopyCmd) (s : State) (w : Who) : Bool :=
  let runs (l : List (Nat × Nat × Nat)) : List (Nat × Nat) := l.map (fun r => (r.2.1, r.2.2))
  let byVa : Bool := c.kind != 2 && (decide ((c.dstVa - c.srcVa).toNat < c.srcLen) || decide ((c.srcVa - c.dstVa).toNat < c.dstLen))
  byVa || (if c.kind = 1 then placesMeet (s.footprint w (c.srcLen / 4096 + 2) c.srcVa c.srcLen) (s.footprint w (c.dstLen / 4096 + 2) c.dstVa c.dstLen)
           else placesMeet (runs c.src) (runs c.dst.flatten))

/-- Steps 4 to 6 after the descriptor: translations, in their order. -/
def CopyCmd.resolve (c : CopyCmd) (s : State) (w : Who) (base : Nat → Nat) : State × Except (VAddr × XFault × Acc) CopyCmd :=
  if c.bad ≠ none then (s, .ok c)
  else match c.translate s w base with
    | (s, .error x) => (s, .error x)
    | (s, .ok c) => ({ c with clash := c.meets s w } : CopyCmd).flagXlate s w

/-- Cached translations of an agent name Folio blocks. -/
def State.folioCached (s : State) (w : Who) : Bool := (s.tlb w).any (fun t => t.folio.isSome)
/-- The translations that the command joins its queue with: a copy-on-write that they have made themselves leaves none that names the block copied (R127). -/
def CopyCmd.settleBlocks (c : CopyCmd) (s : State) (w : Who) (base : Nat → Nat) : State × Except (VAddr × XFault × Acc) CopyCmd :=
  match c.resolve s w base with
  | (s, .ok d) => if s.folioCached w then c.resolve s w base else (s, .ok d)
  | r => r

def CopyCmd.places (c : CopyCmd) : List Nat := c.src.map (·.2.1) ++ c.dst.flatten.map (·.2.1)
def CopyCmd.away (c : CopyCmd) : Bool := c.dst.flatten.any (fun r => decide (remotePlace ≤ r.2.1))

/-- Writes a k register of the hart in issue and counts bytes of an accepted command. -/
def State.bindK (s : State) (c : CopyCmd) : State :=
  let bits := maskOf 256 (fun i => decide (c.fb ≤ i) && decide (i < c.fb + c.chunks))
  s.modCur (fun x => ((if c.k = 0 then x else x.putK s.cycle c.k (readK x.regs c.k &&& ~~~(BitVec.ofNat 256 bits))).count 0 c.counted))

/-- Step 7: the command joins its queue; its chunk bits are cleared and its bytes counted (R142, R144). -/
def State.join (s : State) (d n rd : Nat) (c : CopyCmd) : State :=
  let q := s.engQ d n
  let s1 := s.setEngQ d n { cmds := q.cmds ++ [{ c with left := c.counted }], seq := (q.seq + 1) % 2 ^ 24 }
  (s1.bindK c).wrG rd (BitVec.ofNat 64 (q.seq * 2 ^ 32))

/-- The command of a slot before its descriptor is read. -/
def copyOf (kind : Nat) (f : LC) (s : State) (h : Hart) : CopyCmd :=
  { kind := kind, hart := h.name, handle := s.handleOfHart h, scope := f.sc.toNat, k := f.k.toNat, cs := fldN f.imm 8 5, fb := fldN f.imm 16 9
    len := (h.og f.s1.toNat).toNat, cores := if kind = 2 then bitsOf 64 (h.og f.s2.toNat).toNat else [] }

/-- Register operands in range (R133). -/
def CopyCmd.operandsOk (c : CopyCmd) : Bool :=
  match c.kind with
  | 0 => decide (c.len ≤ 2 ^ 40)
  | 1 => true
  | 2 => decide (c.len ≤ 2 ^ 40) && !c.cores.isEmpty && decide (c.cores.length ≤ 8) && c.cores.all (fun n => decide (n < 32))
  | _ => decide (1 ≤ c.len) && decide (c.len ≤ 2 ^ 24)

/-- Every core that CPYM names holds a hart of the gang and room for the bytes (R139). -/
def State.coresOk (s : State) (h : Hart) (c : CopyCmd) : Bool :=
  let r := s.gang h.die h.idx
  c.kind != 2 || c.cores.all (fun p => (match r.place? p with | some q => !q.slots.isEmpty | none => false) && decide (c.u 32 8 + c.len ≤ r.desc.spres * 65536))

/-- CPY, CPYX, CPYM and CPYB. The spec leaves open, and the model settles (DESIGN CHOICE, log 80): a chunk count with FB + C > 256 is judged once the descriptor is read, also where C follows
from gS1 and CS alone, and not at all where k0 is named, since then no mask bit is bound (R133, R135); and a load fault of any byte of the descriptor comes before the store fault of its
bytes 0 to 7. Where a Folio translation is cached the translations are made twice, so that a source in a block that the command's own destination has copied is read there (R127). -/
def copySlot (kind : Nat) (f : LC) (s : State) : Out :=
  onHart s (fun h =>
    let d := s.issue.core / 2
    let n := selQueue f
    let rd := f.d.toNat
    let va := h.oa f.a.toNat
    let c0 := copyOf kind f s h
    let w : Who := { s.who s.issue.core h with spsize := 0 }
    let base (p : Nat) : Nat := (((s.gang h.die h.idx).place? p).getD {}).spbase
    if 32 ≤ (s.engQ d n).cmds.length then s.wrG rd 1
    else if va.toNat % 64 ≠ 0 ∨ !c0.operandsOk then s.wrG rd 3
    else if !s.relReady h c0.scope then s.stall
    else match s.copyRuns w .load 3 va 0 128 with
    | (s, .error (a, x)) => s.copyTrap w a x .load
    | (s, .ok l) =>
      match s.copyXlate w va .store with
      | (s, .error x) => s.copyTrap w va x .store
      | (s, .ok cw) =>
        if l.any (fun r => s.unrouted r.2.1 || s.placeCut d r.2.1) then s.wrG rd 2
        else match (List.range 128).find? (fun i => decide (runAt l i < remotePlace) && s.badKey (runAt l i)) with
        | some i => s.copyTrap w (va + BitVec.ofNat 80 i) { cause := 0x1F, level := s.leafLevel w va } .load
        | none =>
          let away := l.any (fun r => decide (remotePlace ≤ r.2.1))
          if away && s.freeVal.getLsbD 0 then s.copyTrap w va { cause := 0x1F, level := s.leafLevel w va } .load else
          let bytes := (List.range 128).map (fun i => let p := runAt l i; if p < remotePlace then s.byte p else Config.remoteByte s.draw (p - remotePlace))
          let s := if away then s.drawn else s
          let c1 : CopyCmd := { c0 with desc := bytes, cw := (List.range 8).map (cw + ·) }
          let c2 : CopyCmd := { c1 with bad := if c1.descOk && s.coresOk h c1 then none else some 2 }
          if c2.k ≠ 0 ∧ (kind ≠ 1 ∨ c2.bad = none) ∧ 256 < c2.fb + c2.chunks then s.wrG rd 3
          else match c2.settleBlocks s w base with
          | (s, .error (a, x, acc)) => s.copyTrap w a x acc
          | (s, .ok c) =>
            if (c.places ++ c.flag.take 1).any s.unrouted then s.wrG rd 2
            else if c.away ∧ c.scope < 4 ∧ !s.relReady h 4 then s.stall
            else s.join d n rd { c with scope := if c.away then max c.scope 4 else c.scope })

def execCpy (f : LC) (s : State) : Out := copySlot 0 f s
def execCpyx (f : LC) (s : State) : Out := copySlot 1 f s
def execCpym (f : LC) (s : State) : Out := copySlot 2 f s
def execCpyb (f : LC) (s : State) : Out := copySlot 3 f s

/-- State of a queue as CPST gives it (R141). -/
def EngQ.status (q : EngQ) : Word := BitVec.ofNat 64 (q.cmds.length + (32 - q.cmds.length) * 256)
/-- CPST. -/
def execCpst (f : LC) (s : State) : Out := onHart s (fun _ => s.wrG f.d.toNat (s.engQ (s.issue.core / 2) (selQueue f)).status)
/-- CPST.WAIT. -/
def execCpstWait (f : LC) (s : State) : Out :=
  onHart s (fun _ =>
    let q := s.engQ (s.issue.core / 2) (selQueue f)
    if q.cmds.isEmpty then s.wrG f.d.toNat q.status else s.stall)

/-! The engine. -/
/-- The granules of a list of runs. -/
def runGrans (l : List (Nat × Nat × Nat)) : List Nat :=
  (l.flatMap (fun r => if r.2.2 = 0 then [] else (List.range ((r.2.1 + r.2.2 - 1) / 64 + 1 - r.2.1 / 64)).map (· + r.2.1 / 64))).eraseDups

/-- The engine reads a granule as one unit (R301, R401): its bytes and whether it is bad. In another package the bytes are free (log 8) and so is whether they are bad; where no link leads
there any more the granule is bad for certain (R153). -/
def State.readGran (s : State) (g : Nat) : State × List Byte × Bool :=
  if g * 64 < remotePlace then (s.verify [g], s.readAt (g * 64) 64, s.badGran g)
  else if s.unrouted (g * 64) then (s, List.replicate 64 0, true)
  else (s.drawn, (List.range 64).map (fun i => Config.remoteByte s.draw (g * 64 - remotePlace + i)), s.freeVal.getLsbD 0)

/-- The granule `g` of the source as it stands now. -/
def CopyCmd.readOne (q : State × CopyCmd) (g : Nat) : State × CopyCmd :=
  let r := q.1.readGran g
  (r.1, { q.2 with got := tset q.2.got g r.2 })

/-- A source byte with whether its granule was bad, as the engine has read it. -/
def CopyCmd.srcByte (c : CopyCmd) (o : Nat) : Byte × Bool :=
  let p := runAt c.src o
  let g := tget ([], true) c.got (p / 64)
  (g.1.getD (p % 64) 0, g.2)

/-- The source granules of `n` bytes from an offset. -/
def CopyCmd.srcGrans (c : CopyCmd) (o n : Nat) : List Nat := ((List.range n).map (fun b => runAt c.src (o + b) / 64)).eraseDups

/-- Element (i, j) of the source of CPYX with whether it is bad. -/
def CopyCmd.elem (c : CopyCmd) (i j : Nat) : Nat × Bool :=
  let w := (c.sf.getD .fp32).width
  let o := i * c.u 88 8 + j * w / 8
  let l := (List.range ((j * w % 8 + w + 7) / 8)).map (fun b => c.srcByte (o + b))
  (leNat (l.map (·.1)) / 2 ^ (j * w % 8) % 2 ^ w, l.any (·.2))

/-- `cpyx_elem` of R138; `bit` is the bit number of the destination element. -/
def CopyCmd.convert (c : CopyCmd) (v : Val) (bit : Nat) : Nat :=
  let f := c.df.getD .fp32
  Sys2Proof.convert v f ((Rnd.ofCode (c.u 70 1 % 8)).getD .rne) ((c.u 70 1).testBit 3) (pepperTable (bit / f.width))

/-- What element j of destination row i receives. -/
def CopyCmd.out (c : CopyCmd) (i j : Nat) : Nat × Bool :=
  let f := c.df.getD .fp32
  let bit := 8 * (c.dstVa + BitVec.ofNat 80 (i * c.u 96 8)).toNat + j * f.width
  let n := if c.tr then c.rows else c.cols
  if j < n then
    let (x, b) := if c.tr then c.elem j i else c.elem i j
    (c.convert ((c.sf.getD .fp32).decode x) bit, b)
  else (c.convert ((if f.isInt then Fmt.i32 else Fmt.fp32).decode (c.u 84 4)) bit, false)

/-- The source granules of what element j of destination row i receives. -/
def CopyCmd.outGrans (c : CopyCmd) (i j : Nat) : List Nat :=
  let w := (c.sf.getD .fp32).width
  let (r, k) := if c.tr then (j, i) else (i, j)
  if j < (if c.tr then c.rows else c.cols) then c.srcGrans (r * c.u 88 8 + k * w / 8) ((k * w % 8 + w + 7) / 8) else []

/-- Destination row i of CPYX byte by byte, each with its chunk. -/
def CopyCmd.rowPieces (c : CopyCmd) (i : Nat) : List (Nat × Piece) :=
  let w := (c.df.getD .fp32).width
  let l := (List.range c.dcols).map (c.out i)
  let x := joinOf w (l.map (·.1))
  let n := rowBytes c.df c.dcols
  let rest := c.dcols * w % 8
  (List.range n).map (fun b =>
    let o := i * c.u 96 8 + b
    (o / c.chunkSize,
      { place := runAt (c.dst.headD []) o, no := o / c.chunkSize, bytes := [BitVec.ofNat 8 (x / 2 ^ (8 * b))]
        keep := if b + 1 = n ∧ rest ≠ 0 then BitVec.ofNat 8 (256 - 2 ^ rest) else 0
        bad := l.zipIdx.any (fun (q, j) => q.2 && decide (j * w < 8 * (b + 1)) && decide (8 * b < (j + 1) * w))
        srcs := ((List.range c.dcols).filter (fun j => decide (j * w < 8 * (b + 1)) && decide (8 * b < (j + 1) * w))).flatMap (c.outGrans i) }))

/-- Everything that a command writes, with chunk numbers. -/
def CopyCmd.pieces (c : CopyCmd) : List (Nat × Piece) :=
  match c.kind with
  | 1 => (List.range c.drows).flatMap c.rowPieces
  | 3 =>
    let n := (c.sf.getD .fp32).width / 8
    (List.range c.len).map (fun i =>
      let l := (List.range n).map (fun b => c.srcByte (i * n + b))
      (32 * i / c.chunkSize, { place := runAt (c.dst.headD []) (32 * i), no := i, bytes := l.map (·.1), bad := l.any (·.2), srcs := c.srcGrans (i * n) n }))
  | _ => c.dst.flatMap (fun d => (List.range c.len).map (fun o =>
      let x := c.srcByte o
      (o / c.chunkSize, { place := runAt d o, no := o / c.chunkSize, bytes := [x.1], bad := x.2, srcs := c.srcGrans o 1 })))

/-- The destination granules that each chunk writes: one write covers a granule, so one that two chunks share is written with the first of them (R146). Every chunk is there where mask bits
are bound, otherwise those that write something. -/
def CopyCmd.byChunk (c : CopyCmd) : List (Nat × List Nat) :=
  let l := (c.pieces.map (fun q => (q.1, q.2.place / 64))).eraseDups
  let own := l.foldl (fun (a : List (Nat × Nat)) q => if a.any (fun x => x.2 == q.2) then a else a ++ [q]) []
  (if c.k ≠ 0 then List.range c.chunks else (l.map (·.1)).eraseDups).map (fun n => (n, (own.filter (fun q => q.1 == n)).map (·.2)))

/-- Start of a command: its source is read (R137, R147), of a CPYB too, whose source may overlap its destination: the spec does not say what it combines then (DESIGN CHOICE, log 80). -/
def State.copyStart (s : State) (d : Nat) (c : CopyCmd) : State × CopyCmd :=
  if c.bad ≠ none then (s, { c with started := true, cores := [] })
  else if c.places.any (s.placeCut d) then (s, { c with started := true, cores := [], bad := some 6 })
  else if c.kind = 1 ∧ c.clash then (s, { c with started := true, cores := [], bad := some 7 })
  else (runGrans c.src).foldl CopyCmd.readOne (s, { c with started := true, todo := c.byChunk, cores := if c.arr then c.cores else [] })

/-- The queue named by an engine event: die and number. An engine waits while a route that its command needs has changed under earlier requests (R413). -/
def State.engineOf (s : State) (k : Nat → Nat → EngQ → State) : Out :=
  let d := s.arg.die
  let n := 8 * s.arg.eng + s.arg.queue
  if 16 ≤ d ∨ 4 ≤ s.arg.eng ∨ 8 ≤ s.arg.queue then .fault .noSuchAgent
  else if s.dead d ∨ (s.engQ d n).cmds.head?.any (fun c => c.places.any (fun p => decide (p < remotePlace) && s.held d (.mem p))) then .next s
  else .next (k d n (s.engQ d n))

/-- COPY_COMMAND_START; with `ok` the engine of a command that has started reads source granule `idx` only now, as long as it has written nothing of it. A write to the source after
acceptance races with the read, granule by granule, unless source and destination share a location (R137, R301, R304). With `flag` the granule fails on its way to the engine (R401). -/
def execCopyCommandStart (s : State) : Out :=
  s.engineOf (fun d n q =>
    match q.cmds with
    | c :: r =>
      if !c.started then let (s1, c1) := s.copyStart d c; s1.setEngQ d n { q with cmds := c1 :: r }
      else if !(runGrans c.src).contains s.arg.idx || c.used.contains s.arg.idx then s
      else if s.arg.flag then
        if 16 ≤ s.arg.id then s
        else (s.hopFailure s.arg.id s.arg.off s.arg.idx).setEngQ d n { q with cmds := { c with got := tmod ([], true) c.got s.arg.idx (fun g => (g.1, true)) } :: r }
      else if s.arg.ok && !c.clash then
        let (s1, c1) := CopyCmd.readOne (s, c) s.arg.idx
        s1.setEngQ d n { q with cmds := c1 :: r }
      else s
    | [] => s)

/-- The failure with the lowest number stands; for one number, the lowest status (R136). -/
def CopyCmd.report (c : CopyCmd) (idx status : Nat) : CopyCmd :=
  match c.fail with
  | some (i, t) => if idx < i ∨ (idx = i ∧ status < t) then { c with fail := some (idx, status) } else c
  | none => { c with fail := some (idx, status) }

/-- Copied bytes reach one granule as one write (R146); a bad source marks it (R147). -/
def State.putGranule (s : State) (l : List Piece) (mark : Bool) : State :=
  s.commit (l.flatMap (fun p => p.bytes.zipIdx.map (fun (b, i) => (p.place + i, (b &&& ~~~p.keep) ||| (s.byte (p.place + i) &&& p.keep))))) (mark || l.any (·.bad)) none
    (l.filterMap (fun p => if p.keep = 0 then none else some (p.place, p.keep)))

/-- Counted bytes of a command have been written (R144). -/
def CopyCmd.wrote (c : CopyCmd) (n : Nat) : CopyCmd := { c with left := c.left - n }
/-- The links of harts to a granule of another package that an engine writes (R174). -/
def awayPlace (p : Nat) : Nat := awayGran (p - remotePlace)

/-- CPYB combines one element (R140). It is computed twice, and a result on which the two datapaths differ is written marked (R400); so is one that fails on its way, `hop` (R401). -/
def CopyCmd.combine (differ hop : Bool) (q : State × CopyCmd) (p : Piece) : State × CopyCmd :=
  let (s, c) := q
  let c1 := if p.bad then c.report p.no 4 else c
  if remotePlace ≤ p.place then
    if s.unrouted p.place then (s, c1.report p.no 5)
    else if s.freeVal.getLsbD 1 then (s.drawn, c1.report p.no 5)
    else if s.freeVal.getLsbD 2 ∧ c.sf = some .bx then (s.drawn, c1.report p.no 8)
    else (s.drawn.breakLinks none [awayPlace p.place], c1.wrote 32)
  else if s.badKey p.place then (s.verify [p.place / 64], c.report p.no 4)
  else
    let old := Bx.ofBits (BitVec.ofNat 256 (s.readN p.place 32))
    let put (b : Bx) : State × CopyCmd :=
      (s.commit (bytesAt p.place 32 b.toBits.toNat) (p.bad || differ || hop), (if differ then c1.report p.no 4 else c1).wrote 32)
    if c.sf = some .bx then
      let b := Bx.ofBits (BitVec.ofNat 256 (leNat p.bytes))
      if b.a = old.a then put (old.add b) else (s, c1.report p.no 8)
    else put (old.addReal ((c.sf.getD .fp32).decode (leNat p.bytes)))

/-- Destination bytes of a granule. -/
def CopyCmd.granBytes (c : CopyCmd) (g : Nat) : Nat :=
  let n := (c.pieces.filter (fun q => q.2.place / 64 == g)).length
  if c.kind = 3 then 32 * n else n

/-- The write of one destination granule (R146, R147), which `hop` says fails on its way (R401). A write that another package refuses reports WRERR: whether it does is free, and certain where no link leads there any more (R153).
An output of CPYX on which the two datapaths differ is written marked and reports MEMERR (R400). -/
def CopyCmd.writeGran (c : CopyCmd) (s : State) (g : Nat) (differ hop : Bool) : State × CopyCmd :=
  let l := (c.pieces.map (·.2)).filter (fun p => p.place / 64 == g)
  let c := { c with used := (c.used ++ l.flatMap (·.srcs)).eraseDups }
  if c.kind = 3 then l.foldl (CopyCmd.combine differ hop) (s, c)
  else
    let nos := (l.map (·.no)).eraseDups
    let c1 := (l.filter (·.bad)).foldl (fun c p => c.report p.no 4) c
    let all (c : CopyCmd) (t : Nat) : CopyCmd := nos.foldl (fun c n => c.report n t) c
    if remotePlace ≤ g * 64 then
      if s.unrouted (g * 64) then (s, all c1 5)
      else if s.freeVal.getLsbD 0 then (s.drawn, all c1 5)
      else (s.drawn.breakLinks none [awayPlace (g * 64)], c1.wrote (c.granBytes g))
    else
      let x := differ && c.kind == 1
      (s.putGranule l (x || hop), (if x then all c1 4 else c1).wrote (c.granBytes g))

/-- The issuing hart's record still stands. -/
def State.copyAlive (s : State) (c : CopyCmd) : Bool := (s.gang (c.hart.1 / 1024) (c.hart.1 % 1024)).handle == c.handle
/-- Counted bytes of a command have become visible, or will not be written (R144). -/
def State.copyUncount (s : State) (c : CopyCmd) (n : Nat) : State := if s.copyAlive c then s.uncountOf (some c.hart) 0 5 n else s
/-- An engine sets a bit of a hart's mask in a cycle (R142). -/
def Hart.engineSets (h : Hart) (cycle k : Nat) (b : Mask) : Hart :=
  { h with regs := writeK h.regs k (readK h.regs k ||| b), kBits := (h.kBits.filter (fun q => decide (cycle ≤ q.1 + 1))) ++ [(cycle, k, b)] }
/-- A chunk bit is set in the hart's mask, wherever it is kept: in the hart, with the die while the hart is not resident or is being restored, and in both while the gang is saved (R142, R145). -/
def State.chunkBit (s : State) (c : CopyCmd) (n : Nat) : State :=
  let b : Mask := 1#256 <<< (c.fb + n)
  if c.k = 0 ∨ !s.copyAlive c then s
  else
    let d := c.hart.1 / 1024
    let i := c.hart.1 % 1024
    let r := s.gang d i
    let kept (s : State) : State := s.modGang d i (fun r => { r with keptK := tmod [] r.keptK c.hart.2 (fun t => tmod 0 t c.k (· ||| b)) })
    match (if r.save.restore then none else (s.hartsOf r).find? (fun x => x.2.2.pos == c.hart.2)) with
    | some (p, j, _) =>
      let t := s.modHart p j (fun h => h.engineSets s.cycle c.k b)
      if r.save.active && r.save.whole then kept t else t
    | none => kept s

/-- Takes a granule out of what a command still writes. -/
def CopyCmd.drop (c : CopyCmd) (g : Nat) : CopyCmd := { c with todo := c.todo.map (fun q => (q.1, q.2.filter (· != g))) }

/-- Writes one granule of a command and counts off the bytes that are written (R144). -/
def State.engineWrites (s : State) (q : State × CopyCmd) (g : Nat) : State × CopyCmd :=
  let hop := s.arg.w.getLsbD 0 && s.arg.idx == g && decide (s.arg.id < 16)
  let (s1, c1) := q.2.writeGran (if hop then q.1.hopFailure s.arg.id s.arg.off g else q.1) g (s.arg.flag && s.arg.idx == g) hop
  (s1.copyUncount q.2 (q.2.left - c1.left), c1.drop g)

/-- COPY_CHUNK_VISIBLE: the rest of the chunk at the head is written and its bit set; with `ok` granule `idx` alone is written, of whatever chunk. `flag` says that the datapaths differ
on granule `idx` (R400), and `w` that it fails on its way (R401). A command that has lost a die writes no more (R147). -/
def execCopyChunkVisible (s : State) : Out :=
  s.engineOf (fun d n q =>
    match q.cmds with
    | [] => s
    | c :: r =>
      match c.todo with
      | [] => s
      | (m, gs) :: _ =>
        let put (x : State × CopyCmd) : State := x.1.setEngQ d n { q with cmds := x.2 :: r }
        if c.places.any (s.placeCut d) then put (s, { c with todo := [], cores := [], bad := some 6 })
        else if s.arg.ok then (if c.todo.any (fun x => x.2.contains s.arg.idx) then put (s.engineWrites (s, c) s.arg.idx) else s)
        else
          let x := gs.foldl s.engineWrites (s, c)
          (put (x.1, { x.2 with todo := x.2.todo.drop 1 })).chunkBit c m)

/-- BARRIER_CREDIT: one destination core's arrival credit reaches its barrier (R139, R360). -/
def execBarrierCredit (s : State) : Out :=
  s.engineOf (fun d n q =>
    match q.cmds with
    | [] => s
    | c :: r =>
      match c.started && c.todo.isEmpty, c.cores with
      | true, _ :: cores =>
        let s1 := s.setEngQ d n { q with cmds := { c with cores := cores } :: r }
        let b := c.u 65 1 / 2 % 4
        if s.copyAlive c then
          s1.modGang (c.hart.1 / 1024) (c.hart.1 % 1024) (fun g => { g with bars := tmod {} g.bars b (fun x => Barrier.credit x s.cycle c.len) })
        else s1
      | _, _ => s)

/-- A doubleword of the engine at eight places; a place that is cut off or in another package takes nothing here. -/
def State.putWord (s : State) (d : Nat) (ps : List Nat) (x : Nat) : State :=
  s.commit ((ps.zip (leBytes 8 x)).filter (fun q => decide (q.1 < remotePlace) && !s.placeCut d q.1)) false
/-- The flag of R143. -/
def CopyCmd.putFlag (c : CopyCmd) (s : State) (d : Nat) : State :=
  let v := c.u 8 8
  match c.flagOp with
  | 1 => s.putWord d c.flag v
  | 2 => s.putWord d c.flag ((leNat (s.bytes c.flag) + v) % 2 ^ 64)
  | _ => s
/-- The end of a command: CW, then the flag unless it ends with BADARG (R136, R143); the rest of its count falls (R144). -/
def CopyCmd.finish (c : CopyCmd) (s : State) (d status idx : Nat) : State :=
  let s1 := (s.putWord d c.cw (2 ^ 63 + idx % 2 ^ 24 * 2 ^ 32 + status)).copyUncount c c.left
  if status = 2 then s1 else c.putFlag s1 d

/-- COPY_COMMAND_COMPLETE. IDX with BADARG, OVERLAP and FENCED, which name no chunk, is 0 (DESIGN CHOICE, log 80); a status other than OK makes an event record of the engine (R403, log 20). -/
def execCopyCommandComplete (s : State) : Out :=
  s.engineOf (fun d n q =>
    match q.cmds with
    | [] => s
    | c :: r =>
      if !c.started || !c.todo.isEmpty || !c.cores.isEmpty then s
      else
        let (idx, status) := match c.bad with | some x => (0, x) | none => c.fail.getD (0, 0)
        let s1 := c.finish (s.setEngQ d n { q with cmds := r }) d status idx
        if status = 0 then s1 else s1.event (srcEngine d (n / 8)) status (n % 8 * 2 ^ 24 + idx % 2 ^ 24))

end Sys2Proof.Machine
end

