-- ==== Sys2Proof/Machine/Catalogue.lean ====
section
/-! DEFINITION. Catalogue units (R106 to R123): acceptance of CATQ and CATU, the lookup and optimiser arithmetic, and a unit's execution of a command; and the
Folio commands (R129). -/
namespace Sys2Proof.Machine
open Sys2Proof

/-! Acceptance (R111 to R114). -/
/-- The die of a unit (R7). -/
def unitDie (u : Nat) : Nat := [0, 3, 12, 15].getD u 0
/-- Fields of gS2 of CATQ and CATU. -/
def tgtPkg (x : Word) : Nat := fldN x 9 0
def tgtUnit (x : Word) : Nat := fldN x 11 10
def tgtSlot (x : Word) : Nat := fldN x 19 12

def CatCmd.u (c : CatCmd) (o n : Nat) : Nat := uN c.block o n
def CatCmd.va (c : CatCmd) (o : Nat) : VAddr := mk80 c.block o
def CatCmd.k (c : CatCmd) : Nat := c.imm % 64
def CatCmd.k1 (c : CatCmd) : Nat := c.imm / 64 % 64
def CatCmd.qfmt (c : CatCmd) : Nat := c.imm / 4096 % 4
def CatCmd.bf16Out (c : CatCmd) : Bool := c.imm.testBit 14
def CatCmd.iw (c : CatCmd) : Bool := c.imm.testBit 15

/-- `n` ranges of a length at a stride, as rows. -/
def strided (n stride len : Nat) : List (Nat × Nat) := (List.range n).map (fun j => (j * stride, len))

/-- Runs of `n` bytes of a Catalogue range, split at 4 KiB. A byte in a package without a route takes cause 0x19 in its turn (R104, R113). -/
def State.catRuns (w : Who) (acc : Acc) : Nat → State → VAddr → Nat → Nat → State × Except (VAddr × XFault) (List (Nat × Nat × Nat))
  | 0, s, _, _, _ => (s, .ok [])
  | fuel + 1, s, va, off, n =>
    if n = 0 then (s, .ok [])
    else
      let m := min n (4096 - va.toNat % 4096)
      match s.xlate w va acc false with
      | (s, .error x) => (s, .error (va, x))
      | (s, .ok o) =>
        if s.unrouted o.loc.place then (s, .error (va, { cause := 0x19, level := o.level }))
        else match catRuns w acc fuel s (va + BitVec.ofNat 80 m) (off + m) (n - m) with
        | (s, .error x) => (s, .error x)
        | (s, .ok l) => (s, .ok ((off, o.loc.place, m) :: l))
/-- Ranges, each a first offset from the address and a length. -/
def State.catRows (w : Who) (acc : Acc) (va : VAddr) : List (Nat × Nat) → State → State × Except (VAddr × XFault × Acc) (List (Nat × Nat × Nat))
  | [], s => (s, .ok [])
  | (o, n) :: r, s =>
    match State.catRuns w acc (n / 4096 + 2) s (va + BitVec.ofNat 80 o) o n with
    | (s, .error (a, x)) => (s, .error (a, x, acc))
    | (s, .ok l) =>
      match catRows w acc va r s with
      | (s, .error x) => (s, .error x)
      | (s, .ok l2) => (s, .ok (l ++ l2))

/-- Step 2 of R113 after the request block. -/
def CatCmd.translate (c : CatCmd) (s : State) (w : Who) : State × Except (VAddr × XFault × Acc) CatCmd :=
  if c.upd then
    match State.catRows w .load (c.va 16) [(0, 4 * c.count)] s with
    | (s, .error x) => (s, .error x)
    | (s, .ok a) =>
      match State.catRows w .load (c.va 32) (strided c.count (c.u 48 4) (c.u 52 4)) s with
      | (s, .error x) => (s, .error x)
      | (s, .ok b) => (s, .ok { c with src := a, src2 := b })
  else
    match State.catRows w .load (c.va 16) (strided c.count (c.u 64 4) (c.u 68 4)) s with
    | (s, .error x) => (s, .error x)
    | (s, .ok a) =>
      match State.catRows w .store (c.va 32) (strided c.count (c.u 72 4) (c.u 76 4)) s with
      | (s, .error x) => (s, .error x)
      | (s, .ok b) =>
        if !c.iw then (s, .ok { c with src := a, out := b })
        else match State.catRows w .store (c.va 48) (strided c.count 256 256) s with
        | (s, .error x) => (s, .error x)
        | (s, .ok r) => (s, .ok { c with src := a, out := b, rcd := r })

/-- The translations that the command is sent with: a copy-on-write that they have made themselves leaves none that names the block copied (R127). -/
def CatCmd.settleBlocks (c : CatCmd) (s : State) (w : Who) : State × Except (VAddr × XFault × Acc) CatCmd :=
  match c.translate s w with
  | (s, .ok d) => if s.folioCached w then c.translate s w else (s, .ok d)
  | r => r

/-- The completion scope: at least package, and domain where the unit lies in another package (R113). -/
def catScope (f : LC) (remote : Bool) : Nat := max (max f.sc.toNat 3) (if remote then 4 else 3)

/-- CW of R115. -/
def catWord (status idx : Nat) : Nat := 2 ^ 63 + idx % 65536 * 256 + status

/-- Step 4 of R113: what the unit answers. A unit that is cut off has the issuing die write CW (R415); what a unit of another package answers is free, and a command that
it accepts stands with the issuing die until the unit has written CW. -/
def State.catSend (s : State) (c : CatCmd) (pkg unit rd : Nat) : State :=
  let d := unitDie unit
  if pkg ≠ s.hub.pkgid.toNat then
    if s.hasRoute (pkg * 2 ^ 46) then
      let x := (s.freeVal.setWidth 32).toNat % 3
      let s1 := if x = 0 then s.modDie c.die (fun y => { y with catAway := y.catAway ++ [c] }) else s
      s1.drawn.wrG rd (BitVec.ofNat 64 x)
    else s.wrG rd 2
  else if !s.reach c.die d then (s.putWord c.die c.cw (catWord 6 0)).wrG rd 0
  else if 64 ≤ (s.die d).cat.length then s.wrG rd 1
  else (s.modDie d (fun x => { x with cat := x.cat ++ [c] })).wrG rd 0

/-- CATQ and CATU (R113). Operands out of range are met after the translations of every range that they name. Where both fail, a load fault of any byte of the request block comes before the
store fault of its bytes 0 to 7 (DESIGN CHOICE, log 80). -/
def catSlot (upd : Bool) (f : LC) (s : State) : Out :=
  onHart s (fun h =>
    let d := s.issue.core / 2
    let rd := f.d.toNat
    let va := h.oa f.a.toNat
    let n := (h.og f.s1.toNat).toNat
    let t := h.og f.s2.toNat
    let w : Who := s.who s.issue.core h
    if va.toNat % 64 ≠ 0 then s.wrG rd 3
    else if !s.relReady h (catScope f (tgtPkg t != s.hub.pkgid.toNat)) then s.stall
    else match State.catRows w .load va [(0, 128)] s with
    | (s, .error (a, x, acc)) => s.copyTrap w a x acc
    | (s, .ok l) =>
      match State.catRows w .store va [(0, 8)] s with
      | (s, .error (a, x, acc)) => s.copyTrap w a x acc
      | (s, .ok cw) =>
        match (List.range 128).find? (fun i => decide (runAt l i < remotePlace) && s.badKey (runAt l i)) with
        | some i => s.copyTrap w (va + BitVec.ofNat 80 i) { cause := 0x1F, level := s.leafLevel w va } .load
        | none =>
          let block := (List.range 128).map (fun i => let p := runAt l i; if p < remotePlace then s.byte p else Config.remoteByte s.draw (p - remotePlace))
          let s := if l.any (fun r => decide (remotePlace ≤ r.2.1)) then s.drawn else s
          let c : CatCmd := { upd := upd, die := d, ctx := h.ctx, slotNo := tgtSlot t, count := n, imm := f.imm.toNat, block := block
                              cw := (List.range 8).map (runAt cw ·) }
          match c.settleBlocks s w with
          | (s, .error (a, x, acc)) => s.copyTrap w a x acc
          | (s, .ok c) => if n = 0 ∨ (if upd then 1024 else 64) < n ∨ 2 ^ 20 ≤ t.toNat then s.wrG rd 3 else s.catSend c (tgtPkg t) (tgtUnit t) rd)

def execCatq (f : LC) (s : State) : Out := catSlot false f s
def execCatu (f : LC) (s : State) : Out := catSlot true f s

/-! A unit's slot (R107 to R110). -/
def up64 (n : Nat) : Nat := (n + 63) / 64 * 64
/-- Bytes between keys; offsets of the moments; bytes of a record (R109). -/
def CatSlot.ks (c : CatSlot) : Nat := up64 ((c.dh * c.kf.width + 7) / 8)
def CatSlot.m1 (c : CatSlot) : Nat := 64 + up64 ((c.dv * c.vf.width + 7) / 8)
def CatSlot.m2 (c : CatSlot) : Nat := c.m1 + up64 (4 * c.dv)
def CatSlot.size (c : CatSlot) : Nat := if c.opt = 0 then c.m1 else if c.opt = 1 then c.m2 else c.m2 + up64 (4 * c.dv)

/-- Bytes from a domain address lie in LP6 channel group u of the package. -/
def State.inGroup (s : State) (u pa n : Nat) : Bool :=
  let a := pa % 2 ^ 46
  let lo := 0x10000000000 + u * 2 ^ 38
  pa / 2 ^ 46 == s.hub.pkgid.toNat && decide (lo ≤ a) && decide (a + n ≤ lo + 2 ^ 38) && s.hub.lp6.testBit u

def keyFmt : Nat → Option Fmt | 2 => some .bf16 | 3 => some .e4m3 | 4 => some .e5m2 | _ => none
def valFmt : Nat → Option Fmt | 0 => some .fp32 | 1 => some .fp16 | 2 => some .bf16 | 3 => some .e4m3 | 4 => some .e5m2 | _ => none

/-- Where the slot of a command stands. -/
def State.catSlotKey (s : State) (u : Nat) (c : CatCmd) : Option Nat :=
  let b := (s.die (unitDie u)).slotbase
  if b.getLsbD 0 then s.ownMem (fldN b 55 14 * 2 ^ 14 + 64 * c.slotNo) else none
/-- The slot of a command where every condition of R110 holds. -/
def State.catSlotOf (s : State) (u : Nat) (c : CatCmd) : Option CatSlot :=
  match s.catSlotKey u c with
  | none => none
  | some k =>
      let e := s.readAt k 64
      let n (o m : Nat) : Nat := uN e o m
      match keyFmt (n 38 1), valFmt (n 39 1) with
      | some kf, some vf =>
        let x : CatSlot := { ka := n 0 8, kb := n 8 8, vt := n 16 8, nrows := n 24 4, rowbase := n 28 4, nk := n 32 2, dh := n 34 2, dv := n 36 2, kf := kf, vf := vf
                             beta := n 40 4, rstride := n 44 4, opt := n 52 1 }
        let pa (a : Nat) : Bool := decide (a < 2 ^ 56) && a % 64 == 0
        let bv := f32 x.beta
        if pa x.ka && pa x.kb && pa x.vt && decide (1 ≤ x.nrows) && decide (x.nrows ≤ 2 ^ 28) && decide (1 ≤ x.nk) && decide (x.nk ≤ 4096)
            && decide (1 ≤ x.dh) && decide (x.dh ≤ 512) && decide (1 ≤ x.dv) && decide (x.dv ≤ 2048) && bv.isFin && !bv.isNeg && !bv.isZero
            && x.rstride % 64 == 0 && n 48 2 == s.hub.pkgid.toNat + 2 ^ 15 && n 50 2 == c.ctx && decide (x.opt ≤ 2) && n 53 11 == 0
            && decide (x.rowbase + x.nk * x.nk ≤ x.nrows) && decide (x.size ≤ x.rstride)
            && s.inGroup u x.ka (x.nk * x.ks) && s.inGroup u x.kb (x.nk * x.ks) && s.inGroup u x.vt ((x.nrows - 1) * x.rstride + x.size)
        then some x else none
      | _, _ => none

/-! Reading and writing. -/
/-- A byte of a range with whether its granule is bad; a byte of another package is free. -/
def State.rangeByte (s : State) (l : List (Nat × Nat × Nat)) (o : Nat) : Byte × Bool :=
  let p := runAt l o
  if p < remotePlace then (s.byte p, s.badKey p) else (Config.remoteByte s.draw (p - remotePlace), s.freeVal.getLsbD 0)
def State.range (s : State) (l : List (Nat × Nat × Nat)) (o n : Nat) : List (Byte × Bool) := (List.range n).map (fun i => s.rangeByte l (o + i))
def anyBad (l : List (Byte × Bool)) : Bool := l.any (·.2)
/-- Elements of a format packed in bytes (R18). -/
def unpack (f : Fmt) (n : Nat) (l : List Byte) : List Nat := let x := leNat l; (List.range n).map (fun i => x / 2 ^ (i * f.width) % 2 ^ f.width)
/-- Bytes of the unit's own group at a domain address. -/
def ownKey (pa : Nat) : Nat := pa % 2 ^ 46
def ownGrans (pa n : Nat) : List Nat := granules ((List.range n).map (ownKey pa + ·))
def State.ownBad (s : State) (pa n : Nat) : Bool := (ownGrans pa n).any s.badGran
/-- The writes of bytes, one for each granule. -/
def granPuts (l : List (Nat × Byte)) : List CatPut := (granules (l.map (·.1))).map (fun g => { bytes := l.filter (fun b => b.1 / 64 == g) })
/-- The writes of bytes of a range that land in this package; those for another package, or for a die cut off from the unit's, do not. -/
def State.rangePuts (s : State) (d : Nat) (l : List (Nat × Nat × Nat)) (o : Nat) (b : List Byte) : List CatPut :=
  granPuts ((b.zipIdx.map (fun (x, i) => (runAt l (o + i), x))).filter (fun q => decide (q.1 < remotePlace) && !s.placeCut d q.1))
/-- What becomes of the writes to a range (R115, R153): refused for certain where a byte lies on a die that is cut off or in a package that no link leads to any more, and free in another
package otherwise. -/
def State.rangeRefuses (s : State) (d : Nat) (l : List (Nat × Nat × Nat)) (o n : Nat) : Bool :=
  (List.range n).any (fun i => let p := runAt l (o + i); s.placeCut d p || s.unrouted p || (decide (remotePlace ≤ p) && s.freeVal.getLsbD 1))
/-- The granules of a range in this package. -/
def rangeGrans (l : List (Nat × Nat × Nat)) (o n : Nat) : List Nat := granules (((List.range n).map (fun i => runAt l (o + i))).filter (fun p => decide (p < remotePlace)))

/-! Lookup (R117 to R119). -/
def dot32 (x y : List Val) : Nat := (x.zip y).foldl (fun acc p => fma32 p.1 p.2 (f32 acc)) 0
/-- `top_k`: indices by descending score, equal scores by lower index. -/
def topK (sc : Nat → Val) (l : List Nat) (k : Nat) : List Nat :=
  (sortBy (fun a b => (sc b).lt (sc a) || ((sc b).eqv (sc a) && decide (a < b))) l).take k
/-- The constants of R118. -/
def catPoly : List Nat := [0x3F800000, 0x3F317218, 0x3E75FDF0, 0x3D635847, 0x3C1D955B, 0x3AAEC3FF]
/-- The weight numerator of a score difference t. -/
def catExp (t : Val) : Nat :=
  if t.lt (.fin true 160 0) then 0
  else
    let n := roundInt t .rdn 0
    let f := Val.sum [t, Val.ofDy ⟨-n, 0⟩]
    let p := (catPoly.reverse.drop 1).foldl (fun p c => fma32 (f32 p) f (f32 c)) (catPoly.getD 5 0)
    rn32 ((f32 p).mul (.fin false 1 n))

/-- `cat_query`: ranks with their rows and weights, none for NONFIN. -/
def CatSlot.query (c : CatSlot) (q : List Val) (ka kb : Nat → List Val) (k1 k : Nat) : Option (List (Nat × Nat)) :=
  let sa := (List.range c.nk).map (fun i => dot32 (q.take c.dh) (ka i))
  let sb := (List.range c.nk).map (fun i => dot32 (q.drop c.dh) (kb i))
  let a (i : Nat) : Val := f32 (sa.getD i 0)
  let b (i : Nat) : Val := f32 (sb.getD i 0)
  if (sa ++ sb).any (fun x => !(f32 x).isFin) then none
  else
    let ta := topK a (List.range c.nk) k1
    let tb := topK b (List.range c.nk) k1
    let cand := ta.flatMap (fun i => tb.map (fun j => (i * c.nk + j, rn32 (Val.sum [a i, b j]))))
    if cand.any (fun x => !(f32 x.2).isFin) then none
    else
      let sc (p : Nat) : Val := f32 (((cand.find? (fun x => x.1 == p)).map (·.2)).getD 0)
      let ps := topK sc (cand.map (·.1)) k
      let es := ps.map (fun p => catExp (f32 (rn32 ((f32 (rn32 (Val.sum [sc p, (sc (ps.headD 0)).neg]))).mul (f32 c.beta)))))
      let sum := es.foldl (fun s e => rn32 (Val.sum [f32 s, f32 e])) 0
      some ((ps.zip es).map (fun (p, e) => (c.rowbase + p, divRound (f32 e) (f32 sum) .fp32 .rne)))

/-- The weighted sum of the gathered rows. -/
def catOut (vals : List (List Val)) (ws : List Nat) (dv : Nat) : List Nat :=
  (List.range dv).map (fun j => (vals.zip ws).foldl (fun o r => fma32 (f32 r.2) (r.1.getD j .nan) (f32 o)) 0)

def State.catKey (s : State) (c : CatSlot) (base i : Nat) : List Val :=
  (unpack c.kf c.dh (s.readAt (ownKey (base + i * c.ks)) ((c.dh * c.kf.width + 7) / 8))).map c.kf.decode
def State.catRow (s : State) (c : CatSlot) (r : Nat) : List Val :=
  (unpack c.vf c.dv (s.readAt (ownKey (c.vt + r * c.rstride) + 64) ((c.dv * c.vf.width + 7) / 8))).map c.vf.decode

/-- The failure with the lowest index stands, MEMERR first (R115). -/
def worse (a b : Nat × Nat) : Nat × Nat :=
  let rank (x : Nat) : Nat := if x = 4 then 0 else x
  if a.1 = 0 then b else if b.1 = 0 then a else if b.2 < a.2 ∨ (b.2 = a.2 ∧ rank b.1 < rank a.1) then b else a

/-- What a query or a revision does: the granules that it reads and verifies (R401), its status, and what it writes. -/
structure CatRes where
  reads : List Nat := []
  status : Nat := 0
  puts : List CatPut := []

/-- One query of a CATQ (R117, R119). -/
def CatCmd.oneQuery (c : CatCmd) (s : State) (d : Nat) (x : CatSlot) (qf : Fmt) (j : Nat) : CatRes :=
  let ql := c.u 68 4
  let q := s.range c.src (j * c.u 64 4) ql
  let of : Fmt := if c.bf16Out then .bf16 else .fp32
  let rds := rangeGrans c.src (j * c.u 64 4) ql ++ ownGrans x.ka (x.nk * x.ks) ++ ownGrans x.kb (x.nk * x.ks)
  let put (l : List Nat) : List CatPut := s.rangePuts d c.out (j * c.u 72 4) (leBytes (c.u 76 4) (joinOf of.width l))
  if anyBad q || s.ownBad x.ka (x.nk * x.ks) || s.ownBad x.kb (x.nk * x.ks) then { reads := rds, status := 4, puts := put (List.replicate x.dv of.canonNaN) }
  else match x.query ((unpack qf (2 * x.dh) (q.map (·.1))).map qf.decode) (s.catKey x x.ka) (s.catKey x x.kb) c.k1 c.k with
  | none => { reads := rds, status := 3 }
  | some rs =>
    let rows := rs.flatMap (fun r => ownGrans (x.vt + r.1 * x.rstride + 64) ((x.dv * x.vf.width + 7) / 8))
    if rows.any s.badGran then { reads := rds ++ rows, status := 4, puts := put (List.replicate x.dv of.canonNaN) }
    else
      let o := (catOut (rs.map (fun r => s.catRow x r.1)) (rs.map (·.2)) x.dv).map (fun v => if c.bf16Out then convert (f32 v) .bf16 .rne false 0 else v)
      let refused := s.rangeRefuses d c.out (j * c.u 72 4) (c.u 76 4) || (c.iw && s.rangeRefuses d c.rcd (256 * j) (8 * c.k))
      { reads := rds ++ rows, status := if refused then 5 else 0
        puts := put o ++ (if c.iw then s.rangePuts d c.rcd (256 * j) (rs.flatMap (fun r => leBytes 4 r.1 ++ leBytes 4 r.2)) else []) }

/-- Zero fields and lengths of the request block, and the operands of R117 that give BADARG. -/
def CatCmd.argsOk (c : CatCmd) (x : CatSlot) (qf : Fmt) : Bool :=
  let z (o n : Nat) : Bool := c.u o n == 0
  z 8 8 && z 26 6 && z 42 6 && z 84 44 &&
  (if c.upd then c.u 52 4 == 4 * x.dv
   else z 58 6 && z 80 4 && c.qfmt != 3 && decide (1 ≤ c.k) && decide (c.k ≤ 32) && decide (1 ≤ c.k1) && decide (c.k1 ≤ 32)
     && decide (c.k1 ≤ x.nk) && decide (c.k ≤ c.k1 * c.k1) && c.u 68 4 == (2 * x.dh * qf.width + 7) / 8
     && c.u 76 4 == (x.dv * (if c.bf16Out then 16 else 32) + 7) / 8)

/-! Optimiser steps (R120 to R122). -/
/-- `catu_element`: the new element, as a value, and the moments. -/
def CatCmd.element (c : CatCmd) (opt : Nat) (w : Val) (m v g : Nat) : Val × Nat × Nat :=
  let lr := (f32 (c.u 56 4)).neg
  let b1 := f32 (c.u 60 4)
  let b2 := f32 (c.u 64 4)
  let one : Val := .fin false 1 0
  let a1 := rn32 (Val.sum [one, b1.neg])
  let a2 := rn32 (Val.sum [one, b2.neg])
  let gg := fma32 (f32 (c.u 80 4)) w (f32 g)
  if opt = 1 then
    let m := fma32 b1 (f32 m) (f32 gg)
    (f32 (fma32 lr (f32 m) w), m, v)
  else
    let m := fma32 (f32 a1) (f32 gg) (f32 (rn32 (b1.mul (f32 m))))
    let v := fma32 (f32 a2) (f32 (rn32 ((f32 gg).mul (f32 gg)))) (f32 (rn32 (b2.mul (f32 v))))
    let d := rn32 (Val.sum [f32 (sqrtRound (f32 (rn32 ((f32 v).mul (f32 (c.u 76 4))))) .fp32 .rne), f32 (c.u 68 4)])
    (f32 (fma32 lr (f32 (divRound (f32 (rn32 ((f32 m).mul (f32 (c.u 72 4))))) (f32 d) .fp32 .rne)) w), m, v)

/-- One revision of a row: V rises by 1 before its writes and by 1 after them (R121). An FP32 element is stored as computed, another through the saturating column (R120). -/
def CatCmd.revise (c : CatCmd) (s : State) (x : CatSlot) (r : Nat) (g : List Nat) : List CatPut :=
  let k := ownKey (x.vt + r * x.rstride)
  let w := s.catRow x r
  let mom (o : Nat) : List Nat := unpack .fp32 x.dv (s.readAt (k + o) (4 * x.dv))
  let ms := mom x.m1
  let vs := if x.opt = 2 then mom x.m2 else []
  let res := (List.range x.dv).map (fun i => c.element x.opt (w.getD i .nan) (ms.getD i 0) (vs.getD i 0) (g.getD i 0))
  let put (o n w : Nat) (l : List Nat) : List CatPut := granPuts (bytesAt (k + o) n (joinOf w l))
  [{ bump := some k }] ++ put 64 ((x.dv * x.vf.width + 7) / 8) x.vf.width (res.map (fun q => convert q.1 x.vf .rne (x.vf != .fp32) 0))
    ++ put x.m1 (4 * x.dv) 32 (res.map (·.2.1)) ++ (if x.opt = 2 then put x.m2 (4 * x.dv) 32 (res.map (·.2.2)) else []) ++ [{ bump := some k }]

/-- One list position of a CATU (R120). -/
def CatCmd.oneRow (c : CatCmd) (s : State) (x : CatSlot) (n : Nat) : CatRes :=
  let (r, bad) := c.list.getD n (0, true)
  let o := n * c.u 48 4
  let g := s.range c.src2 o (4 * x.dv)
  let rds := rangeGrans c.src2 o (4 * x.dv) ++ ownGrans (x.vt + r * x.rstride) x.size
  if bad || anyBad g || s.ownBad (x.vt + r * x.rstride) x.size then { reads := rds, status := 4 }
  else { reads := rds, puts := c.revise s x r (unpack .fp32 x.dv (g.map (·.1))) }

/-- A unit begins a command (R110, R115, R120): its slot and its row list are read, and what ends it at once is found. An uncorrectable slot reports MEMERR (R401). -/
def CatCmd.start (c : CatCmd) (s : State) (u : Nat) : State × CatCmd :=
  let key := s.catSlotKey u c
  if (key.map s.badKey).getD false then (s.verify (granules key.toList), { c with begun := true, next := c.count, fail := (4, 0) })
  else match s.catSlotOf u c with
  | none => (s, { c with begun := true, next := c.count, fail := (1, 0) })
  | some x =>
    let qf : Fmt := match c.qfmt with | 0 => .fp32 | 1 => .bf16 | _ => x.kf
    if !c.argsOk x qf || (c.upd && x.opt == 0) then (s, { c with begun := true, next := c.count, fail := (2, 0) })
    else if !c.upd then (s, { c with begun := true, slot := some x })
    else
      let lst := (List.range c.count).map (fun n => let b := s.range c.src (4 * n) 4; (leNat (b.map (·.1)), anyBad b))
      let s1 := s.verify (rangeGrans c.src 0 (4 * c.count))
      match lst.findIdx? (fun r => !r.2 && decide (x.nrows ≤ r.1)) with
      | some n => (s1, { c with begun := true, next := c.count, fail := (2, n) })
      | none => (s1, { c with begun := true, slot := some x, list := lst })

/-- One write of a unit. Its output is computed twice, and one on which the two datapaths differ is written marked and reports MEMERR (R400). -/
def CatCmd.putOne (c : CatCmd) (s : State) (w : CatPut) (differ : Bool) : State × CatCmd :=
  match w.bump with
  | some k => (s.store k 8 ((s.readN k 8 + 1) % 2 ^ 64), c)
  | none => (s.commit w.bytes (w.mark || differ), if differ then { c with fail := worse c.fail (4, c.next - 1) } else c)

/-- What the query or list position that comes next reads and will write. -/
def CatCmd.take (c : CatCmd) (s : State) (u : Nat) : State × CatCmd :=
  match c.slot with
  | none => (s, { c with next := c.count })
  | some x =>
    let qf : Fmt := match c.qfmt with | 0 => .fp32 | 1 => .bf16 | _ => x.kf
    let r := if c.upd then c.oneRow s x c.next else c.oneQuery s (unitDie u) x qf c.next
    let away := (c.src ++ c.src2 ++ c.out ++ c.rcd).any (fun q => decide (remotePlace ≤ q.2.1))
    ((if away then s.drawn else s).verify r.reads, { c with next := c.next + 1, work := r.puts, fail := if r.status = 0 then c.fail else worse c.fail (r.status, c.next) })

/-- One step of a unit's work on a command: it begins, makes one write, or takes up the next query or list position (R116, R121, R123). -/
def CatCmd.step (c : CatCmd) (s : State) (u : Nat) (differ : Bool) : State × CatCmd :=
  if !c.begun then c.start s u
  else match c.work with
  | w :: r => ({ c with work := r } : CatCmd).putOne s w differ
  | [] => if c.next < c.count then c.take s u else (s, c)

/-- What is left of a command. -/
def CatCmd.rest (c : CatCmd) (s : State) (u : Nat) : State × CatCmd :=
  let flush (q : State × CatCmd) : State × CatCmd := q.2.work.foldl (fun q w => q.2.putOne q.1 w false) (q.1, { q.2 with work := [] })
  let q0 := if c.begun then (s, c) else c.start s u
  (List.range (q0.2.count - q0.2.next)).foldl (fun q _ => flush (q.2.take q.1 u)) (flush q0)

/-- A step of a unit in which granule `g` fails on its way to it: what reads the granule in this step meets an uncorrectable error, and what stands in memory is as it was (R401). -/
def CatCmd.stepBad (c : CatCmd) (s : State) (u g : Nat) (differ : Bool) : State × CatCmd :=
  if c.begun ∧ !c.work.isEmpty ∨ s.marks.contains g then c.step s u differ
  else
    let q := c.step { s with marks := insSorted s.marks g } u differ
    ({ q.1 with marks := q.1.marks.filter (· != g) }, q.2)

/-- CATALOGUE_COMMAND_COMPLETE: unit `idx` carries its oldest command to its end and writes CW (R115); with `ok` it makes one step of it, and `flag` says that the datapaths differ on what that
step writes, bit 0 of `w` that granule `off` fails on its way from die `id` to die `die`. A status other than OK makes an event record of the unit (R403, log 20). -/
def State.catComplete (s : State) (u : Nat) : State :=
  let d := unitDie u
  match (s.die d).cat with
  | [] => s
  | c :: r =>
    if s.dead d ∨ (c.src ++ c.src2 ++ c.out ++ c.rcd).any (fun q => decide (q.2.1 < remotePlace) && s.held d (.mem q.2.1)) then s
    else if s.arg.ok then
      let q := if s.arg.w.getLsbD 0 ∧ s.arg.die < 16 then c.stepBad (s.hopFailure s.arg.die s.arg.id s.arg.off) u s.arg.off s.arg.flag else c.step s u s.arg.flag
      q.1.modDie d (fun x => { x with cat := q.2 :: r })
    else
      let q := c.rest s u
      let s1 := (q.1.putWord d c.cw (catWord q.2.fail.1 q.2.fail.2)).modDie d (fun x => { x with cat := r, done := x.done + 1 })
      if q.2.fail.1 = 0 then s1 else s1.event (srcUnit u) q.2.fail.1 (c.slotNo * 65536 + q.2.fail.2)

/-- What a unit of another package does with a command of die `die` that it has accepted, number `id` of those (R115): it writes `data` from offset `off` of the outputs, or with `ok` of the index
records; with `flag` it writes CW with the status and index in `w`. From step 3 of an evacuation on none of these writes takes effect, and the command is over with its CW (R433). -/
def State.catFromAway (s : State) : State :=
  let d := s.arg.die
  match (s.die d).catAway[s.arg.id]? with
  | none => s
  | some c =>
    let t (w : State) : State := if s.hub.evac.st.bars then s else w
    if s.arg.flag then
      (t (s.putWord d c.cw (catWord (s.arg.w.toNat % 256) (s.arg.w.toNat / 256)))).modDie d (fun x => { x with catAway := x.catAway.eraseIdx s.arg.id })
    else t ((s.rangePuts d (if s.arg.ok then c.rcd else c.out) s.arg.off s.arg.data).foldl (fun s w => s.commit w.bytes false) s)

def execCatalogueCommandComplete (s : State) : Out :=
  below s.arg.idx 5 (if s.arg.idx < 4 then s.catComplete s.arg.idx else if s.arg.die < 16 then s.catFromAway else s)

/-! Folio commands (R129). -/
/-- The leaf of an address for a write under orders 1 to 9 of R104: the context's FOLIO field and the segment, none outside a Folio window. -/
def State.folioLeaf (s : State) (w : Who) (va : VAddr) : State × Except XFault (Option (Nat × Nat)) :=
  let v := va.toNat
  if v / 2 ^ 72 = 0xFF then (s, if v % 2 ^ 72 < w.spsize then .ok none else .error { cause := 0x17 })
  else if !(s.ctxbase w.die).getLsbD 0 then
    (s, if !w.fw then .error { cause := 0x1C } else if 2 ^ 56 ≤ v then .error { cause := 0x1D } else .ok none)
  else
  let s := s.seeCtx w.die w.ctx
  match s.ctxEntry w.die w.ctx with
  | .error x => (s, .error x)
  | .ok (c0, c1) =>
    if !eBit c0 0 || c0 / 2 % 2 ^ 15 != 0 || decide (2 ^ 56 ≤ c0) then (s, .error { cause := 0x1C })
    else match s.walk w.die v (ePa c0) 15 4 with
    | (s, .error x) => (s, .error x)
    | (s, .ok (e, l, k)) =>
      match leafCheck w .store false e l with
      | some x => (s, .error x)
      | none => (s.touch k e true, .ok (if eBit e 56 then some (c1, e / 2 ^ 16 % 2 ^ 40) else none))

/-- Status and pool index in gD (R112). -/
def folStatus (status idx : Nat) : Word := BitVec.ofNat 64 (status + idx % 2 ^ 24 * 2 ^ 32)

/-- Checks of a pool index named by a register: RANGE, FREE, and OVERFLOW where the count is to rise. An entry outside the package's HBM4 and LP6 answers 0x1A, the cause of R125. -/
def State.poolCheck (s : State) (f : Folio) (b : Nat) (rise : Bool) : Except Nat Nat :=
  if f.npool ≤ b then .error 6
  else match s.poolKey f b with
  | none => .error 0x1A
  | some k =>
    let rc := rcOf (s.readN k 8)
    if rc = 0 then .error 5 else if rise && decide (0xFFFF ≤ rc) then .error 4 else .ok k

/-- The map word takes a new value; the reference of the old one is dropped. -/
def State.remap (s : State) (f : Folio) (mw new : Nat) (touched : List Nat) : State :=
  let old := s.readN mw 4
  let s1 := s.store mw 4 new
  (if eBit old 31 then s1.drop f (old % 2 ^ 24) else s1).folioDrop (mw :: touched)

/-- An access already translated through the entry of a pool index has not completed (R127, R130). -/
def State.poolBusy (s : State) (f : Folio) (b : Nat) : Bool := match s.poolKey f b with | some k => s.entryBusy (s.readN k 8) | none => false
/-- The entry that a map word names is in such use, or the push that its drop may make lies outside the package (R125). -/
def State.mapBusy (s : State) (f : Folio) (mw : Nat) : Bool := eBit (s.readN mw 4) 31 && s.poolBusy f (s.readN mw 4 % 2 ^ 24)
def State.mapOut (s : State) (f : Folio) (mw : Nat) : Bool := eBit (s.readN mw 4) 31 && s.dropOut f (s.readN mw 4 % 2 ^ 24)
/-- A Folio structure lies outside the package's HBM4 and LP6 (R125). -/
def State.folioOut (s : State) (w : Who) (va : VAddr) : State := s.copyTrap w va { cause := 0x1A, level := 0 } .store

/-- A Folio command that names an address: full fence, translation, then its effect on header and map word, once no access is under way through the entry that the word names (R127). A segment
of NSEG or more, and a header field that R125 has zero and is not, take cause 0x1B as an access does; R129 names neither (DESIGN CHOICE, log 69). -/
def folioAt (f : LC) (s : State) (k : Hart → State → Folio → Nat → State) : Out :=
  onHart s (fun h =>
    let va := h.oa f.a.toNat
    let w := s.who s.issue.core h
    let rd := f.d.toNat
    if !s.fenceReady h 3 then s.stall
    else match s.folioLeaf w va with
    | (s, .error x) => s.copyTrap w va x .store
    | (s, .ok none) => s.wrG rd 7
    | (s, .ok (some (c1, seg))) =>
      if !eBit c1 0 then s.wrG rd 7
      else
      let s := s.seeFolio c1
      match s.folio c1 with
      | .error x => s.copyTrap w va x .store
      | .ok fo =>
        if fo.nseg ≤ seg then s.copyTrap w va { cause := 0x1B, level := 0 } .store
        else match s.mapKey fo seg (va.toNat / 4096 % 16) with
        | none => s.folioOut w va
        | some mw => if s.mapBusy fo mw then s.stall else if s.mapOut fo mw then s.folioOut w va else k h (s.verify [mw / 64]) fo mw)

/-- FOLMAP. -/
def execFolmap (f : LC) (s : State) : Out :=
  folioAt f s (fun h s fo mw =>
    let x := h.og f.s1.toNat
    let rd := f.d.toNat
    let out (s : State) : State := s.folioOut (s.who s.issue.core h) (h.oa f.a.toNat)
    if x.getLsbD 63 then
      if s.popOut fo then out s
      else match s.popFree fo with
      | none => s.wrG rd 8
      | some (n, s1) =>
        match s1.poolKey fo n with
        | none => out s
        | some k => (((s1.store k 8 (setRc (s1.readN k 8) 1)).remap fo mw (2 ^ 31 + n) [k])).wrG rd (folStatus 0 n)
    else match s.poolCheck fo x.toNat true with
    | .error e => if e = 0x1A then out s else s.wrG rd (folStatus e 0)
    | .ok k =>
      let e := s.readN k 8
      if s.entryBusy e then s.stall else
      ((s.store k 8 (setRc e (rcOf e + 1))).remap fo mw (2 ^ 31 + x.toNat) [k]).wrG rd (folStatus 0 x.toNat))

/-- FOLMAP.U. -/
def execFolmapU (f : LC) (s : State) : Out :=
  folioAt f s (fun _ s fo mw =>
    let old := s.readN mw 4
    (s.remap fo mw 0 []).wrG f.d.toNat (folStatus 0 (if eBit old 31 then old % 2 ^ 24 else 0)))

/-- What finding the header of a context reads (R401). -/
def State.seeOwnFolio (s : State) (w : Who) : State :=
  if !(s.ctxbase w.die).getLsbD 0 then s
  else match s.ctxEntry w.die w.ctx with
  | .error _ => s
  | .ok (c0, c1) => if !eBit c0 0 || !eBit c1 0 then s.seeCtx w.die w.ctx else (s.seeCtx w.die w.ctx).seeFolio c1
/-- The Folio header of the issuing context, none where it has none. -/
def State.ownFolio (s : State) (w : Who) : Except XFault (Option Folio) :=
  if !(s.ctxbase w.die).getLsbD 0 then .ok none
  else match s.ctxEntry w.die w.ctx with
  | .error x => .error x
  | .ok (c0, c1) => if !eBit c0 0 || !eBit c1 0 then .ok none else match s.folio c1 with | .error x => .error x | .ok f => .ok (some f)

/-- A Folio command that names a pool index, once no access is under way through its entry (R127, R130). A fault of the structures names no address: TRVA is 0 (DEDUCED, log 74). -/
def folioPool (f : LC) (s : State) (rise : Bool) (k : State → Folio → Nat → Nat → State) : Out :=
  onHart s (fun h =>
    let b := (h.og f.s1.toNat).toNat
    let rd := f.d.toNat
    let trap (x : XFault) : State := s.memTrap x.cause 0 .store 1 x.level x.unk
    if !s.fenceReady h 3 then s.stall
    else
    let s := s.seeOwnFolio (s.who s.issue.core h)
    match s.ownFolio (s.who s.issue.core h) with
    | .error x => trap x
    | .ok none => s.wrG rd 7
    | .ok (some fo) => match s.poolCheck fo b rise with
      | .error e => if e = 0x1A then trap { cause := 0x1A, level := 0 } else s.wrG rd (folStatus e 0)
      | .ok key => if s.poolBusy fo b then s.stall else if !rise && s.dropOut fo b then trap { cause := 0x1A, level := 0 } else (k (s.verify [key / 64]) fo b key).wrG rd (folStatus 0 b))

/-- FOLREF. -/
def execFolref (f : LC) (s : State) : Out :=
  folioPool f s true (fun s _ _ k => let e := s.readN k 8; (s.store k 8 (setRc e (rcOf e + 1))).folioDrop [k])
/-- FOLDROP. -/
def execFoldrop (f : LC) (s : State) : Out := folioPool f s false (fun s fo b _ => s.drop fo b)

end Sys2Proof.Machine
end

