-- ==== Sys2Proof/Machine/Orphan.lean ====
section
/-! DEFINITION. Orphans (R412 to R415): what becomes of requests, commands and records that involve a fenced die. -/
namespace Sys2Proof.Machine
open Sys2Proof

/-- The guardian writes an end word where there is one (R414). -/
def State.orphanWord (s : State) (g : Nat) (r : Rec) : State := if g < 16 then s.endWord g r 3 else s

/-- A record homed on the fenced die ends with status 0x03: its harts on other cores are gone, and what it held is free (R415). Its slot keeps the handle,
for which SIGNAL and CANCEL go on reporting FENCED (R366). -/
def State.orphanRec (s : State) (f g i : Nat) (r : Rec) : State :=
  let s1 := r.places.foldl (fun s q =>
    (s.releaseCore r q).modCore q.core (fun c => { c with flight := c.flight.filter (fun x => !q.slots.contains x.slot) })) (s.dropSem r)
  (s1.orphanWord g r).setGang f i { gen := r.gen, handle := r.handle }

/-- Records in the resident slots and in the overflow ring of the fenced die. -/
def State.orphanRecs (s : State) (f g : Nat) : State :=
  let s1 := (s.die f).recs.foldl (fun s q => if q.2.st = 0 then s else s.orphanRec f g q.1 q.2) s
  (s1.die f).ring.foldl (fun s q => (if q.2.st = 1 then s.orphanWord g q.2 else s).setRing f q.1 { gen := q.2.gen, handle := q.2.handle }) s1

/-- Commands that the engines of the fenced die held: the guardian writes CW and the flag (R415). -/
def State.orphanEngine (s : State) (f g : Nat) : State :=
  let s1 := s.modDie f (fun x => { x with lostCmds := [] })
  (s.die f).lostCmds.foldl (fun s c => if g < 16 then c.finish s g 6 0 else s.copyUncount c c.left) s1

/-- Commands of other engines with a byte on the fenced die end with FENCED (R147, R415). -/
def EngQ.orphan (q : EngQ) (f : Nat) : EngQ :=
  { q with cmds := q.cmds.map (fun c =>
      if c.bad = none ∧ c.places.any (fun p => decide (p < remotePlace) && dieOfKey p == f) then { c with started := true, todo := [], cores := [], bad := some 6 } else c) }

/-- Commands of the fenced die's Catalogue unit: the issuing die writes CW (R415). What units of other packages still answer to its own commands reaches nothing. -/
def State.orphanCat (s : State) (f : Nat) : State :=
  (s.die f).cat.foldl (fun s c => if c.die = f then s else s.putWord c.die c.cw (catWord 6 0)) (s.modDie f (fun x => { x with cat := [], catAway := [] }))

/-- A write on its way from its hart's die passed the fenced die on its old route (R413). -/
def State.crossed (s : State) (f : Nat) (w : PW) : Bool :=
  match s.writeSource w, w.bytes with
  | some p, b :: _ => w.phase == 0 && (Hub.route { s.hub with fset := setBit s.hub.fset f false } p (dieOfKey b.1)).any (fun l => l.any (fun q => q.1 == f))
  | _, _ => false

/-- Writes homed on the fenced die are counted as not written, and so is one on its way whose old route passes it, unless it had passed before: the event says which (R413). -/
def State.orphanWrites (s : State) (f : Nat) : State :=
  let lost (w : PW) : Bool := w.bytes.any (fun b => dieOfKey b.1 == f) || (s.crossed f w && !s.arg.w.getLsbD (w.id % 64))
  (s.pw.filter lost).foldl (fun s w => s.uncountOf w.hart (if w.phase = 0 then 0 else if w.phase = 1 then 4 else 5) 5 w.cnt)
    { s with pw := s.pw.filter (fun w => !lost w) }

/-- Requests for semaphore bits of the fenced die, and those that its cores have elsewhere, end (R356). -/
def State.orphanSems (s : State) (f : Nat) : State :=
  { s with dies := s.dies.map (fun q => (q.1, { q.2 with semq := if q.1 = f then [] else q.2.semq.filter (fun w => w.core / 2 != f) })) }

/-- The orphans of die `f` with guardian `g`, 16 where it has none. -/
def State.orphan (s : State) (f g : Nat) : State :=
  let s1 := ((((s.orphanEngine f g).orphanCat f).orphanWrites f).orphanSems f).orphanRecs f g
  { s1 with dies := s1.dies.map (fun q => (q.1, { q.2 with eng := q.2.eng.map (fun e => (e.1, e.2.orphan f)) })) }

/-- An end word of the guardian waits (R127). -/
def State.orphanWaits (s : State) (f g : Nat) : Bool :=
  decide (g < 16) && ((s.die f).recs.any (fun q => q.2.st != 0 && s.endWaits g q.2) || (s.die f).ring.any (fun q => q.2.st == 1 && s.endWaits g q.2))
/-- ORPHAN_COMPLETION: the oldest fence whose orphans are still to complete. -/
def execOrphanCompletion (s : State) : Out :=
  .next (match s.orphans with
    | [] => s
    | (f, g) :: r => if s.orphanWaits f g then s else ({ s with orphans := r } : State).orphan f g)

end Sys2Proof.Machine
end

