-- ==== Sys2Proof/Machine/Slots.lean ====
section
/-! DEFINITION. What the slots of a packet read, write and name, by class and opcode: dependences and chain latencies (R56, R191, R251, R326), rows
and queues (R55, R202, R282), and the classes that R51, R54, R202, R325 and R383 list. A slot is a class and its word. -/
namespace Sys2Proof.Machine
open Sys2Proof

/-- A slot word with its class. -/
abbrev Slot := Cls × Word
def opOf (w : Word) : Nat := fldN w 63 56
/-- Opcodes of a range, both ends included. -/
def opIn (w : Word) (lo hi : Nat) : Bool := decide (lo ≤ opOf w) && decide (opOf w ≤ hi)

/-! Lists of opcodes. -/
/-- Slots that may carry a hold bit (R51). -/
def holdable (q : Slot) : Bool :=
  match q.1 with | .S => opIn q.2 0x01 0x35 | .L => opIn q.2 0x10 0x1C | .V => true | .M => opIn q.2 0x01 0x04
/-- Slots that change the execution mode (R54). -/
def modeChange (q : Slot) : Bool :=
  let cr := (SC.of q.2).cr.toNat
  q.1 == .S && (opIn q.2 0x62 0x63 || (opOf q.2 == 0x61 && (cr == 0 || (decide (3 ≤ cr) && decide (cr ≤ 5)) || (decide (16 ≤ cr) && decide (cr < 32)))))
/-- Control registers marked P (R75). -/
def crPriv (n : Nat) : Bool := n == 5 || n == 32 || n == 33 || (decide (64 ≤ n) && decide (n < 68)) || (decide (80 ≤ n) && decide (n < 98))
/-- Slots that only a privileged hart may issue (R325). -/
def slotPriv (q : Slot) : Bool :=
  match q.1 with
  | .S => opIn q.2 0xE1 0xE2 || opOf q.2 == 0xE4 || (opOf q.2 == 0x61 && crPriv (SC.of q.2).cr.toNat)
  | .M => opOf q.2 == 0x25
  | _ => false
/-- Slots that a role may issue (R202). -/
def roleMay (r : Role) (q : Slot) : Bool :=
  match r, q.1 with
  | .solo, _ => true
  | _, .S => true
  | .loader, .L => !opIn q.2 0x18 0x1C
  | .drain, .L => !opIn q.2 0x10 0x14
  | .compute, .L => opIn q.2 0x01 0x0D || opIn q.2 0x20 0x27 || opIn q.2 0x30 0x31 || opIn q.2 0x40 0x54
  | .compute, _ => true
  | _, _ => false
/-- Slots that a packet in handler state may carry (R383). -/
def handlerMay (q : Slot) : Bool :=
  match q.1 with
  | .S => !opIn q.2 0x62 0x63 && opOf q.2 != 0x7B
  | .L => opIn q.2 0x01 0x0D || opIn q.2 0x20 0x27 || opOf q.2 == 0x30
  | _ => false
/-- Control transfers (R312) and the slots that a recording refuses (R247). -/
def isJump (q : Slot) : Bool := q.1 == .S && opIn q.2 0x50 0x5B
def unrecorded (q : Slot) : Bool :=
  isJump q || (q.1 == .S && (opOf q.2 == 0x7B || opIn q.2 0xE0 0xE2)) || (q.1 == .M && (opOf q.2 == 0x30 || opIn q.2 0x32 0x33))
/-- Slots that access memory, which an earlier access with .acq holds back until its own write is visible (R177, R295). -/
def accesses (q : Slot) : Bool :=
  match q.1 with | .L => opOf q.2 != 0x1C && opOf q.2 != 0x30 && opOf q.2 != 0x31 | .S => opOf q.2 == 0x75 || opIn q.2 0x78 0x79 | _ => false
/-- The divider's slots (R327). -/
def isDivide (q : Slot) : Bool := q.1 == .S && (opIn q.2 0x06 0x09 || opIn q.2 0x2C 0x2D)
def isUpdate (q : Slot) : Bool := q.1 == .M && opIn q.2 0x01 0x04

/-! Queues (R55, R202). -/
def viewQueue (b : BitVec 12) : List Nat := match View.ofBits b with | some (.q n) => [n] | some (.dq n) => [8 + n] | _ => []
/-- Queues that a slot names: 0 to 7 for q0 to q7, 8 and 9 for dq0 and dq1. -/
def slotQueues (q : Slot) : List Nat :=
  let f := LM.of q.2
  let v := VV.of q.2
  let t := f.t.toNat
  let x := f.x.toNat % 8
  match q.1 with
  | .S => []
  | .L =>
    if opOf q.2 = 0x13 ∨ opOf q.2 = 0x2C then [t % 8, x]
    else if opIn q.2 0x10 0x14 then [t % 8]
    else if opOf q.2 = 0x1B ∨ opOf q.2 = 0x2D then [8 + t % 2, x]
    else if opIn q.2 0x18 0x1A then [8 + t % 2]
    else if opOf q.2 = 0x1C then [8 + x % 2]
    else if opIn q.2 0x28 0x2B then [8 + t % 2, x] ++ (if f.vret then [t / 2 % 8] else [])
    else []
  | .V => viewQueue v.vd ++ viewQueue v.vs1 ++ viewQueue v.vs2
  | .M => if isUpdate q then [(MU.of q.2).qa.toNat, (MU.of q.2).qb.toNat] else []

/-! Rows (R55, R282). -/
/-- Row-block forms (R256). -/
def blkForm (w : Word) : Bool := opIn w 0x01 0x15 || opOf w == 0x30 || opIn w 0x32 0x33
/-- Rows that a V slot writes at a length; `n` is the number of elements in a destination cell. At length 0 a destination view contains no row: R55 gives a row view its own row at the
hart's VL, R213 says that views name no cell at L = 0 (DESIGN CHOICE, log 80). -/
def vWriteRows (w : Word) (len n : Nat) : List Nat :=
  let f := VV.of w
  let d := vw f.vd
  let row := match d with | .row i => i | _ => 0
  match d with
  | .dq _ => []
  | _ =>
    if opIn w 0x20 0x2A ∨ opOf w = 0x2C ∨ opOf w = 0x56 then []
    else if opOf w = 0x36 then (List.range len).map (· + row)
    else if opOf w = 0x58 then (List.range 8).map (· + row)
    else if opOf w = 0x37 ∨ opIn w 0x50 0x55 ∨ opOf w = 0x5A ∨ (opOf w = 0x59 ∧ f.fx.getLsbD 0) then bandRows row
    else if opIn w 0x40 0x45 then [(vAt d 0 (f.imm.toNat / max n 1)).1]
    else if opOf w = 0x2B ∨ opOf w = 0x2D then [(vAt d 0 0).1]
    else vRows d len (if blkForm w then blkOf' f else 1)
/-- Whether a row lies in the half or halves that an update updates. -/
def inHalf (w : Word) (r : Nat) : Bool := match (MU.of w).hs.toNat with | 0 => decide (r < 128) | 1 => decide (128 ≤ r) | _ => true

/-! Dependences. -/
def gd (x : BitVec 5) : Dep := .g x.toNat
def ad (x : BitVec 5) : Dep := .a (x.toNat % 16)

/-- What an S slot reads, and what it writes with its chain latency (R326). -/
def sReads (w : Word) : List Dep :=
  let f := SR.of w
  let b := SB.of w
  let op := opOf w
  if op = 0x21 ∨ op = 0x24 ∨ op = 0x25 ∨ op = 0x75 then [ad f.s1]
  else if opIn w 0x10 0x17 ∨ op = 0x61 ∨ op = 0x70 ∨ op = 0x74 ∨ op = 0x7A then [gd f.s1]
  else if op = 0x20 ∨ op = 0x26 then [ad f.s1, gd f.s2]
  else if op = 0x22 then [ad f.s1, ad f.s2]
  else if op = 0x2B then [gd f.d, gd f.s1, gd f.s2]
  else if opIn w 0x50 0x57 then [gd b.s1, gd b.s2]
  else if opIn w 0x5A 0x5B then [ad b.s1]
  else if op = 0x60 then (if (SC.of w).cr = 1 then [.vl] else [])
  else if op = 0x58 ∨ op = 0x59 ∨ op = 0x7C then []
  else [gd f.s1, gd f.s2]
def sWrites (w : Word) : List (Dep × Nat) :=
  let f := SR.of w
  let op := opOf w
  if opIn w 0x03 0x05 then [(gd f.d, 3)]
  else if opIn w 0x06 0x09 then [(gd f.d, 20)]
  else if op = 0x20 ∨ op = 0x21 ∨ op = 0x23 ∨ op = 0x25 ∨ op = 0x26 then [(ad f.d, 1)]
  else if opIn w 0x01 0x26 then [(gd f.d, 1)]
  else if opIn w 0x28 0x2B then [(gd f.d, 4)]
  else if opIn w 0x2C 0x2D then [(gd f.d, 14)]
  else if opIn w 0x2E 0x32 ∨ op = 0x35 then [(gd f.d, 2)]
  else if opIn w 0x33 0x34 then [(gd f.d, 3)]
  else if op = 0x59 then [(ad (SB.of w).d, 1)]
  else if op = 0x60 ∨ op = 0x7C then [(gd f.d, 2)]
  else if op = 0x62 then [(gd f.d, 2), (.vl, 2)]
  else if op = 0x63 then [(gd f.d, 2)]
  else if opIn w 0x70 0x7A ∨ op = 0xE2 then [(gd f.d, 1)]
  else if op = 0xE4 then (List.range 4).map (fun i => (.g (f.d.toNat + i), 3))
  else []

/-- What an L slot reads under an MFC, and what it writes (R191). A vector store takes its length from its entry and reads no VL (R156, R185); an MX load or
store that advances its base advances the base of its scales too (R160, R182). -/
def lReads (w mfc : Word) : List Dep :=
  let f := LM.of w
  let c := LC.of w
  let gx : Dep := .g f.x.toNat
  let at_ : Dep := .a f.a.toNat
  let k : Dep := .k f.k.toNat
  let op := opOf w
  if opIn w 0x08 0x0B then [at_, gx, .g f.t.toNat]
  else if op = 0x0D then [at_, gx, .a (f.t.toNat % 16)]
  else if opIn w 0x01 0x0C then [at_, gx, k]
  else if opIn w 0x10 0x12 ∨ op = 0x14 then [at_, gx, k, .vl] ++ (if mfcLsc mfc = 0 then [] else [.a (mfcLsa mfc)])
  else if op = 0x15 then [at_, gx]
  else if opIn w 0x18 0x1A then [at_, gx, k] ++ (if mfcSsc mfc = 0 then [] else [.a (mfcSsa mfc)])
  else if op = 0x1C then [k, .vl]
  else if op = 0x27 then [at_, gx, .g (f.t.toNat % 32)]
  else if opIn w 0x20 0x26 then [at_, gx]
  else if op = 0x1B ∨ op = 0x2D then [at_, k]
  else if op = 0x13 ∨ opIn w 0x28 0x2C then [at_, k, .vl]
  else if opIn w 0x40 0x54 then [.a c.a.toNat, .g c.s1.toNat, .g c.s2.toNat]
  else []
def lWrites (w mfc : Word) : List (Dep × Nat) :=
  let f := LM.of w
  let c := LC.of w
  let op := opOf w
  let scale : List (Dep × Nat) := if op = 0x10 ∧ mfcLsc mfc = 1 then [(.a (mfcLsa mfc), 1)] else if op = 0x18 ∧ mfcSsc mfc = 1 then [(.a (mfcSsa mfc), 1)] else []
  let post : List (Dep × Nat) := if opIn w 0x01 0x1B ∧ f.pi = 1 then (.a f.a.toNat, 1) :: scale else []
  if opIn w 0x01 0x07 ∨ opIn w 0x20 0x27 then (.g (f.t.toNat % 32), 5) :: post
  else if op = 0x0C then (.a (f.t.toNat % 16), 5) :: post
  else if op = 0x14 then (.vl, 5) :: (.g f.x.toNat, 5) :: post
  else if op = 0x2D then [(.k (mfcPck mfc), 5)]
  else if opIn w 0x40 0x54 then (.g c.d.toNat, 5) :: (if opIn w 0x40 0x43 then [(.k c.k.toNat, 0)] else [])
  else post

/-- What a V slot reads besides rows, and the mask that it writes. -/
def viewDeps (b : BitVec 12) : List Dep :=
  match View.ofBits b with
  | some (.g n) => [.g n]
  | some .chkrow | some .chkcol => [.grid]
  | some .vscLo | some .vscHi => [.vsc]
  | _ => []
def vReads (w : Word) : List Dep :=
  let f := VV.of w
  if opIn w 0x26 0x2A then [.k (f.imm.toNat / 8 % 8), .k (f.fx.toNat % 8)]
  else if opOf w = 0x2B ∨ opOf w = 0x2D then [.k (f.imm.toNat / 8 % 8), .vl]
  else if opOf w = 0x37 then []
  else [.k f.k.toNat, .vl] ++ viewDeps f.vs1 ++ (if opOf w = 0x55 then [] else viewDeps f.vs2)
def vWrites (w : Word) : List (Dep × Nat) :=
  if opIn w 0x20 0x2A ∨ opOf w = 0x2C then [(.k ((VV.of w).imm.toNat % 8), 0)] else []

/-- What an M slot reads besides rows, and what it writes (R251). -/
def mReads (w : Word) (mm : Bool) : List Dep :=
  let f := MC.of w
  let op := opOf w
  if op = 0x01 ∨ op = 0x03 then (if mm then [] else [.vl])
  else if op = 0x02 ∨ op = 0x04 then (if mm then [.vsc] else [.vl, .vsc])
  else if op = 0x20 ∨ op = 0x21 ∨ op = 0x23 then [.rows, .grid, gd f.s1]
  else if op = 0x22 then [.loc, .grid, gd f.s1]
  else if op = 0x24 ∨ op = 0x25 then [.grid, gd f.s1]
  else if op = 0x32 ∨ op = 0x33 then [gd f.s1]
  else []
def mWrites (w : Word) : List (Dep × Nat) :=
  let f := MC.of w
  match opOf w with
  | 0x20 => [(.grid, 16)]
  | 0x21 => [(gd f.d, 20), (.loc, 20)]
  | 0x22 => [(.k (f.d.toNat % 8), 2)]
  | 0x23 => [(gd f.d, 9), (.grid, 9)]
  | 0x24 => [(gd f.d, 3)]
  | 0x30 => [(gd f.d, 1)]
  | _ => []

/-- Reads and writes of a slot under the control registers of its packet; writes that are discarded are none (R74). -/
def slotReads (c : Ctrl) (q : Slot) : List Dep :=
  match q.1 with | .S => sReads q.2 | .L => lReads q.2 c.mfc | .V => vReads q.2 | .M => mReads q.2 c.mm
def slotWrites (c : Ctrl) (q : Slot) : List (Dep × Nat) :=
  (match q.1 with | .S => sWrites q.2 | .L => lWrites q.2 c.mfc | .V => vWrites q.2 | .M => mWrites q.2).filter
    (fun x => match x.1 with | .g 0 | .k 0 => false | _ => true)

/-- A dependence on the hart's own earlier packets that has not reached its chain latency (R56). -/
def State.depLate (s : State) (p slot : Nat) (h : Hart) (d : Dep) : Bool :=
  let own := (s.core p).flight.filter (fun f => f.slot == slot)
  h.ready.any (fun q => q.1 == d && decide (s.cycle < q.2)) || own.any (fun f => f.deps.contains d)
    || (match d with
      | .grid => own.any (fun f => f.isUpdate)
      | .rows => own.any Flight.writes || h.ready.any (fun q => decide (s.cycle < q.2) && (match q.1 with | .row _ => true | _ => false))
      | _ => false)

end Sys2Proof.Machine
end

