-- ==== Sys2Proof/Machine/Packet.lean ====
section
/-! DEFINITION. The packet in issue: fetch, the checks of R76 and R202, held slots (R50), Carrel replay and re-issue (R248, R385), the wait conditions
(R53, R56, R58, R60, R203, R327), issue selection (R347), and what becomes of a packet once its slots have run (R379, R380). -/
namespace Sys2Proof.Machine
open Sys2Proof

/-! Fetch (R47, R76 order 1). -/
/-- The slot word of a class. -/
def Packet.word (k : Packet) : Cls → Word | .S => k.s | .L => k.l | .V => k.v | .M => k.m
/-- The packet in the bytes at its address. -/
def Packet.ofBytes (b : List Byte) : Packet :=
  let h := BitVec.ofNat 32 (leNat (b.take 4))
  { hdr := h, s := slotWord b h .S, l := slotWord b h .L, v := slotWord b h .V, m := slotWord b h .M }

/-- A byte of memory as the front end of hart `i` gives it: where the event names the byte's granule in `arg.w` and the front end has read that granule since the hart's last control
transfer, as it was then (R305, log 18). -/
def State.frontByte (s : State) (p i k : Nat) : Byte :=
  if s.arg.core = p ∧ s.arg.slot = i ∧ s.arg.w.getLsbD (k / 64 % 64) then
    match (tget [] (s.core p).front i).find? (fun q => q.1 == k / 64) with
    | some q => q.2.getD (k % 64) 0
    | none => s.byte k
  else s.byte k

/-- The front end reads the granules of a packet, with those after them in the page that the event asks for in `arg.len` (R305, log 18). -/
def State.prefetch (s : State) (p i : Nat) (l : List XOk) : State :=
  let gs := granules (locKeys l)
  match gs.getLast? with
  | none => s
  | some g =>
    if s.arg.len = 0 then s
    else
      let more := (gs ++ (List.range (min s.arg.len 64)).map (· + g + 1)).filter (fun x => decide (x / 64 = g / 64) || gs.contains x)
      s.modCore p (fun c =>
        let old := tget [] c.front i
        { c with front := tset c.front i (old ++ ((more.filter (fun x => !old.any (fun q => q.1 == x))).eraseDups).map (fun x => (x, s.readAt (64 * x) 64))) })

/-- Bytes of a packet, or the fetch fault, none where the fetch waits (R127); a remote byte is free (log 8). -/
def State.fetchBytes (s : State) (p i : Nat) (w : Who) (pc : VAddr) (n : Nat) : State × Except (Option TrapReq) (List Byte) :=
  let fail (c : Nat) (va : VAddr) (lv : Nat) : Option TrapReq := some { cause := c, va := va, info := trinfo .fetch (sizeLog n) lv false }
  match s.xlateSpan w pc n .fetch false with
  | (s, .error (a, x)) => (s, .error (if x.wait then none else fail x.cause a x.level))
  | (s, .ok l) =>
    match l.zipIdx.find? (fun q => match q.1.loc with | .remote pa => !s.hasRoute pa | _ => false), s.badByte l with
    | some (o, i), _ => (s, .error (fail 0x19 (pc + BitVec.ofNat 80 i) o.level))
    | none, some (i, lv) => (s.verify (granules (locKeys l)), .error (fail 0x1F (pc + BitVec.ofNat 80 i) lv))
    | none, none =>
      let b := l.map (fun o => match o.loc with | .mem k => s.frontByte p i k | .remote pa => Config.remoteByte s.draw pa | _ => 0)
      let t := s.prefetch p i l
      (if (firstRemote l).isSome then t.drawn else t, .ok b)

/-- The packet at the hart's program counter. -/
def State.fetch (s : State) (p i : Nat) (h : Hart) : State × Except (Option TrapReq) Packet :=
  let w := s.who p h
  if h.pc.toNat % 4 ≠ 0 then (s, .error (some { cause := 0x21, va := h.pc, info := trinfo .fetch 2 15 false }))
  else match s.fetchBytes p i w h.pc 4 with
  | (s, .error t) => (s, .error t)
  | (s, .ok b) =>
    match s.fetchBytes p i w h.pc (packetLen (BitVec.ofNat 32 (leNat b))) with
    | (s, .error t) => (s, .error t)
    | (s, .ok b) => (s, .ok (Packet.ofBytes b))

/-! Checks (R76, R202). -/
def illegalReq (sub : Nat) (c : Cls) : TrapReq := { cause := 1, info := sub + 256 * c.num }
/-- The present slots of a packet, and the held slots that it repeats (R50). -/
def Packet.present (k : Packet) : List Slot := (Cls.all.filter (hPres k.hdr)).map (fun c => (c, k.word c))
def Packet.repeats (k : Packet) (held : Tbl Word) : List Slot :=
  (Cls.all.filter (fun c => !hPres k.hdr c && !hHold k.hdr c && tget 0 held c.num != 0)).map (fun c => (c, tget 0 held c.num))
/-- Present slots and repetitions in the order S, L, V, M. -/
def Packet.all (k : Packet) (held : Tbl Word) : List Slot :=
  Cls.all.flatMap (fun c => (k.present ++ k.repeats held).filter (fun q => q.1 == c))
def decoded (l : List Slot) : List Instr := l.filterMap (fun q => (decodeSlot q.1 q.2).toOption)

/-- Orders 3 to 5 of R76: the least subcause, of the first slot that has it. -/
def decodeFault (l : List Slot) : Option TrapReq :=
  let sub (q : Slot) : Nat := match decodeSlot q.1 q.2 with | .error n => n | .ok _ => 9
  ([1, 2, 3].findSome? (fun n => (l.find? (fun q => sub q == n)).map (fun q => illegalReq n q.1)))

/-- The class of a structural conflict (R55, R176, R236, R313), for a packet with its repetitions: the slot that the rule's sentence is about. -/
def State.conflict (s : State) (p i : Nat) (h : Hart) (l : List Slot) : Option Cls :=
  let slot (c : Cls) : Option Word := (l.find? (fun q => q.1 == c)).map (·.2)
  let gs := s.groupsOf p h
  let vrows : List Nat := match slot .V with
    | none => []
    | some w => vWriteRows w h.ctrl.vl (((s.core p).tagsAhead i).tag gs (min (vAt (vw (VV.of w).vd) 0 0).1 255)).n
  let mq : List Nat := match slot .M with | some w => slotQueues (.M, w) | none => []
  let lq : List Nat := match slot .L with | some w => slotQueues (.L, w) | none => []
  let twice : Option Cls := (l.foldl (fun (a : List Dep × Option Cls) q =>
    let ws := (slotWrites h.ctrl q).map (·.1)
    (a.1 ++ ws, match a.2 with | some c => some c | none => if ws.any a.1.contains then some q.1 else none)) ([], none)).2
  let case1 := match slot .M with | some w => isUpdate (.M, w) && vrows.any (inHalf w) | none => false
  let case3 := match slot .V with
    | some w => (viewQueue (VV.of w).vs1 ++ viewQueue (VV.of w).vs2).any mq.contains || (viewQueue (VV.of w).vd).any lq.contains
    | none => false
  let case4 := match slot .M with | some w => isUpdate (.M, w) && (MU.of w).qa == (MU.of w).qb | none => false
  let case5 := match slot .L with | some w => opOf w == 0x1C && (vRows (drvView (LM.of w)) h.ctrl.vl 1).any vrows.contains | none => false
  let colophon := match slot .M with | some w => (slot .V).isSome && (opIn w 0x20 0x21 || opOf w == 0x23 || opOf w == 0x25) | none => false
  let jump := match slot .M with | some w => opIn w 0x32 0x33 && l.any isJump | none => false
  if case1 then some .V
  else if twice.isSome then twice
  else if case3 then some .V
  else if case4 then some .M
  else if case5 then some .L
  else if colophon ∨ jump then some .M
  else if (decoded l).any Instr.selfConflict then some .L
  else none

/-- Orders 7 to 9 of R76: structural conflict, convoy rule, privilege. A mode change stands alone in its convoy, held slots counted (R54). -/
def State.checkIssue (s : State) (p i : Nat) (h : Hart) (hdr : BitVec 32) (l : List Slot) : Option TrapReq :=
  match s.conflict p i h l with
  | some c => some (illegalReq 6 c)
  | none =>
    if l.any modeChange ∧ (!hConv hdr ∨ 1 < l.length) then some (illegalReq 7 .S)
    else if h.modeNext ∧ !hConv hdr then some (illegalReq 7 ((l.head?.map (·.1)).getD .S))
    else if h.priv then none
    else (l.find? slotPriv).map (fun q => { cause := 2, info := 256 * q.1.num })

/-- Orders 2 to 9 of R76, and in handler state what R383 forbids. -/
def State.checkPacket (s : State) (p i : Nat) (h : Hart) (k : Packet) : Option TrapReq :=
  if h.handler ∧ (k.present.any (fun q => !handlerMay q) ∨ Cls.all.any (hHold k.hdr) ∨ hPush k.hdr ∨ hPop k.hdr) then some (illegalReq 4 .S)
  else if headerBad k.hdr k.m then some (illegalReq 4 .S)
  else match decodeFault k.present with
  | some t => some t
  | none =>
    match k.present.find? (fun q => hHold k.hdr q.1 && !holdable q) with
    | some q => some (illegalReq 5 q.1)
    | none => s.checkIssue p i h k.hdr (k.all h.held)

/-- The checks of R202: role, then claims. -/
def State.roleClaim (s : State) (h : Hart) (hdr : BitVec 32) (l : List Slot) : Option TrapReq :=
  let d := (s.gang h.die h.idx).desc
  match l.find? (fun q => !roleMay h.ctrl.role q) with
  | some q => some { cause := 0x22, info := q.1.num }
  | none =>
    match (l.flatMap slotQueues).find? (fun q => !d.qclaim.testBit q) with
    | some q => some { cause := 0x23, info := q }
    | none => if (hPush hdr ∨ hPop hdr) ∧ !d.tclaim.testBit (hTf hdr) then some { cause := 0x23, info := 16 + hTf hdr } else none

/-- Subcauses 1 and 2 of the Carrel fault (R247). -/
def recordFault (h : Hart) (hdr : BitVec 32) (l : List Slot) : Option TrapReq :=
  if h.handler ∨ h.carrel.st ≠ .recording then none
  else if 128 ≤ h.carrel.pos then some { cause := 0x27, info := 1 }
  else if (h.carrel.pos = 0 ∧ !hConv hdr) ∨ l.any unrecorded then some { cause := 0x27, info := 2 }
  else none

/-! Wait conditions that stand before a packet is taken up. -/
/-- The hart's previous convoy has drained (R53). -/
def State.drainedConvoy (s : State) (p i : Nat) (h : Hart) : Bool :=
  s.landed p i h && h.tokens.isEmpty && h.ready.all (fun q => decide (q.2 ≤ s.cycle))

/-- The classes that a core has issued in this cycle, one list per packet. -/
def State.taken (s : State) (p : Nat) : List (Nat × Nat) := if (s.core p).issuedAt = s.cycle then (s.core p).issued else []
def classMask (l : List Slot) : Nat := l.foldl (fun m q => m ||| 2 ^ q.1.num) 0
/-- A packet fits beside those already issued in the cycle (R60, R439). -/
def State.fits (s : State) (p i : Nat) (mask : Nat) : Bool :=
  let t := s.taken p
  let one (b : Nat) : Bool := !(mask.testBit b && t.any (fun q => q.2.testBit b))
  decide (t.length < 2) && t.all (fun q => q.1 != i) && one 2 && one 3
    && !(s.hub.throt && !(s.core p).issued.isEmpty && decide (s.cycle ≤ (s.core p).issuedAt + 1))

/-- The waits of R53, R56, R58, R177, R224, R225 and R327; a token FIFO that the gang does not claim is a claim fault and no wait (R202). -/
def State.mayIssue (s : State) (p i : Nat) (h : Hart) (hdr : BitVec 32) (again : Bool) (l : List Slot) : Bool :=
  let last : Nat := match h.lastIssue with | some c => c + max 1 (if again then 1 else hWait hdr) | none => 0
  decide (last ≤ s.cycle) && decide (h.minIssue ≤ s.cycle) && !h.protBusy
    && (!(again || hConv hdr || h.fresh) || s.drainedConvoy p i h)
    && (again || !(s.gang h.die h.idx).desc.tclaim.testBit (hTf hdr)
      || ((!hPop hdr || (s.fifo p (hTf hdr)).canPop s.cycle) && (!hPush hdr || (s.fifo p (hTf hdr)).canPush s.cycle)))
    && (!l.any isDivide || decide (h.divUntil ≤ s.cycle))
    && !(l.any accesses && s.anyLive h.acqW)
    && (!h.ctrl.prot || (s.core p).flight.all (fun f => f.slot != i || f.isUpdate))
    && s.fits p i (classMask l)

/-! Taking a packet up. -/
/-- A packet about to run its slots, a packet stopped by a check, or no packet. -/
inductive Opened where | none_ | trap (s : State) | go (s : State)

/-- The slots as they run: ERET after the others (R384). -/
def runOrder (l : List Slot) : List Instr :=
  decoded (l.filter (fun q => !(q.1 == .S && opOf q.2 == 0xE1)) ++ l.filter (fun q => q.1 == .S && opOf q.2 == 0xE1))

def Hart.keep (h : Hart) (l : List Slot) (pc0 cont : VAddr) (crl : Bool) : Hart :=
  { h with kOpnd := h.opnd, kCtrl := h.octrl, kSlots := tsetMany [] (l.map (fun q => (q.1.num, q.2))), kPc := pc0, kCrl := crl, crlNext := crl, cont := cont }

/-- The registers as they stand now are what the packet's slots read (R49). -/
def Hart.snap (h : Hart) : Hart := { h with opnd := h.regs, octrl := h.ctrl }

/-- A tile fault that a return left to be raised stands over while another trap of the hart comes first (R384). -/
def Hart.tileOver (h : Hart) : Hart := { h with tileInfo := h.tileNow.getD 0, tileNow := none, retry := false }

/-- Takes a precise trap for a packet that has not been taken up. -/
def State.stopAt (s : State) (p i : Nat) (h : Hart) (l : List Slot) (pc0 cont : VAddr) (t : TrapReq) : State :=
  (s.setHart p i (h.snap.keep l pc0 cont false).tileOver).enterTrap p i { t with pc := some pc0, tilep := h.tileNow.isSome }

/-- Puts a packet into issue. -/
def State.openWith (s : State) (p i : Nat) (h : Hart) (l reps : List Slot) (hdr : BitVec 32) (pc0 npc : VAddr) (again crl : Bool) : State :=
  { s.setHart p i h with
    issue := { active := true, core := p, slot := i, slots := runOrder l, words := tsetMany [] (l.map (fun q => (q.1.num, q.2))),
               reps := reps.map (fun q => q.1.num), again := again, crl := crl, pc0 := pc0, npc := npc, hdr := hdr, far := s.arg.flag } }

/-- The slots in issue with their classes. -/
def State.slotsNow (s : State) : List Slot := Cls.all.filterMap (fun c => if tget 0 s.issue.words c.num = 0 then none else some (c, tget 0 s.issue.words c.num))

/-- What stands of a packet that does not take effect: its table walks (R94), and the granules whose check values its reads found to fail (R401). -/
def State.walked (s : State) (w : Option (Who × VAddr × Nat × Acc)) (bad : Bool) : State :=
  match w with
  | none => s
  | some (w, va, n, acc) =>
    match s.xlateSpan w va n acc (n == 8 && va.toNat % 8 == 0 && acc != .atomic) with
    | (t, .ok l) => if bad then t.verify (granules (locKeys l)) else t
    | (t, .error _) => t

/-- A precise trap of a packet in issue (R379); one of a re-issue too reports RETRY (R377). -/
def State.trapAll (s : State) (walk : Option (Who × VAddr × Nat × Acc)) (t : TrapReq) : State :=
  let p := s.issue.core
  let i := s.issue.slot
  let q := s.issue
  let s1 := ({ s with issue := {} } : State).walked walk (t.cause == 0x1F)
  let req : TrapReq := { t with pc := some (t.pc.getD q.pc0), crl := q.crl, tilep := ((s.hart? p i).bind (·.tileNow)).isSome }
  let tell (h : Hart) : Hart :=
    if q.again then { h with reNow := 0 }
    else
      let h1 := h.keep s.slotsNow q.pc0 q.npc q.crl
      if t.cause = 0x27 ∧ (t.info = 1 ∨ t.info = 2) then { h1 with carrel := { h1.carrel with st := .idle } } else h1
  (s1.modHart p i (fun h => (tell h).answered.tileOver)).enterTrap p i req

/-- The header of a re-issue (R385): CONV, and the slots named. -/
def againHdr (l : List Slot) : BitVec 32 := BitVec.ofNat 32 (classMask l + 256)

/-- The slots that REISSUE names, or the tile fault alone, issue again (R384, R385). -/
def State.openAgain (s : State) (p i : Nat) (h : Hart) : Opened :=
  let l : List Slot := [Cls.S, .L, .V].filterMap (fun c => if h.reNow.testBit c.num ∧ tget 0 h.kSlots c.num ≠ 0 then some (c, tget 0 h.kSlots c.num) else none)
  if !s.mayIssue p i h (againHdr l) true l then .none_
  else .go (s.openWith p i { h with opnd := h.kOpnd, octrl := h.kCtrl } l [] (againHdr l) h.kPc h.cont true h.kCrl)

/-- The stored packet of a replay (R248); at the head of a trip g[IDX] takes the trip's number. Its decode, role
and claim checks are not made again. -/
def State.openReplay (s : State) (p i : Nat) (h : Hart) : Opened :=
  let c := h.carrel
  let (pc0, k) := tget (0, {}) c.body c.pos
  let l := k.all h.held
  if !s.mayIssue p i h k.hdr false l then .none_
  else
    let h1 : Hart := if c.pos = 0 then { h with regs := writeG h.regs c.idx (BitVec.ofNat 64 c.trip) } else h
    let s1 := s.openWith p i h1.snap l (k.repeats h.held) k.hdr pc0 c.cont false true
    match s.checkIssue p i h k.hdr l with
    | some t => .trap (s1.trapAll none t)
    | none => .go s1

/-- The packet at the program counter: fetched, checked, and taken up once nothing holds it. -/
def State.openFetched (s : State) (p i : Nat) (h : Hart) : Opened :=
  match s.fetch p i h with
  | (_, .error none) => .none_
  | (s, .error (some t)) => .trap (s.stopAt p i h [] h.pc h.pc t)
  | (s, .ok k) =>
    let l := k.all h.held
    let npc := h.pc + BitVec.ofNat 80 (packetLen k.hdr)
    match s.checkPacket p i h k with
    | some t => .trap (s.stopAt p i h l h.pc npc t)
    | none => if !s.mayIssue p i h k.hdr false l then .none_ else .go (s.openWith p i h.snap l (k.repeats h.held) k.hdr h.pc npc false false)

/-- A serialising slot of the program that waits while its hart is in handler state runs again, on the program's registers (R387). -/
def State.openAside (s : State) (p i : Nat) (h : Hart) : Opened :=
  let g := h.flip
  let c : Cls := if opOf g.pend = 0x30 ∨ opOf g.pend = 0x31 then .L else .S
  let s1 := s.openWith p i g [(c, g.pend)] [] 0 g.kPc g.pc false false
  .go { s1 with issue := { s1.issue with aside := true } }

/-- A slot that waits after its packet has issued runs again alone (R353, R354). -/
def State.openPending (s : State) (p i : Nat) (h : Hart) : Opened :=
  let c : Cls := if opOf h.pend = 0x30 ∨ opOf h.pend = 0x31 then .L else .S
  .go (s.openWith p i h [(c, h.pend)] [] 0 h.kPc h.pc false false)

/-- A vector atomic or SCC between two of its elements goes on with the next (R293). -/
def State.openVector (s : State) (p i : Nat) (h : Hart) (v : VPend) : Opened :=
  let s1 := s.openWith p i h [(.L, v.word)] [] 0 h.kPc h.pc v.again h.kCrl
  .go { s1 with issue := { s1.issue with vec := true } }

/-- The next packet of a hart (R50). A stopped hart only brings to its end what it has begun (R354, R389). Where the event says so in `arg.ok`, a slot that waits beside the handler runs.
A GEXIT waits for a re-issue of its packet's instruction (R373, R387). -/
def State.openNext (s : State) (p i : Nat) : Opened :=
  match s.hart? p i with
  | none => .none_
  | some h =>
    if s.overdue p then .none_
    else match h.vpend with
    | some v => s.openVector p i h v
    | none =>
    if h.exited ∨ s.asleep h then .none_
    else if s.arg.ok ∧ h.handler ∧ h.pendAside ≠ 0 ∧ opOf h.pendAside ≠ 0x7B then (if h.stopped ∧ s.abandons p i h.flip then .none_ else s.openAside p i h)
    else if h.pend ≠ 0 ∧ (h.handler ∨ h.reNow = 0 ∨ opOf h.pend ≠ 0x7B) then (if h.stopped ∧ s.abandons p i h then .none_ else s.openPending p i h)
    else if (h.stopped ∧ !h.remoteReq) ∨ !h.owed.isEmpty ∨ (!h.stall29.isEmpty ∧ !h.handler) then .none_
    else if !h.handler ∧ (h.reNow ≠ 0 ∨ (h.tileNow.isSome ∧ !h.retry)) then s.openAgain p i h
    else if !h.handler ∧ h.carrel.st = .replaying then s.openReplay p i h
    else s.openFetched p i h

/-- PACKET_ISSUE: takes the hart's next packet up. Where a check stops it the trap is taken; where it must wait, a trap that the last packet owes
is taken if its time has come. -/
def State.issuePacket (s : State) (p i : Nat) : State :=
  match s.openNext p i with
  | .none_ => s.settle p i
  | .trap t => t
  | .go t => t
def execPacketIssue (s : State) : Out := below s.arg.core 32 (if s.arg.slot < 8 then s.issuePacket s.arg.core s.arg.slot else s)

/-! Running the slots. -/
/-- Runs the slots of a packet in order. -/
def runSlots (ex : Instr → State → Out) : List Instr → State → Out
  | [], s => .next s
  | i :: r, s =>
    match ex i s with
    | .next t => runSlots ex r t
    | .fault f => .fault f
    | .refused f => .refused f

/-- While the Carrel records, a packet is stored as it issues (R246). -/
def State.record (s : State) : State :=
  s.modCur (fun h =>
    if h.handler ∨ h.carrel.st ≠ .recording ∨ s.issue.again ∨ h.pend ≠ 0 ∨ s.issue.vec then h
    else
      let w (c : Cls) : Word := if hPres s.issue.hdr c then tget 0 s.issue.words c.num else 0
      let k : Packet := { hdr := s.issue.hdr, s := w .S, l := w .L, v := w .V, m := w .M }
      { h with carrel := { h.carrel with body := tset h.carrel.body h.carrel.pos (s.issue.pc0, k), pos := h.carrel.pos + 1 } })

/-- A Carrel fault that the M slot of the packet takes (R247), which comes before the execution checks (R380). -/
def carrelFaultOf (ex : Instr → State → Out) (s : State) : Option TrapReq :=
  match (s.slotsNow.find? (fun q => q.1 == .M && opIn q.2 0x30 0x33)).bind (fun q => (decodeSlot q.1 q.2).toOption) with
  | none => none
  | some i => match ex i s with | .next t => t.issue.raised.filter (fun x => x.cause == 0x27) | _ => none

/-- The precise checks between those of R76 and those of the slots (R380 items 2 to 4). -/
def earlyFault (ex : Instr → State → Out) (s : State) (h : Hart) : Option TrapReq :=
  let l := s.slotsNow
  if s.issue.again then none
  else match (if s.issue.crl then none else s.roleClaim h s.issue.hdr l) with
  | some t => some t
  | none =>
    if l.any (fun q => q.1 == .S && opOf q.2 == 0xE1) ∧ !h.handler then some (illegalReq 8 .S)
    else match recordFault h s.issue.hdr l with
    | some t => some t
    | none => carrelFaultOf ex s

/-- The class of a slot that reads a register too early (R56). -/
def State.regsLate (s : State) (h : Hart) : Option Nat :=
  (s.slotsNow.find? (fun q => (slotReads h.octrl q).any (s.depLate s.issue.core s.issue.slot h))).map (fun q => q.1.num)

/-! Ends of a packet. -/
/-- The packet waits: nothing of it has taken effect, but groups granted to a waiting SETVL or SETMVL are the gang's (R319); a request to another package or die has left (R104). -/
def State.waitAll (s t : State) : State :=
  let p := t.issue.core
  let i := t.issue.slot
  let s1 := ({ s with issue := {} } : State).walked t.issue.walk false
  let s2 := match t.issue.grow, s.cur with | some n, some h => s1.growKept p h n | _, _ => s1
  if t.issue.ask then s2.modHart p i (fun h => { h with remoteReq := true, reqOks := t.issue.oks }) else s2

/-- Tokens of a packet that issues (R58, R203): `lo` is the first identifier that it could give, `due` the cycle in which its register writes are complete. -/
def State.moveTokens (s : State) (p i : Nat) (hdr : BitVec 32) (lo due : Nat) : State :=
  let s1 := if hPop hdr then s.modFifo p (hTf hdr) (·.pop s.cycle) else s
  if hPush hdr then
    let r := s1.fresh
    (r.2.modFifo p (hTf hdr) (·.reserve s.cycle)).modHart p i (fun h => { h with tokens := h.tokens ++ [{ fifo := hTf hdr, lo := lo, hi := r.1, due := due }] })
  else s1

/-- The held slots after a packet (R50). -/
def heldAfter (held : Tbl Word) (hdr : BitVec 32) (words : Tbl Word) : Tbl Word :=
  Cls.all.foldl (fun t c =>
    if hPres hdr c then tset t c.num (if hHold hdr c then tget 0 words c.num else 0) else if hHold hdr c then tset t c.num 0 else t) held

/-- The hart after a packet of its own took effect; `h0` is the hart that the packet found (R53, R56, R327). -/
def Hart.issued (h h0 : Hart) (q : Issue) (l : List Slot) (cycle : Nat) : Hart :=
  let eret := h0.handler && l.any (fun x => x.1 == .S && opOf x.2 == 0xE1)
  let ws := (l.flatMap (slotWrites h0.octrl)).map (fun x => (x.1, cycle + x.2))
  let div := (l.filter isDivide).map (fun x => cycle + (if opIn x.2 0x06 0x09 then 20 else 14))
  let h1 := { h with
    ready := (h.ready ++ ws).filter (fun x => decide (cycle < x.2)), lastIssue := some cycle, minIssue := if q.branched then cycle + 3 else 0
    divUntil := (div.head?).getD h.divUntil
    gaveTurn := (decoded l).any (fun x => match x with | .yield f => h0.og f.s1.toNat == 0 | _ => false) }
  if eret then h1
  else
    let h2 := { h1 with fresh := false, modeNext := l.any modeChange }
    if q.again then { h2 with reNow := 0, tileNow := none, retry := false }
    else
      let h3 := if h0.handler then h2 else { h2 with held := heldAfter h2.held q.hdr q.words, tileNow := none, retry := false }
      if q.crl then h3 else { h3 with pc := q.npc }

/-- Post-effect traps that the packet owes (R379): the tile fault that a return left to a re-issue, or to the packet issued whole again, among them (R384). -/
def Issue.owes (q : Issue) (h0 : Hart) : List TrapReq :=
  q.post ++ (match (if h0.handler then none else h0.tileNow) with | some x => [{ cause := 0x26, info := x, ret := 2 }] | none => [])

/-- The token place of a packet whose serialising slot, or whose instruction stalled under 0x29, waits (R58, R387). Packets of the handler and re-issues reserve none. -/
def Hart.tokenWaits (h h0 : Hart) (q : Issue) : Hart :=
  if h0.handler || q.again then h
  else { h with pendTok := if (h.pend != 0 || !h.stall29.isEmpty || h.vpend.isSome) && hPush q.hdr then (h.tokens.getLast?).map (·.hi) else none }
/-- What a packet leaves for its waiting slot: the operands it issued with, its address, and where the hart goes on (R353). In handler state a trap
is a double trap, and what the program's return needs stays, also where the packet returns. -/
def Hart.waitsOn (h h0 : Hart) (l : List Slot) (q : Issue) : Hart :=
  if (h.pend == 0 && h.vpend.isNone) || h.handler || h0.handler || q.again then h else { h.keep l q.pc0 h.pc q.crl with crlNext := false }

/-- Vector loads issued before identifier `n` have been performed once the hart goes on to a packet with an S or L slot, which may order them (R177, R189, R291). -/
def Hart.performedBefore (h : Hart) (n : Nat) (l : List Slot) : Hart :=
  if l.any (fun q => q.1 == .S || q.1 == .L) then { h with vreads := h.vreads.map (fun v => if v.id < n then { v with live := false } else v) } else h

/-- A taken control transfer or trap return empties the front end of its hart (R305). -/
def State.emptyFront (s : State) (p i : Nat) (go : Bool) : State :=
  if go then s.modCore p (fun c => { c with front := c.front.filter (fun q => q.1 != i) }) else s

/-- A packet has taken effect (R379): `s` is the state in which it was taken up, `t` the one in which its slots have run. -/
def State.finish (s t : State) (h0 : Hart) : State :=
  let p := s.issue.core
  let i := s.issue.slot
  let q := t.issue
  let l := s.slotsNow
  let owes := q.owes h0
  let t1 : State := { t with issue := {} }
  let t2 := if q.again then t1 else t1.moveTokens p i q.hdr s.nextId ((l.flatMap (slotWrites h0.octrl)).foldl (fun n x => max n (s.cycle + x.2)) 0)
  let t3 := t2.modHart p i (fun h =>
    let h1 := ((h.issued h0 q l s.cycle).answered).performedBefore s.nextId l
    let h2 := if q.crl ∧ owes.isEmpty ∧ !q.again then { h1 with carrel := h1.carrel.advance, pc := h1.carrel.cont }
      else if q.again ∧ owes.isEmpty then h1.moveOn else h1
    let h2 := h2.tokenWaits h0 q
    if owes.isEmpty then h2.waitsOn h0 l q
    else
      let pc0 := q.pc0
      let h3 := if q.again then h2 else h2.keep l pc0 (if q.crl then h2.carrel.cont else q.npc) q.crl
      { h3 with pc := pc0, owed := owes.map (fun x => { x with pc := some pc0, crl := q.crl }) })
  let t4 := ((t3.emptyFront p i (q.branched || (h0.handler && l.any (fun x => x.1 == .S && opOf x.2 == 0xE1)))).modCore p (fun c => { c with issuedAt := s.cycle, issued := s.taken p ++ [(i, classMask l)] })).gangRuns h0
  t4.settle p i

/-- A waiting slot has run again, or a vector instruction has gone on: its hart goes on in the next cycle once it has retired (R353), and a gang that came back has issued (R346). Only a vector
instruction raises a trap so, after the effects of its packet (R379). -/
def State.afterPending (s t : State) (h : Hart) : State :=
  let p := s.issue.core
  let i := s.issue.slot
  let t1 := ({ t with issue := {} } : State).modHart p i (fun h =>
    let g := if h.pend = 0 ∧ h.vpend.isNone then { h with minIssue := max h.minIssue (s.cycle + 1) } else h
    let g := if !t.issue.vec then g
      else if t.issue.ask then { g with remoteReq := true, reqOks := t.issue.oks }
      else { g.answered with owed := g.owed ++ t.issue.post.map (fun x => { x with pc := some g.kPc, crl := g.kCrl }) }
    if t.issue.aside then g.flip else g)
  (if h.stopped then t1 else t1.gangRuns h).settle p i

/-- What becomes of a packet. -/
inductive Verdict where | waits (s : State) | traps (s : State) | issues (s : State) | stops (o : Out)

/-- Runs a packet and judges it, whatever the other harts of the core do: the waits first, then R56, which is order 10 of R76, then the later checks in the order of R380. -/
def judge (ex : Instr → State → Out) (s : State) (h : Hart) : Verdict :=
  match runSlots ex s.issue.slots s.record with
  | .fault f => .stops (.fault f)
  | .refused f => .stops (.refused f)
  | .next t =>
    if (h.pend ≠ 0 ∧ !s.issue.again) ∨ s.issue.vec then .issues (s.afterPending t h)
    else
      let early := earlyFault ex s h
      let late := match s.regsLate h with | some c => some c | none => t.issue.late
      let ask := t.issue.raised.isSome && t.issue.ask
      if early.isNone ∧ t.issue.wait ∧ !ask then .waits (s.waitAll t)
      else match late with
      | some c =>
        if h.octrl.wtrap ∧ !s.issue.again then .traps (s.trapAll none { cause := 3, info := 256 * c })
        else .waits { s with issue := {} }
      | none =>
        match early with
        | some x => .traps (s.trapAll none x)
        | none =>
          match t.issue.raised with
          | some x => .traps (s.trapAll t.issue.walk x)
          | none => .issues (s.finish t h)

/-! Issue selection (R347). -/
/-- A compute or solo hart with an M slot goes in the first step. -/
def firstClass (h : Hart) (q : Issue) : Bool := (h.ctrl.role == .compute || h.ctrl.role == .solo) && tget 0 q.words 3 != 0
/-- What selection looks at: the first step, the cycle of the last issue, whether that packet gave up its turn (R372), and the slot. -/
structure Rank where
  first : Bool
  last : Option Nat
  gave : Bool
  slot : Nat
def Hart.rank (h : Hart) (q : Issue) (slot : Nat) : Rank := { first := firstClass h q, last := h.lastIssue, gave := h.gaveTurn, slot := slot }
/-- Order of selection of two candidates. -/
def goesBefore (a b : Rank) : Bool :=
  if a.first != b.first then a.first
  else match a.last, b.last with
  | none, some _ => true
  | some _, none => false
  | some x, some y => if x ≠ y then decide (x < y) else if a.gave != b.gave then b.gave else decide (a.slot < b.slot)
  | none, none => decide (a.slot < b.slot)

/-- Another hart of the core has a packet that issues now and that R347 takes before the one in issue. -/
def outranked (ex : Instr → State → Out) (s : State) (h : Hart) : Bool :=
  let p := s.issue.core
  let me := h.rank s.issue s.issue.slot
  let s0 : State := { s with issue := {} }
  (List.range 8).any (fun j =>
    match s0.hart? p j with
    | none => false
    | some g =>
      if j = s.issue.slot ∨ g.pend ≠ 0 ∨ g.vpend.isSome then false
      else match s0.openNext p j with
      | .go t => goesBefore (g.rank t.issue j) me && (match (t.hart? p j).map (judge ex t) with | some (.issues _) => true | _ => false)
      | _ => false)

/-- Some hart has a packet that it takes up in this cycle, and no other of its core goes before it: the cycle does not pass without it (R347, R348). Nor does time pass the moment
of a round's tally or heartbeats (R406, R407). -/
def State.mustIssue (ex : Instr → State → Out) (s : State) : Bool :=
  s.roundDue || (List.range 32).any (fun p => (s.core p).harts.any (fun q =>
    match s.openNext p q.1 with
    | .none_ => false
    | .trap _ => true
    | .go t => match t.cur with
      | none => false
      | some h => h.pend == 0 && h.vpend.isNone && (match judge ex t h with | .issues _ => !outranked ex t h | .traps _ => true | _ => false)))

/-- Carries a packet that has been taken up to its end. -/
def carryOut (ex : Instr → State → Out) (s : State) : Out :=
  match s.cur with
  | none => .next { s with issue := {} }
  | some h =>
    match judge ex s h with
    | .stops o => o
    | .waits t | .traps t => .next t
    | .issues t => if h.pend = 0 ∧ h.vpend.isNone ∧ outranked ex s h then .next { s with issue := {} } else .next t

end Sys2Proof.Machine
end

