-- ==== Sys2Proof/Machine/Scalar.lean ====
section
/-! DEFINITION. S slots on g and a registers and control transfers (R308 to R313, R320): one meaning per instruction over shared forms. -/
namespace Sys2Proof.Machine
open Sys2Proof

/-! Integer instructions (R308). -/
/-- g[d] := op g[s1] g[s2]. -/
def intOp (f : SR) (s : State) (op : Word → Word → Word) : Out :=
  onHart s (fun h => s.wrG f.d.toNat (op (h.og f.s1.toNat) (h.og f.s2.toNat)))
/-- g[d] := op g[s1] sext41(imm). -/
def immOp (f : SI) (s : State) (op : Word → Word → Word) : Out :=
  onHart s (fun h => s.wrG f.d.toNat (op (h.og f.s1.toNat) (f.imm.signExtend 64)))

/-- High half of the signed product. -/
def mulhS (a b : Word) : Word := BitVec.ofInt 64 ((a.toInt * b.toInt).fdiv (2 ^ 64))
/-- High half of the unsigned product. -/
def mulhU (a b : Word) : Word := BitVec.ofNat 64 (a.toNat * b.toNat / 2 ^ 64)
/-- Signed quotient toward zero; a divisor of 0 gives all ones. -/
def divS (a b : Word) : Word := if b = 0 then BitVec.allOnes 64 else a.sdiv b
def divU (a b : Word) : Word := if b = 0 then BitVec.allOnes 64 else a.udiv b
/-- Signed remainder with the sign of the dividend; a divisor of 0 gives the dividend. -/
def remS (a b : Word) : Word := if b = 0 then a else a.srem b
def remU (a b : Word) : Word := if b = 0 then a else a.umod b
def shAmt (b : Word) : Nat := b.toNat % 64

def execAdd (f : SR) (s : State) : Out := intOp f s (· + ·)
def execSub (f : SR) (s : State) : Out := intOp f s (· - ·)
def execMul (f : SR) (s : State) : Out := intOp f s (· * ·)
def execMulh (f : SR) (s : State) : Out := intOp f s mulhS
def execMulhu (f : SR) (s : State) : Out := intOp f s mulhU
def execDiv (f : SR) (s : State) : Out := intOp f s divS
def execDivu (f : SR) (s : State) : Out := intOp f s divU
def execRem (f : SR) (s : State) : Out := intOp f s remS
def execRemu (f : SR) (s : State) : Out := intOp f s remU
def execAnd (f : SR) (s : State) : Out := intOp f s (· &&& ·)
def execOr (f : SR) (s : State) : Out := intOp f s (· ||| ·)
def execXor (f : SR) (s : State) : Out := intOp f s (· ^^^ ·)
def execShl (f : SR) (s : State) : Out := intOp f s (fun a b => a <<< shAmt b)
def execShr (f : SR) (s : State) : Out := intOp f s (fun a b => a >>> shAmt b)
def execSra (f : SR) (s : State) : Out := intOp f s (fun a b => a.sshiftRight (shAmt b))
def execAddi (f : SI) (s : State) : Out := immOp f s (· + ·)
def execAndi (f : SI) (s : State) : Out := immOp f s (· &&& ·)
def execOri (f : SI) (s : State) : Out := immOp f s (· ||| ·)
def execXori (f : SI) (s : State) : Out := immOp f s (· ^^^ ·)
def execShli (f : SI) (s : State) : Out := immOp f s (fun a b => a <<< shAmt b)
def execShri (f : SI) (s : State) : Out := immOp f s (fun a b => a >>> shAmt b)
def execSrai (f : SI) (s : State) : Out := immOp f s (fun a b => a.sshiftRight (shAmt b))
/-- LUI: imm * 2^23 modulo 2^64. -/
def execLui (f : SI) (s : State) : Out := immOp f s (fun _ b => b <<< 23)
def execSeq (f : SR) (s : State) : Out := intOp f s (fun a b => flag (a == b))
def execSne (f : SR) (s : State) : Out := intOp f s (fun a b => flag (a != b))
def execSlt (f : SR) (s : State) : Out := intOp f s (fun a b => flag (a.slt b))
def execSltu (f : SR) (s : State) : Out := intOp f s (fun a b => flag (a.ult b))
def execSle (f : SR) (s : State) : Out := intOp f s (fun a b => flag (a.sle b))
def execSleu (f : SR) (s : State) : Out := intOp f s (fun a b => flag (a.ule b))
def execMin (f : SR) (s : State) : Out := intOp f s (fun a b => if a.slt b then a else b)
def execMax (f : SR) (s : State) : Out := intOp f s (fun a b => if a.slt b then b else a)

/-! Address registers (R309). -/
def execAadd (f : SR) (s : State) : Out :=
  onHart s (fun h => s.wrA f.d.toNat (h.oa f.s1.toNat + (h.og f.s2.toNat).signExtend 80))
def execAaddi (f : SI) (s : State) : Out := onHart s (fun h => s.wrA f.d.toNat (h.oa f.s1.toNat + f.imm.signExtend 80))
def execAsub (f : SR) (s : State) : Out := onHart s (fun h => s.wrG f.d.toNat ((h.oa f.s1.toNat - h.oa f.s2.toNat).setWidth 64))
def execAmovg (f : SR) (s : State) : Out := onHart s (fun h => s.wrA f.d.toNat ((h.og f.s1.toNat).setWidth 80))
def execAmova (f : SR) (s : State) : Out := onHart s (fun h => s.wrG f.d.toNat ((h.oa f.s1.toNat).setWidth 64))
/-- An address with its bits [79:64] replaced. -/
def withHigh (a : VAddr) (x : BitVec 16) : VAddr := (x ++ a.setWidth 64 : BitVec 80)
def execAhi (f : SI) (s : State) : Out := onHart s (fun h => s.wrA f.d.toNat (withHigh (h.oa f.s1.toNat) (f.imm.setWidth 16)))
def execAhig (f : SR) (s : State) : Out :=
  onHart s (fun h => s.wrA f.d.toNat (withHigh (h.oa f.s1.toNat) ((h.og f.s2.toNat).setWidth 16)))

/-! Scalar FP32 (R310, R311). -/
/-- `s_round` of R310. -/
def sRound (v : Val) (rm : BitVec 3) : Word := BitVec.ofNat 64 (convert v .fp32 ((Rnd.ofCode rm.toNat).getD .rne) false 0)
def Fsr (f : SR) : Rnd := (Rnd.ofCode f.rm.toNat).getD .rne
/-- g[d] := op of the FP32 operands. -/
def fpOp (f : SR) (s : State) (op : Val → Val → Word) : Out :=
  onHart s (fun h => s.wrG f.d.toNat (op (f32of (h.og f.s1.toNat)) (f32of (h.og f.s2.toNat))))

def execFadd (f : SR) (s : State) : Out := fpOp f s (fun a b => sRound (Val.sum [a, b]) f.rm)
def execFsub (f : SR) (s : State) : Out := fpOp f s (fun a b => sRound (Val.sum [a, b.neg]) f.rm)
def execFmul (f : SR) (s : State) : Out := fpOp f s (fun a b => sRound (a.mul b) f.rm)
/-- FFMA adds the old g[d]; one rounding. -/
def execFfma (f : SR) (s : State) : Out :=
  onHart s (fun h => s.wrG f.d.toNat
    (sRound (Val.sum [(f32of (h.og f.s1.toNat)).mul (f32of (h.og f.s2.toNat)), f32of (h.og f.d.toNat)]) f.rm))
def execFdiv (f : SR) (s : State) : Out := fpOp f s (fun a b => BitVec.ofNat 64 (divRound a b .fp32 (Fsr f)))
def execFsqrt (f : SR) (s : State) : Out := fpOp f s (fun a _ => BitVec.ofNat 64 (sqrtRound a .fp32 (Fsr f)))
/-- FMIN and FMAX act on the encodings (R187). -/
def fpBits (f : SR) (s : State) (op : Nat → Nat → Nat) : Out :=
  intOp f s (fun a b => BitVec.ofNat 64 (op (a.toNat % 2 ^ 32) (b.toNat % 2 ^ 32)))
def execFmin (f : SR) (s : State) : Out := fpBits f s fmin32
def execFmax (f : SR) (s : State) : Out := fpBits f s fmax32
def execFcmpeq (f : SR) (s : State) : Out := fpOp f s (fun a b => flag (fpEq a b))
def execFcmplt (f : SR) (s : State) : Out := fpOp f s (fun a b => flag (fpLt a b))
def execFcmple (f : SR) (s : State) : Out := fpOp f s (fun a b => flag (fpLe a b))
/-- FP32 to signed 64-bit, saturating (R32, R311). -/
def fpToInt64 (v : Val) (rm : Rnd) : Word :=
  match v with
  | .nan => 0
  | .inf neg => if neg then 0x8000000000000000#64 else 0x7FFFFFFFFFFFFFFF#64
  | .fin _ _ _ => BitVec.ofInt 64 (max (-(2 ^ 63)) (min (2 ^ 63 - 1) (roundInt v rm 0)))
def execFcvtI (f : SR) (s : State) : Out := fpOp f s (fun a _ => fpToInt64 a (Fsr f))
def execFcvtF (f : SR) (s : State) : Out := intOp f s (fun a _ => sRound (Val.ofDy ⟨a.toInt, 0⟩) f.rm)
def execFclass (f : SR) (s : State) : Out := intOp f s (fun a _ => BitVec.ofNat 64 (2 ^ fpClass (a.toNat % 2 ^ 32)))

/-! Control transfers (R312). -/
/-- The next packet of the hart is the one at an address. -/
def State.jump (s : State) (t : VAddr) : State := { s with issue := { s.issue with npc := t, branched := true } }
/-- PC + 4·sext41(off). -/
def State.target (s : State) (off : BitVec 41) : VAddr := s.issue.pc0 + (off.signExtend 80 <<< 2)
/-- A compare branch. -/
def branchIf (f : SB) (s : State) (c : Word → Word → Bool) : Out :=
  onHart s (fun h => if c (h.og f.s1.toNat) (h.og f.s2.toNat) then s.jump (s.target f.off) else s)

def execBeq (f : SB) (s : State) : Out := branchIf f s (· == ·)
def execBne (f : SB) (s : State) : Out := branchIf f s (· != ·)
def execBlt (f : SB) (s : State) : Out := branchIf f s (fun a b => a.slt b)
def execBltu (f : SB) (s : State) : Out := branchIf f s (fun a b => a.ult b)
def execBge (f : SB) (s : State) : Out := branchIf f s (fun a b => !a.slt b)
def execBgeu (f : SB) (s : State) : Out := branchIf f s (fun a b => !a.ult b)
def execBz (f : SB) (s : State) : Out := branchIf f s (fun a _ => a == 0)
def execBnz (f : SB) (s : State) : Out := branchIf f s (fun a _ => a != 0)
def execJmp (f : SB) (s : State) : Out := onHart s (fun _ => s.jump (s.target f.off))
/-- JAL writes the address after the packet into the link register. -/
def execJal (f : SB) (s : State) : Out := onHart s (fun _ => (s.wrA f.d.toNat s.issue.npc).jump (s.target f.off))
def execJr (f : SB) (s : State) : Out := onHart s (fun h => s.jump (h.oa f.s1.toNat + (f.off.signExtend 80 <<< 2)))
def execRet (f : SB) (s : State) : Out := onHart s (fun h => s.jump (h.oa f.s1.toNat))

/-- NOP has no effect (R320). -/
def execNop (_f : SR) (s : State) : Out := onHart s (fun _ => s)

end Sys2Proof.Machine
end

