-- ==== Sys2Proof/Machine/Dispatch.lean ====
section
/-! DEFINITION. The meaning of every row of the opcode table. -/
namespace Sys2Proof.Machine
open Sys2Proof

/-- One arm per constructor of `Instr`, each a direct call of its meaning. -/
def exec (i : Instr) (s : State) : Host.Outcome State Fault Refusal :=
  match i with
  | .add f => Sys2Proof.Machine.execAdd f s
  | .sub f => Sys2Proof.Machine.execSub f s
  | .mul f => Sys2Proof.Machine.execMul f s
  | .mulh f => Sys2Proof.Machine.execMulh f s
  | .mulhu f => Sys2Proof.Machine.execMulhu f s
  | .div f => Sys2Proof.Machine.execDiv f s
  | .divu f => Sys2Proof.Machine.execDivu f s
  | .rem f => Sys2Proof.Machine.execRem f s
  | .remu f => Sys2Proof.Machine.execRemu f s
  | .and f => Sys2Proof.Machine.execAnd f s
  | .or f => Sys2Proof.Machine.execOr f s
  | .xor f => Sys2Proof.Machine.execXor f s
  | .shl f => Sys2Proof.Machine.execShl f s
  | .shr f => Sys2Proof.Machine.execShr f s
  | .sra f => Sys2Proof.Machine.execSra f s
  | .addi f => Sys2Proof.Machine.execAddi f s
  | .andi f => Sys2Proof.Machine.execAndi f s
  | .ori f => Sys2Proof.Machine.execOri f s
  | .xori f => Sys2Proof.Machine.execXori f s
  | .shli f => Sys2Proof.Machine.execShli f s
  | .shri f => Sys2Proof.Machine.execShri f s
  | .srai f => Sys2Proof.Machine.execSrai f s
  | .lui f => Sys2Proof.Machine.execLui f s
  | .seq f => Sys2Proof.Machine.execSeq f s
  | .sne f => Sys2Proof.Machine.execSne f s
  | .slt f => Sys2Proof.Machine.execSlt f s
  | .sltu f => Sys2Proof.Machine.execSltu f s
  | .sle f => Sys2Proof.Machine.execSle f s
  | .sleu f => Sys2Proof.Machine.execSleu f s
  | .min f => Sys2Proof.Machine.execMin f s
  | .max f => Sys2Proof.Machine.execMax f s
  | .aadd f => Sys2Proof.Machine.execAadd f s
  | .aaddi f => Sys2Proof.Machine.execAaddi f s
  | .asub f => Sys2Proof.Machine.execAsub f s
  | .amovg f => Sys2Proof.Machine.execAmovg f s
  | .amova f => Sys2Proof.Machine.execAmova f s
  | .ahi f => Sys2Proof.Machine.execAhi f s
  | .ahig f => Sys2Proof.Machine.execAhig f s
  | .fadd f => Sys2Proof.Machine.execFadd f s
  | .fsub f => Sys2Proof.Machine.execFsub f s
  | .fmul f => Sys2Proof.Machine.execFmul f s
  | .ffma f => Sys2Proof.Machine.execFfma f s
  | .fdiv f => Sys2Proof.Machine.execFdiv f s
  | .fsqrt f => Sys2Proof.Machine.execFsqrt f s
  | .fmin f => Sys2Proof.Machine.execFmin f s
  | .fmax f => Sys2Proof.Machine.execFmax f s
  | .fcmpeq f => Sys2Proof.Machine.execFcmpeq f s
  | .fcmplt f => Sys2Proof.Machine.execFcmplt f s
  | .fcmple f => Sys2Proof.Machine.execFcmple f s
  | .fcvtI f => Sys2Proof.Machine.execFcvtI f s
  | .fcvtF f => Sys2Proof.Machine.execFcvtF f s
  | .fclass f => Sys2Proof.Machine.execFclass f s
  | .beq f => Sys2Proof.Machine.execBeq f s
  | .bne f => Sys2Proof.Machine.execBne f s
  | .blt f => Sys2Proof.Machine.execBlt f s
  | .bltu f => Sys2Proof.Machine.execBltu f s
  | .bge f => Sys2Proof.Machine.execBge f s
  | .bgeu f => Sys2Proof.Machine.execBgeu f s
  | .bz f => Sys2Proof.Machine.execBz f s
  | .bnz f => Sys2Proof.Machine.execBnz f s
  | .jmp f => Sys2Proof.Machine.execJmp f s
  | .jal f => Sys2Proof.Machine.execJal f s
  | .jr f => Sys2Proof.Machine.execJr f s
  | .ret f => Sys2Proof.Machine.execRet f s
  | .movs f => Sys2Proof.Machine.execMovs f s
  | .movd f => Sys2Proof.Machine.execMovd f s
  | .setvl f => Sys2Proof.Machine.execSetvl f s
  | .setmvl f => Sys2Proof.Machine.execSetmvl f s
  | .semts f => Sys2Proof.Machine.execSemts f s
  | .semtsTry f => Sys2Proof.Machine.execSemtsTry f s
  | .semclr f => Sys2Proof.Machine.execSemclr f s
  | .cmrd f => Sys2Proof.Machine.execCmrd f s
  | .cmwr f => Sys2Proof.Machine.execCmwr f s
  | .barwait f => Sys2Proof.Machine.execBarwait f s
  | .barwaitSet f => Sys2Proof.Machine.execBarwaitSet f s
  | .launch f => Sys2Proof.Machine.execLaunch f s
  | .signal f => Sys2Proof.Machine.execSignal f s
  | .cancel f => Sys2Proof.Machine.execCancel f s
  | .nwait f => Sys2Proof.Machine.execNwait f s
  | .npost f => Sys2Proof.Machine.execNpost f s
  | .yield f => Sys2Proof.Machine.execYield f s
  | .yieldGang f => Sys2Proof.Machine.execYieldGang f s
  | .gexit f => Sys2Proof.Machine.execGexit f s
  | .pbcrd f => Sys2Proof.Machine.execPbcrd f s
  | .trap f => Sys2Proof.Machine.execTrap f s
  | .eret f => Sys2Proof.Machine.execEret f s
  | .stest f => Sys2Proof.Machine.execStest f s
  | .nop f => Sys2Proof.Machine.execNop f s
  | .frqpop f => Sys2Proof.Machine.execFrqpop f s
  | .ldB f => Sys2Proof.Machine.execLdB f s
  | .ldH f => Sys2Proof.Machine.execLdH f s
  | .ldW f => Sys2Proof.Machine.execLdW f s
  | .ldD f => Sys2Proof.Machine.execLdD f s
  | .lduB f => Sys2Proof.Machine.execLduB f s
  | .lduH f => Sys2Proof.Machine.execLduH f s
  | .lduW f => Sys2Proof.Machine.execLduW f s
  | .stB f => Sys2Proof.Machine.execStB f s
  | .stH f => Sys2Proof.Machine.execStH f s
  | .stW f => Sys2Proof.Machine.execStW f s
  | .stD f => Sys2Proof.Machine.execStD f s
  | .lda f => Sys2Proof.Machine.execLda f s
  | .sta f => Sys2Proof.Machine.execSta f s
  | .vld f => Sys2Proof.Machine.execVld f s
  | .vlds f => Sys2Proof.Machine.execVlds f s
  | .vldseg f => Sys2Proof.Machine.execVldseg f s
  | .vldx f => Sys2Proof.Machine.execVldx f s
  | .vldc f => Sys2Proof.Machine.execVldc f s
  | .vpf f => Sys2Proof.Machine.execVpf f s
  | .vst f => Sys2Proof.Machine.execVst f s
  | .vsts f => Sys2Proof.Machine.execVsts f s
  | .vstseg f => Sys2Proof.Machine.execVstseg f s
  | .vstx f => Sys2Proof.Machine.execVstx f s
  | .drv f => Sys2Proof.Machine.execDrv f s
  | .amoadd f => Sys2Proof.Machine.execAmoadd f s
  | .amomin f => Sys2Proof.Machine.execAmomin f s
  | .amomax f => Sys2Proof.Machine.execAmomax f s
  | .amoand f => Sys2Proof.Machine.execAmoand f s
  | .amoor f => Sys2Proof.Machine.execAmoor f s
  | .amoxor f => Sys2Proof.Machine.execAmoxor f s
  | .amoswp f => Sys2Proof.Machine.execAmoswp f s
  | .amocas f => Sys2Proof.Machine.execAmocas f s
  | .vamoadd f => Sys2Proof.Machine.execVamoadd f s
  | .vamomin f => Sys2Proof.Machine.execVamomin f s
  | .vamomax f => Sys2Proof.Machine.execVamomax f s
  | .vamoswp f => Sys2Proof.Machine.execVamoswp f s
  | .gll f => Sys2Proof.Machine.execGll f s
  | .scc f => Sys2Proof.Machine.execScc f s
  | .fence f => Sys2Proof.Machine.execFence f s
  | .bararr f => Sys2Proof.Machine.execBararr f s
  | .cpy f => Sys2Proof.Machine.execCpy f s
  | .cpyx f => Sys2Proof.Machine.execCpyx f s
  | .cpym f => Sys2Proof.Machine.execCpym f s
  | .cpyb f => Sys2Proof.Machine.execCpyb f s
  | .cpst f => Sys2Proof.Machine.execCpst f s
  | .cpstWait f => Sys2Proof.Machine.execCpstWait f s
  | .catq f => Sys2Proof.Machine.execCatq f s
  | .catu f => Sys2Proof.Machine.execCatu f s
  | .folmap f => Sys2Proof.Machine.execFolmap f s
  | .folmapU f => Sys2Proof.Machine.execFolmapU f s
  | .folref f => Sys2Proof.Machine.execFolref f s
  | .foldrop f => Sys2Proof.Machine.execFoldrop f s
  | .vadd f => Sys2Proof.Machine.execVadd f s
  | .vsub f => Sys2Proof.Machine.execVsub f s
  | .vmul f => Sys2Proof.Machine.execVmul f s
  | .vfma f => Sys2Proof.Machine.execVfma f s
  | .vfms f => Sys2Proof.Machine.execVfms f s
  | .vfnma f => Sys2Proof.Machine.execVfnma f s
  | .vmin f => Sys2Proof.Machine.execVmin f s
  | .vmax f => Sys2Proof.Machine.execVmax f s
  | .vabs f => Sys2Proof.Machine.execVabs f s
  | .vneg f => Sys2Proof.Machine.execVneg f s
  | .vand f => Sys2Proof.Machine.execVand f s
  | .vor f => Sys2Proof.Machine.execVor f s
  | .vxor f => Sys2Proof.Machine.execVxor f s
  | .vshl f => Sys2Proof.Machine.execVshl f s
  | .vshr f => Sys2Proof.Machine.execVshr f s
  | .vsra f => Sys2Proof.Machine.execVsra f s
  | .vrcpe f => Sys2Proof.Machine.execVrcpe f s
  | .vrsqe f => Sys2Proof.Machine.execVrsqe f s
  | .vgetexp f => Sys2Proof.Machine.execVgetexp f s
  | .vscaleb f => Sys2Proof.Machine.execVscaleb f s
  | .vrint f => Sys2Proof.Machine.execVrint f s
  | .vcmpeq f => Sys2Proof.Machine.execVcmpeq f s
  | .vcmpne f => Sys2Proof.Machine.execVcmpne f s
  | .vcmplt f => Sys2Proof.Machine.execVcmplt f s
  | .vcmple f => Sys2Proof.Machine.execVcmple f s
  | .vcmpltu f => Sys2Proof.Machine.execVcmpltu f s
  | .vcmpleu f => Sys2Proof.Machine.execVcmpleu f s
  | .kand f => Sys2Proof.Machine.execKand f s
  | .kor f => Sys2Proof.Machine.execKor f s
  | .kxor f => Sys2Proof.Machine.execKxor f s
  | .knot f => Sys2Proof.Machine.execKnot f s
  | .kmov f => Sys2Proof.Machine.execKmov f s
  | .kpop f => Sys2Proof.Machine.execKpop f s
  | .kpois f => Sys2Proof.Machine.execKpois f s
  | .kfirst f => Sys2Proof.Machine.execKfirst f s
  | .vsel f => Sys2Proof.Machine.execVsel f s
  | .vbcast f => Sys2Proof.Machine.execVbcast f s
  | .vmov f => Sys2Proof.Machine.execVmov f s
  | .vzero f => Sys2Proof.Machine.execVzero f s
  | .vperm f => Sys2Proof.Machine.execVperm f s
  | .vrot f => Sys2Proof.Machine.execVrot f s
  | .gxpose f => Sys2Proof.Machine.execGxpose f s
  | .vtag f => Sys2Proof.Machine.execVtag f s
  | .vcompress f => Sys2Proof.Machine.execVcompress f s
  | .vexpand f => Sys2Proof.Machine.execVexpand f s
  | .vrsum f => Sys2Proof.Machine.execVrsum f s
  | .vrmax f => Sys2Proof.Machine.execVrmax f s
  | .vrmin f => Sys2Proof.Machine.execVrmin f s
  | .vramax f => Sys2Proof.Machine.execVramax f s
  | .vrbx f => Sys2Proof.Machine.execVrbx f s
  | .vrexp f => Sys2Proof.Machine.execVrexp f s
  | .cvtN f => Sys2Proof.Machine.execCvtN f s
  | .cvtW f => Sys2Proof.Machine.execCvtW f s
  | .cvtF4 f => Sys2Proof.Machine.execCvtF4 f s
  | .cvtI f => Sys2Proof.Machine.execCvtI f s
  | .cvtF f => Sys2Proof.Machine.execCvtF f s
  | .vquant f => Sys2Proof.Machine.execVquant f s
  | .setsc f => Sys2Proof.Machine.execSetsc f s
  | .bxadd f => Sys2Proof.Machine.execBxadd f s
  | .bxacc f => Sys2Proof.Machine.execBxacc f s
  | .bxanch f => Sys2Proof.Machine.execBxanch f s
  | .bxanchI f => Sys2Proof.Machine.execBxanchI f s
  | .bxcvt f => Sys2Proof.Machine.execBxcvt f s
  | .mop f => Sys2Proof.Machine.execMop f s
  | .mopS f => Sys2Proof.Machine.execMopS f s
  | .mopZ f => Sys2Proof.Machine.execMopZ f s
  | .mopZs f => Sys2Proof.Machine.execMopZs f s
  | .ckclr f => Sys2Proof.Machine.execCkclr f s
  | .ckchk f => Sys2Proof.Machine.execCkchk f s
  | .ckloc f => Sys2Proof.Machine.execCkloc f s
  | .ckfix f => Sys2Proof.Machine.execCkfix f s
  | .ckrdRow f => Sys2Proof.Machine.execCkrdRow f s
  | .ckrdCol f => Sys2Proof.Machine.execCkrdCol f s
  | .ckrdSt f => Sys2Proof.Machine.execCkrdSt f s
  | .ckinj f => Sys2Proof.Machine.execCkinj f s
  | .ckinjP f => Sys2Proof.Machine.execCkinjP f s
  | .capb f => Sys2Proof.Machine.execCapb f s
  | .cape f => Sys2Proof.Machine.execCape f s
  | .capr f => Sys2Proof.Machine.execCapr f s
  | .capx f => Sys2Proof.Machine.execCapx f s
  | .capxSaved f => Sys2Proof.Machine.execCapxSaved f s
  | .capxFirst f => Sys2Proof.Machine.execCapxFirst f s
  | .packetIssue => Sys2Proof.Machine.execPacketIssue s
  | .packetRetire => Sys2Proof.Machine.execPacketRetire s
  | .vWriteback => Sys2Proof.Machine.execVWriteback s
  | .updateWriteback => Sys2Proof.Machine.execUpdateWriteback s
  | .vectorAccessComplete => Sys2Proof.Machine.execVectorAccessComplete s
  | .scalarAccessComplete => Sys2Proof.Machine.execScalarAccessComplete s
  | .translationWalk => Sys2Proof.Machine.execTranslationWalk s
  | .writeHomeMoment => Sys2Proof.Machine.execWriteHomeMoment s
  | .writeDomainMoment => Sys2Proof.Machine.execWriteDomainMoment s
  | .writeSystemMoment => Sys2Proof.Machine.execWriteSystemMoment s
  | .copyCommandStart => Sys2Proof.Machine.execCopyCommandStart s
  | .copyChunkVisible => Sys2Proof.Machine.execCopyChunkVisible s
  | .barrierCredit => Sys2Proof.Machine.execBarrierCredit s
  | .copyCommandComplete => Sys2Proof.Machine.execCopyCommandComplete s
  | .catalogueCommandComplete => Sys2Proof.Machine.execCatalogueCommandComplete s
  | .xltInv => Sys2Proof.Machine.execXltInv s
  | .invalidationDone => Sys2Proof.Machine.execInvalidationDone s
  | .memIlvWrite => Sys2Proof.Machine.execMemIlvWrite s
  | .dieBootGo => Sys2Proof.Machine.execDieBootGo s
  | .xltCtxbaseWrite => Sys2Proof.Machine.execXltCtxbaseWrite s
  | .schedCtlWrite => Sys2Proof.Machine.execSchedCtlWrite s
  | .saveStallClear => Sys2Proof.Machine.execSaveStallClear s
  | .lmapWrite => Sys2Proof.Machine.execLmapWrite s
  | .latWrite => Sys2Proof.Machine.execLatWrite s
  | .pgseedWrite => Sys2Proof.Machine.execPgseedWrite s
  | .protectedModeEnable => Sys2Proof.Machine.execProtectedModeEnable s
  | .registerWrite => Sys2Proof.Machine.execRegisterWrite s
  | .gangPlace => Sys2Proof.Machine.execGangPlace s
  | .gangResume => Sys2Proof.Machine.execGangResume s
  | .reclaimMark => Sys2Proof.Machine.execReclaimMark s
  | .reclaimTimeout => Sys2Proof.Machine.execReclaimTimeout s
  | .saveUnit => Sys2Proof.Machine.execSaveUnit s
  | .groupRelease => Sys2Proof.Machine.execGroupRelease s
  | .groupPowerGate => Sys2Proof.Machine.execGroupPowerGate s
  | .gangEnd => Sys2Proof.Machine.execGangEnd s
  | .notifyEvaluate => Sys2Proof.Machine.execNotifyEvaluate s
  | .notifyPoll => Sys2Proof.Machine.execNotifyPoll s
  | .yieldWake => Sys2Proof.Machine.execYieldWake s
  | .stestDone => Sys2Proof.Machine.execStestDone s
  | .stestAbort => Sys2Proof.Machine.execStestAbort s
  | .laneShadowRotate => Sys2Proof.Machine.execLaneShadowRotate s
  | .retrainDone => Sys2Proof.Machine.execRetrainDone s
  | .flitCrcError => Sys2Proof.Machine.execFlitCrcError s
  | .linkDown => Sys2Proof.Machine.execLinkDown s
  | .roundStart => Sys2Proof.Machine.execRoundStart s
  | .heartbeatReceive => Sys2Proof.Machine.execHeartbeatReceive s
  | .roundEnd => Sys2Proof.Machine.execRoundEnd s
  | .orphanCompletion => Sys2Proof.Machine.execOrphanCompletion s
  | .fencedSelftestDone => Sys2Proof.Machine.execFencedSelftestDone s
  | .rdmaWrite => Sys2Proof.Machine.execRdmaWrite s
  | .rdmaRead => Sys2Proof.Machine.execRdmaRead s
  | .atomicCompareAndSwap => Sys2Proof.Machine.execAtomicCompareAndSwap s
  | .atomicFetchAndAdd => Sys2Proof.Machine.execAtomicFetchAndAdd s
  | .invalidRequest => Sys2Proof.Machine.execInvalidRequest s
  | .priorityFlowControl => Sys2Proof.Machine.execPriorityFlowControl s
  | .congestionNotification => Sys2Proof.Machine.execCongestionNotification s
  | .ptpMessage => Sys2Proof.Machine.execPtpMessage s
  | .getVersion => Sys2Proof.Machine.execGetVersion s
  | .getCapabilities => Sys2Proof.Machine.execGetCapabilities s
  | .negotiateAlgorithms => Sys2Proof.Machine.execNegotiateAlgorithms s
  | .getDigests => Sys2Proof.Machine.execGetDigests s
  | .getCertificate => Sys2Proof.Machine.execGetCertificate s
  | .challenge => Sys2Proof.Machine.execChallenge s
  | .getMeasurements => Sys2Proof.Machine.execGetMeasurements s
  | .pldmPlatformMonitoring => Sys2Proof.Machine.execPldmPlatformMonitoring s
  | .pldmFirmwareUpdate => Sys2Proof.Machine.execPldmFirmwareUpdate s
  | .endpointIdentifierAssign => Sys2Proof.Machine.execEndpointIdentifierAssign s
  | .eepromRead => Sys2Proof.Machine.execEepromRead s
  | .eepromWrite => Sys2Proof.Machine.execEepromWrite s
  | .reset => Sys2Proof.Machine.execReset s
  | .evacGo => Sys2Proof.Machine.execEvacGo s
  | .evacAbort => Sys2Proof.Machine.execEvacAbort s
  | .evacSaveDone => Sys2Proof.Machine.execEvacSaveDone s
  | .evacOffer => Sys2Proof.Machine.execEvacOffer s
  | .evacOfferAnswer => Sys2Proof.Machine.execEvacOfferAnswer s
  | .evacOfferTimeout => Sys2Proof.Machine.execEvacOfferTimeout s
  | .evacCopyDone => Sys2Proof.Machine.execEvacCopyDone s
  | .evacDrainDone => Sys2Proof.Machine.execEvacDrainDone s
  | .evacTimeout => Sys2Proof.Machine.execEvacTimeout s
  | .evacArm => Sys2Proof.Machine.execEvacArm s
  | .evacDisarm => Sys2Proof.Machine.execEvacDisarm s
  | .evacAdopt => Sys2Proof.Machine.execEvacAdopt s
  | .evacClaim => Sys2Proof.Machine.execEvacClaim s
  | .evacClaimAnswer => Sys2Proof.Machine.execEvacClaimAnswer s
  | .evacClaimTimeout => Sys2Proof.Machine.execEvacClaimTimeout s
  | .thermalThrottle => Sys2Proof.Machine.execThermalThrottle s
  | .pepperGeneratorStep => Sys2Proof.Machine.execPepperGeneratorStep s
  | .evacFreezeDone => Sys2Proof.Machine.execEvacFreezeDone s
  | .firmwareRetrain => Sys2Proof.Machine.execFirmwareRetrain s
  | .bladePull => Sys2Proof.Machine.execBladePull s
  | .queuePairConnect => Sys2Proof.Machine.execQueuePairConnect s
  | .managementControllerAccess => Sys2Proof.Machine.execManagementControllerAccess s

end Sys2Proof.Machine
end

