-- ==== Sys2Proof/Machine/Rounds.lean ====
section
/-! DEFINITION. Which agent moves next: the round of events that an empty agenda is filled with, one core cycle of the package left to itself (log 3),
and the load of a packet where a hart fetches next. -/
namespace Sys2Proof.Machine
open Sys2Proof

/-- Events of one core: writes that are due, accesses, modes and sleepers, issue by slot (twice, for the second packet of R60), retirement. -/
def State.coreRound (s : State) (p : Nat) : List (Arg × Instr) :=
  let c := s.core p
  let at_ (i : Nat) : Arg := { core := p, slot := i }
  let harts := c.harts.filter (fun q => q.2.isSome)
  c.flight.map (fun f => ({ core := p, id := f.id }, if f.isUpdate then .updateWriteback else .vWriteback))
    ++ harts.flatMap (fun q => ((q.2.map (·.accs)).getD []).map (fun a => ({ core := p, id := a }, .vectorAccessComplete)))
    ++ harts.flatMap (fun q => ((q.2.map (·.tokens)).getD []).map (fun _ => (at_ q.1, .packetRetire)) ++ [(at_ q.1, .protectedModeEnable), (at_ q.1, .yieldWake)])
    ++ (harts.filter (fun q => q.2.any (fun h => h.pendAside != 0))).map (fun q => ({ at_ q.1 with ok := true }, .packetIssue))
    ++ harts.map (fun q => (at_ q.1, .packetIssue)) ++ harts.map (fun q => (at_ q.1, .packetIssue))

/-- Events of one die: engines, records, saves, invalidations. -/
def State.dieRound (s : State) (d : Nat) : List (Arg × Instr) :=
  let x := s.die d
  let at_ (i : Nat) : Arg := { die := d, idx := i }
  let busy := x.eng.filter (fun q => !q.2.cmds.isEmpty)
  busy.flatMap (fun q =>
      let a : Arg := { die := d, eng := q.1 / 8, queue := q.1 % 8 }
      [(a, .copyCommandStart), (a, .copyChunkVisible), (a, .barrierCredit), (a, .copyCommandComplete)])
    ++ (x.recs.filter (fun q => q.2.st != 0)).flatMap (fun q =>
      [({ die := d, slot := q.2.desc.nslot, queue := q.2.desc.nword }, .notifyPoll), (at_ q.1, .gangEnd), (at_ q.1, .groupRelease),
       (at_ q.1, .saveUnit), (at_ q.1, .gangResume), (at_ q.1, .gangPlace), (at_ q.1, .reclaimTimeout)])
    ++ [(at_ 0, .reclaimMark)] ++ (if x.inv.isSome then [({ blk := d }, .invalidationDone)] else [])

/-- The witness round: the end of one round, the start of the next, and what the flood of its heartbeats brings to each die and the hub (R406, R407, R410). -/
def State.witnessRound (s : State) : List (Arg × Instr) :=
  let n := s.time / 8000
  (if s.hub.roundOpen && decide (s.hub.round < n) then [(({ idx := 0 } : Arg), Instr.roundEnd)] else [])
    ++ (if s.hub.roundNext ≤ n then
          (({ idx := 0 } : Arg), Instr.roundStart) :: (List.range 16).flatMap (fun d => ((List.range 17).filter (· != d)).map (fun w => ({ die := w, idx := d, flag := true }, .heartbeatReceive)))
        else [])

/-- The moment that a write reaches next (R292). -/
def PW.moment (w : PW) : Arg × Instr :=
  ({ id := w.id }, match w.phase with | 0 => .writeHomeMoment | 1 => .writeDomainMoment | _ => .writeSystemMoment)

/-- One round: every agent of the package that has something to do, the witnesses among them, then one core cycle. -/
def State.round (s : State) : List (Arg × Instr) :=
  (s.cores.filter (fun q => decide (q.1 < 32))).flatMap (fun q => s.coreRound q.1)
    ++ s.pw.map PW.moment ++ (List.range 4).map (fun u => ({ idx := u }, .catalogueCommandComplete))
    ++ (s.dies.filter (fun q => decide (q.1 < 16))).flatMap (fun q => s.dieRound q.1)
    ++ (if s.hub.inv.isSome then [({ blk := 16 }, .invalidationDone)] else []) ++ (if s.orphans.isEmpty then [] else [(({ idx := 0 } : Arg), Instr.orphanCompletion)])
    ++ s.witnessRound ++ [(({ idx := 0 } : Arg), Instr.pepperGeneratorStep)]

/-- The event with which a cycle of the cores ends. -/
def isTick (i : Instr) : Bool := match i with | .pepperGeneratorStep => true | _ => false

/-- The longest packet (R47). -/
def longestPacket : Nat := 36

/-- Stores the bytes of a packet where hart 0 of core 0 fetches next and lets it issue. A package with no hart there starts its boot hart at address 0,
as a write of DIE.BOOT does (R101). -/
def State.loadPacket (s : State) (w : Nat) : State :=
  let s1 : State := match s.hart? 0 0 with | some _ => s | none => s.writeBoot 0 1#64
  match s1.hart? 0 0 with
  | none => s1
  | some h =>
    match (s1.xlateSpan (s1.who 0 h) h.pc longestPacket .fetch false).2 with
    | .error _ => s1
    | .ok l =>
      { s1 with
        mem := memSetMany s1.mem ((l.zip (leBytes longestPacket w)).filterMap (fun (o, b) => match o.loc with | .mem k => some (k, b) | _ => none))
        agenda := [({}, .packetIssue)] }

end Sys2Proof.Machine
end

