-- ==== Sys2Proof/Machine/Step.lean ====
section
/-! DEFINITION. One step of the package: the next event of the agenda, and where it takes a packet up, the packet's slots with it. -/
namespace Sys2Proof.Machine
open Sys2Proof

/-- One step (log 3). The agenda says which agent moves next; an empty one is filled with a round of the package left to itself. A slot instruction is
no event of its own: it runs as part of a packet; and a core cycle does not end while a packet that R347 selects has yet to issue (R348). -/
def step (s : State) : Host.Outcome State Fault Refusal :=
  match s.agenda with
  | [] => .next { s with agenda := s.round }
  | (a, i) :: r =>
    let s1 : State := { s with arg := a, agenda := r }
    if i.cls.isSome || (isTick i && s1.mustIssue exec) then .next s1
    else match exec i s1 with
    | .next t => if t.issue.active then carryOut exec t else .next t
    | .fault f => .fault f
    | .refused f => .refused f

/-- The state in which `step` fetches and runs the packet whose bits are `w`, header first (log 6). -/
def State.withFetchWord (s : State) (_nbits w : Nat) : State := s.loadPacket w

end Sys2Proof.Machine
end

