-- ==== Sys2Proof/Safety.lean ====
section
/-! DEFINITION. What the statements about the machine are said in: the canonical form of memory, a step that goes on, and when a slot has nothing to wait for. -/
namespace Sys2Proof

/-- A memory is in its one canonical form: rising addresses, no entry equal to what an unlisted byte reads as. -/
def Memory.wf (m : List Host.Cell) : Bool := memWf 0 m

namespace Machine

/-- The memory of a state is canonical. -/
def State.memOk (s : State) : Prop := Memory.wf s.mem = true

/-- A step goes on with a next state: no fault and no refusal. -/
def State.goesOn (s : State) : Prop := ∃ t, step s = .next t

/-- A scalar access of a hart with no answer outstanding is translated, byte by byte, to places that answer it at once (R102, R104): of this package, of its own die where the answers of
other dies are on their way, and no device while an earlier device access of the hart is not visible yet (R97); `s1` is the state after its table walks. -/
def State.lands (s : State) (h : Hart) (va : VAddr) (n : Nat) (acc : Acc) (s1 : State) (l : List XOk) : Prop :=
  h.remoteAns = none ∧ ({ s with issue := { s.issue with walk := some (s.who s.issue.core h, va, n, acc) } } : State).xlateSpan (s.who s.issue.core h) va n acc
    (n == 8 && va.toNat % 8 == 0 && acc != .atomic) = (s1, .ok l) ∧ firstRemote l = none ∧ l.any (·.asks s1.issue.far (s1.issue.core / 2)) = false
  ∧ s1.deviceWaits h l = false

/-! V slots that nothing holds (R213, R221 to R225, R255). -/
/-- A V slot has nothing to wait for: the engine is free, every source queue has a visible head, no other hart's setting stands on
its rows and no earlier slot of its own is still writing one that it reads, and a drain queue among its destinations has room. -/
def State.vFree (s : State) (h : Hart) (srcs : List View) (dst : Option View) (reads writes groups : List Nat) : Prop :=
  let x := s.vIn h srcs
  let p := s.issue.core
  x.c.vUntil ≤ s.cycle ∧ (∀ q ∈ queuesOf srcs, ((s.queue p q).heads s.cycle 1).isSome = true)
  ∧ s.rowsLate p s.issue.slot h Flight.writes reads groups = false ∧ s.rowsBusy p s.issue.slot (reads ++ rowsOf dst x.len writes) groups = false
  ∧ (∀ n, dst = some (.dq n) → x.len ≠ 0 → x.len ≤ s.queueCells h (8 + n) ∧ (s.queue p (8 + n)).room s.cycle ≠ 0)

/-- The cells written, or the bits of them that stay, in protected mode with their mirrors (R223). -/
def VCtx.mirrored {α : Type} (x : VCtx) (l : List (Nat × Nat × α)) : List (Nat × Nat × α) :=
  l ++ if x.mir = 0 then [] else l.map (fun q => (q.1, q.2.1 + x.mir, q.2.2))

/-- The state once a V slot is taken up: source heads dequeued, the engine held for `hold` cycles, and what it writes in flight until its write cycle, `lat` cycles
from issue (R222, R255). -/
def State.vTaken (s : State) (srcs : List View) (lat hold : Nat) (rows groups : List Nat) (deps : List Dep) (e : VEff) : State :=
  { (s.popAll s.issue.core (queuesOf srcs)).modCore s.issue.core (·.takeV s.cycle hold
      { id := s.nextId, slot := s.issue.slot, due := s.cycle + lat - 1, rows := rows, groups := groups, deps := deps, eff := .v e }) with nextId := s.nextId + 1 }

/-- The same for a slot that writes the cells `puts` of its destination view: into the grid, or as one entry of a drain queue (R200, R255). -/
def State.vWrites (s : State) (x : VCtx) (t : Tag) (srcs : List View) (dst : View) (lat hold : Nat) (writes groups : List Nat) (puts : List (Nat × Nat × Cell × Bool)) : State :=
  match dst with
  | .dq n =>
    if x.len = 0 then s.vTaken srcs lat hold [] groups [] { gs := x.gs }
    else
      let e : Entry := { id := s.nextId, st := .reserved, fmt := t.fmt, cnt := if t = .bx then x.len / 8 else x.len * t.n
                         cells := tsetMany [] (puts.map (fun q => (q.2.1, q.2.2.1)))
                         pois := BitVec.ofNat 256 (maskOf 256 (fun j => puts.any (fun q => q.2.1 == j && q.2.2.2))) }
      let s1 := s.popAll s.issue.core (queuesOf srcs)
      let s2 := s1.setQueue s.issue.core (8 + n) ((s1.queue s.issue.core (8 + n)).push s.cycle [e])
      { s2.modCore s.issue.core (·.takeV s.cycle hold
          { id := s.nextId, slot := s.issue.slot, due := s.cycle + lat - 1, groups := groups, eff := .v { gs := x.gs, dq := some (8 + n, s.nextId) } }) with
        nextId := s.nextId + 1 }
  | _ => s.vTaken srcs lat hold (if x.len = 0 then [] else writes) groups [] { gs := x.gs, puts := x.mirrored puts }

/-- An elementwise slot (R255, R256) over a class of tags: every active cell of every row of its block, or every cell where `all` says so, takes what `cell` gives
for its distance from the primary columns, its row in the block and its number. -/
def State.elementwise (s : State) (h : Hart) (f : VV) (t : Tag) (acc : Tag → Bool) (srcs : List View) (nd all : Bool) (cell : VCtx → Nat → Nat → Nat → Cell × Bool)
    (i : Instr) : Prop :=
  let vd := vw f.vd
  let blk := blkOf' f
  let x := s.vIn h srcs
  let puts (off : Nat) : List (Nat × Nat × Cell × Bool) := (List.range blk).flatMap (fun b =>
    ((List.range x.len).filter (fun j => all || (h.ok f.k.toNat).getLsbD j)).map (fun j => ((vAt vd b j).1, (vAt vd b j).2, cell x off b j)))
  let near := x.groupsAt ((vd :: srcs).flatMap (fun v => vCols v x.len))
  s.vFree h srcs (some vd) (srcs.flatMap (fun v => vRows v x.len blk) ++ (if nd then vRows vd x.len blk else [])) (vRows vd x.len blk) near →
  x.probe (srcs ++ [vd]) blk = none → tagEq acc (srcs.map (fun v => x.srcTag v blk)) (x.dstTag vd blk) = .ok t → blkOk blk (vd :: srcs) = true →
  (x.mir ≠ 0 → puts x.mir = puts 0) →
  exec i s = .next (s.vWrites x t srcs vd (if blk = 1 then 4 else 5) 1 (vRows vd x.len blk) near (puts 0))

end Machine
end Sys2Proof
end

