-- ==== Sys2Proof/Certificates/Slice0/Obligations.lean ====
section
/-! DEFINITION. What is to be proved about the machine. A slot instruction runs inside a packet: `s.cur = some h` says that hart `h` is placed and its packet is in issue;
`h.og n`, `h.oa n` and `h.ok n` are its registers as they stood at issue (R49). -/
open Sys2Proof Sys2Proof.Machine

/-- R74, R142: what a write of a g, an a or a k register leaves: that register holds the value, a k register with the bits that engines set in it in the same cycle or later, except that
g0 reads 0 and k0 reads all ones whatever is written; every other register of the hart
and every other hart stands, and nothing else of the hart, of a core or of the package changes. -/
def Obligations.RegisterWrites : Prop :=
  ∀ (s : State) (h : Hart) (n : Nat), s.cur = some h →
    let rest (t : State) (h' : Hart) : Prop :=
      { h' with regs := h.regs } = h ∧ (∀ p i, ¬ (p = s.issue.core ∧ i = s.issue.slot) → t.hart? p i = s.hart? p i)
      ∧ (∀ p, { t.core p with harts := (s.core p).harts } = s.core p) ∧ { t with cores := s.cores } = s
    (∀ v : Word, ∃ h', (s.wrG n v).cur = some h' ∧ (n ≠ 0 → readG h'.regs n = v) ∧ readG h'.regs 0 = 0
      ∧ (∀ m, m ≠ n → readG h'.regs m = readG h.regs m) ∧ (∀ m, readA h'.regs m = readA h.regs m) ∧ (∀ m, readK h'.regs m = readK h.regs m) ∧ rest (s.wrG n v) h')
    ∧ (∀ v : VAddr, ∃ h', (s.wrA n v).cur = some h' ∧ readA h'.regs n = v ∧ (∀ m, m ≠ n → readA h'.regs m = readA h.regs m)
      ∧ (∀ m, readG h'.regs m = readG h.regs m) ∧ (∀ m, readK h'.regs m = readK h.regs m) ∧ rest (s.wrA n v) h')
    ∧ (∀ v : Mask, ∃ h', (s.wrK n v).cur = some h' ∧ (n ≠ 0 → readK h'.regs n = v ||| h.engineBits s.cycle n) ∧ readK h'.regs 0 = BitVec.allOnes 256
      ∧ (∀ m, m ≠ n → readK h'.regs m = readK h.regs m) ∧ (∀ m, readG h'.regs m = readG h.regs m) ∧ (∀ m, readA h'.regs m = readA h.regs m) ∧ rest (s.wrK n v) h')

/-- R308, R309: the integer forms of two registers and of a register and sext41(imm), with LUI, and address arithmetic modulo 2^80: each completes and writes its destination register, and
nothing else changes. g0 reads 0 and a write to it leaves every g register as it is; LUI followed by ORI builds every constant. -/
def Obligations.IntegerArithmetic : Prop :=
  (∀ (s : State) (h : Hart) (v : Word), s.cur = some h → h.og 0 = 0 ∧ ∃ h', (s.wrG 0 v).cur = some h' ∧ readG h'.regs 0 = 0 ∧ (∀ m, readG h'.regs m = readG h.regs m))
  ∧ (∀ c : Word, ∃ u l : BitVec 41, l.toNat < 2 ^ 23 ∧ (u.signExtend 64 * 2 ^ 23) ||| l.signExtend 64 = c)
  ∧ (∀ (s : State) (h : Hart) (f : SR), s.cur = some h →
      let a := h.og f.s1.toNat
      let b := h.og f.s2.toNat
      let w (v : Word) : Out := .next (s.wrG f.d.toNat v)
      exec (.add f) s = w (a + b) ∧ exec (.sub f) s = w (a - b) ∧ exec (.mul f) s = w (a * b)
      ∧ exec (.mulh f) s = w (BitVec.ofInt 64 ((a.toInt * b.toInt).fdiv (2 ^ 64)))
      ∧ exec (.mulhu f) s = w (BitVec.ofNat 64 (a.toNat * b.toNat / 2 ^ 64))
      ∧ exec (.div f) s = w (if b = 0 then BitVec.allOnes 64 else BitVec.ofInt 64 (a.toInt.tdiv b.toInt))
      ∧ exec (.divu f) s = w (if b = 0 then BitVec.allOnes 64 else BitVec.ofNat 64 (a.toNat / b.toNat))
      ∧ exec (.rem f) s = w (if b = 0 then a else BitVec.ofInt 64 (a.toInt.tmod b.toInt))
      ∧ exec (.remu f) s = w (if b = 0 then a else BitVec.ofNat 64 (a.toNat % b.toNat))
      ∧ exec (.and f) s = w (a &&& b) ∧ exec (.or f) s = w (a ||| b) ∧ exec (.xor f) s = w (a ^^^ b)
      ∧ exec (.shl f) s = w (a <<< (b.toNat % 64)) ∧ exec (.shr f) s = w (a >>> (b.toNat % 64)) ∧ exec (.sra f) s = w (a.sshiftRight (b.toNat % 64))
      ∧ exec (.seq f) s = w (if a = b then 1 else 0) ∧ exec (.sne f) s = w (if a = b then 0 else 1)
      ∧ exec (.slt f) s = w (if a.toInt < b.toInt then 1 else 0) ∧ exec (.sltu f) s = w (if a.toNat < b.toNat then 1 else 0)
      ∧ exec (.sle f) s = w (if a.toInt ≤ b.toInt then 1 else 0) ∧ exec (.sleu f) s = w (if a.toNat ≤ b.toNat then 1 else 0)
      ∧ exec (.min f) s = w (if a.toInt < b.toInt then a else b) ∧ exec (.max f) s = w (if a.toInt < b.toInt then b else a))
  ∧ (∀ (s : State) (h : Hart) (f : SI), s.cur = some h →
      let a := h.og f.s1.toNat
      let b : Word := f.imm.signExtend 64
      let w (v : Word) : Out := .next (s.wrG f.d.toNat v)
      exec (.addi f) s = w (a + b) ∧ exec (.andi f) s = w (a &&& b) ∧ exec (.ori f) s = w (a ||| b) ∧ exec (.xori f) s = w (a ^^^ b)
      ∧ exec (.shli f) s = w (a <<< (b.toNat % 64)) ∧ exec (.shri f) s = w (a >>> (b.toNat % 64)) ∧ exec (.srai f) s = w (a.sshiftRight (b.toNat % 64))
      ∧ exec (.lui f) s = w (b * 2 ^ 23))
  ∧ (∀ (s : State) (h : Hart), s.cur = some h →
      (∀ f : SR,
        let a := h.oa f.s1.toNat
        let g := h.og f.s2.toNat
        exec (.aadd f) s = .next (s.wrA f.d.toNat (a + g.signExtend 80))
        ∧ exec (.asub f) s = .next (s.wrG f.d.toNat (BitVec.ofInt 64 (a.toInt - (h.oa f.s2.toNat).toInt)))
        ∧ exec (.amovg f) s = .next (s.wrA f.d.toNat (BitVec.ofNat 80 (h.og f.s1.toNat).toNat))
        ∧ exec (.amova f) s = .next (s.wrG f.d.toNat (BitVec.ofNat 64 a.toNat))
        ∧ exec (.ahig f) s = .next (s.wrA f.d.toNat (BitVec.ofNat 80 (a.toNat % 2 ^ 64 + g.toNat % 2 ^ 16 * 2 ^ 64))))
      ∧ (∀ f : SI,
        let a := h.oa f.s1.toNat
        exec (.aaddi f) s = .next (s.wrA f.d.toNat (a + f.imm.signExtend 80))
        ∧ exec (.ahi f) s = .next (s.wrA f.d.toNat (BitVec.ofNat 80 (a.toNat % 2 ^ 64 + f.imm.toNat % 2 ^ 16 * 2 ^ 64)))))


/-- R310, R311: scalar FP32, rounded by the slot's mode (`f32of` is the value of bits [31:0] of a source), and the compares and classes that have no rounding; a NaN makes every compare 0. -/
def Obligations.ScalarFloat : Prop :=
  (∀ (s : State) (h : Hart) (f : SR) (r : Rnd), s.cur = some h → Rnd.ofCode f.rm.toNat = some r →
      let a := f32of (h.og f.s1.toNat)
      let b := f32of (h.og f.s2.toNat)
      let d := f32of (h.og f.d.toNat)
      let w (v : Word) : Out := .next (s.wrG f.d.toNat v)
      let rounded (v : Val) : Word := BitVec.ofNat 64 (convert v .fp32 r false 0)
      exec (.fadd f) s = w (rounded (Val.sum [a, b])) ∧ exec (.fsub f) s = w (rounded (Val.sum [a, b.neg])) ∧ exec (.fmul f) s = w (rounded (a.mul b))
      ∧ exec (.ffma f) s = w (rounded (Val.sum [a.mul b, d]))
      ∧ exec (.fdiv f) s = w (BitVec.ofNat 64 (divRound a b .fp32 r)) ∧ exec (.fsqrt f) s = w (BitVec.ofNat 64 (sqrtRound a .fp32 r))
      ∧ exec (.fcvtF f) s = w (rounded (Val.ofDy ⟨(h.og f.s1.toNat).toInt, 0⟩))
      ∧ exec (.fcvtI f) s = w (if a.isNaN then 0 else match a with
          | .inf neg => if neg then 0x8000000000000000#64 else 0x7FFFFFFFFFFFFFFF#64
          | v => BitVec.ofInt 64 (max (-(2 ^ 63)) (min (2 ^ 63 - 1) (roundInt v r 0)))))
  ∧ (∀ (s : State) (h : Hart) (f : SR), s.cur = some h →
      let a := f32of (h.og f.s1.toNat)
      let b := f32of (h.og f.s2.toNat)
      let ea := (h.og f.s1.toNat).toNat % 2 ^ 32
      let eb := (h.og f.s2.toNat).toNat % 2 ^ 32
      let w (v : Word) : Out := .next (s.wrG f.d.toNat v)
      exec (.fmin f) s = w (BitVec.ofNat 64 (fmin32 ea eb)) ∧ exec (.fmax f) s = w (BitVec.ofNat 64 (fmax32 ea eb))
      ∧ exec (.fcmpeq f) s = w (if ¬ a.isNaN ∧ ¬ b.isNaN ∧ a.eqv b then 1 else 0)
      ∧ exec (.fcmplt f) s = w (if ¬ a.isNaN ∧ ¬ b.isNaN ∧ a.lt b then 1 else 0)
      ∧ exec (.fcmple f) s = w (if ¬ a.isNaN ∧ ¬ b.isNaN ∧ ¬ b.lt a then 1 else 0)
      ∧ exec (.fclass f) s = w (BitVec.ofNat 64 (2 ^ fpClass ea)) ∧ fpClass ea < 9)


/-- R312: the next packet that a control transfer chooses: the target, or the address after the packet, which the packet has been given at issue. Only
JAL writes a register, and no held slot is affected. The packet's hart goes on at the packet so chosen. A target that is not a multiple of 4 takes the fetch fault of R76 as the next packet, with TRPC = the target and the held slots kept. -/
def Obligations.ControlTransfers : Prop :=
  (∀ (s : State) (h : Hart) (f : SB), s.cur = some h →
    let a := h.og f.s1.toNat
    let b := h.og f.s2.toNat
    let off : VAddr := BitVec.ofInt 80 (4 * f.off.toInt)
    let go (t : VAddr) (s : State) : State := { s with issue := { s.issue with npc := t, branched := true } }
    let br (c : Bool) : Out := .next (if c then go (s.issue.pc0 + off) s else s)
    exec (.beq f) s = br (a == b) ∧ exec (.bne f) s = br (a != b)
    ∧ exec (.blt f) s = br (decide (a.toInt < b.toInt)) ∧ exec (.bge f) s = br (decide (b.toInt ≤ a.toInt))
    ∧ exec (.bltu f) s = br (decide (a.toNat < b.toNat)) ∧ exec (.bgeu f) s = br (decide (b.toNat ≤ a.toNat))
    ∧ exec (.bz f) s = br (a == 0) ∧ exec (.bnz f) s = br (a != 0)
    ∧ exec (.jmp f) s = .next (go (s.issue.pc0 + off) s)
    ∧ exec (.jal f) s = .next (go (s.issue.pc0 + off) (s.wrA f.d.toNat s.issue.npc))
    ∧ exec (.jr f) s = .next (go (h.oa f.s1.toNat + off) s)
    ∧ exec (.ret f) s = .next (go (h.oa f.s1.toNat) s)
    ∧ (∀ g : SR, exec (.nop g) s = .next s))
  ∧ (∀ (s : State) (h : Hart), s.arg.core < 32 → s.arg.slot < 8 → s.hart? s.arg.core s.arg.slot = some h → h.exited = false → s.overdue s.arg.core = false → h.pend = 0 → h.vpend = none →
      h.stopped = false → h.owed = [] → h.stall29 = [] → h.handler = false → h.reNow = 0 → h.tileNow = none → h.carrel.st ≠ .replaying → h.pc.toNat % 4 ≠ 0 →
      ∃ t h', exec .packetIssue s = .next t ∧ t.hart? s.arg.core s.arg.slot = some h' ∧ h'.handler = true ∧ fldN h'.trap.cause 7 0 = 0x21 ∧ h'.trap.pc = h.pc ∧ h'.trap.va = h.pc ∧ h'.heldAside = h.held)
  ∧ (∀ (h h0 : Hart) (q : Issue) (l : List Slot) (c : Nat), q.again = false → q.crl = false → (∀ x ∈ l, x.1 = .S → opOf x.2 ≠ 0xE1) →
      (h.issued h0 q l c).pc = q.npc ∧ (h.issued h0 q l c).held = (if h0.handler then h.held else heldAfter h.held q.hdr q.words))

/-- R57, R75, R154, R314, R315: what MOVS reads from every control register, its low 64 bits and, with the `.h` bit, bits [79:64]; what MOVD leaves in each that it may write: HSTAT
changes only FTZ, WTRAP and PROT, and of an 80-bit register one part changes. A write of PGSEED or LMAP takes effect at the end of the cycle; one of LAT is refused with LMAP.ERR while a
gang holds groups, and keeps dead groups as they are; OVR.BASE and OVR.SIZE take a write only while no ring slot is held. -/
def Obligations.ControlRegisters : Prop :=
  (∀ (s : State) (h : Hart) (d : BitVec 5), s.cur = some h →
      let rd (n : Nat) (v : BitVec 80) : Prop :=
        exec (.movs { d := d, s1 := 0, cr := BitVec.ofNat 12 n }) s = .next (s.wrG d.toNat (BitVec.ofNat 64 v.toNat))
        ∧ exec (.movs { d := d, s1 := 1, cr := BitVec.ofNat 12 n }) s = .next (s.wrG d.toNat (BitVec.ofNat 64 (v.toNat / 2 ^ 64)))
      let c := s.core s.issue.core
      let die := s.die (s.issue.core / 2)
      let one (b : Bool) (n : Nat) : Nat := if b then 2 ^ n else 0
      rd 0 (BitVec.ofNat 80 (one h.octrl.ftz 0 + one h.octrl.wtrap 1 + one h.octrl.prot 2 + one h.octrl.mm 3 + h.octrl.role.code * 16
        + one (h.octrl.fw || h.handler) 6))
      ∧ rd 1 (BitVec.ofNat 80 h.octrl.vl) ∧ rd 2 (BitVec.ofNat 80 h.octrl.mvl) ∧ rd 3 (h.octrl.mfc.setWidth 80) ∧ rd 4 (h.octrl.dsel.setWidth 80)
      ∧ rd 5 (c.pgseed.setWidth 80) ∧ (∀ i < 16, rd (16 + i) ((tget 0 h.octrl.tol i).setWidth 80))
      ∧ rd 32 (c.lmap.setWidth 80) ∧ rd 33 (c.lat.setWidth 80) ∧ (∀ i < 6, rd (48 + i) (BitVec.ofNat 80 (tget 0 h.pbc i % 2 ^ 64)))
      ∧ rd 64 (h.trap.cause.setWidth 80) ∧ rd 65 h.trap.pc ∧ rd 66 h.trap.va ∧ rd 67 (h.trap.info.setWidth 80)
      ∧ (∀ i < 16, rd (80 + i) ((tget 0 h.trap.lg i).setWidth 80)) ∧ rd 96 die.ovrBase
      ∧ rd 97 (BitVec.ofNat 80 ((die.ovrSlots + (die.ring.filter (fun q => q.2.st != 0)).length * 2 ^ 32) % 2 ^ 64)))
  ∧ (∀ (s : State) (h : Hart) (x : BitVec 5), s.cur = some h →
      let v := h.og x.toNat
      let wr (n : Nat) (hi : BitVec 5) (t : State) : Prop := exec (.movd { d := hi, s1 := x, cr := BitVec.ofNat 12 n }) s = .next t
      let part (old : BitVec 80) (hi : Bool) : BitVec 80 :=
        if hi then BitVec.ofNat 80 (old.toNat % 2 ^ 64 + v.toNat % 2 ^ 16 * 2 ^ 64) else BitVec.ofNat 80 (old.toNat / 2 ^ 64 * 2 ^ 64 + v.toNat)
      (∀ hi, wr 0 hi (s.modCur (fun h => { h with
          ctrl := { h.ctrl with ftz := v.getLsbD 0, wtrap := v.getLsbD 1, prot := v.getLsbD 2 }, protBusy := h.protBusy || (v.getLsbD 2 && !h.ctrl.prot) })))
      ∧ (∀ hi, wr 3 hi (s.modCtrl (fun c => { c with mfc := v &&& 0xFF737FFFFFF#64 }))) ∧ (∀ hi, wr 4 hi (s.modCtrl (fun c => { c with dsel := v &&& 1#64 })))
      ∧ (∀ hi, ∀ i < 16, wr (16 + i) hi (s.modCtrl (fun c => { c with tol := tset c.tol i (v.setWidth 8) })))
      ∧ (∀ hi, wr 64 hi (s.modCur (fun h => { h with trap := { h.trap with cause := v &&& 0xFFFFFFF#64 } })))
      ∧ (∀ hi, wr 65 hi (s.modCur (fun h => { h with trap := { h.trap with pc := part h.trap.pc (hi.getLsbD 0) } })))
      ∧ (∀ hi, wr 66 hi (s.modCur (fun h => { h with trap := { h.trap with va := part h.trap.va (hi.getLsbD 0) } })))
      ∧ (∀ hi, wr 67 hi (s.modCur (fun h => { h with trap := { h.trap with info := v } })))
      ∧ (∀ hi, ∀ i < 16, wr (80 + i) hi (s.modCur (fun h => { h with trap := { h.trap with lg := tset h.trap.lg i (v.setWidth 16) } })))
      ∧ (let p := s.issue.core
         let c := s.core p
         let d := s.die (p / 2)
         let free : Prop := ∀ q ∈ d.ring, q.2.st = 0
         let ring (base : VAddr) (slots : Nat) : State := s.modDie (p / 2) (fun d => { d with ovrBase := base, ovrSlots := slots })
         (∀ hi, wr 5 hi (s.modCore p (fun c => { c with pgNext := some v })) ∧ wr 32 hi (s.modCore p (fun c => { c with lmapNext := some v })))
         ∧ ((∃ g < 16, latOwner c.lat g < 6) → ∀ hi, wr 33 hi (s.modCore p (fun c => { c with lmap := c.lmap ||| lmapErr })))
         ∧ ((∀ g < 16, 6 ≤ latOwner c.lat g) → ∀ hi, ∃ t, wr 33 hi t ∧ (t.core p).lat = (List.range 16).foldl (fun l g => if lmapDead c.lmap g then latSet l g 6 else l) v
              ∧ (t.core p).lmap = c.lmap)
         ∧ (free → (∀ hi : BitVec 5, wr 96 hi (ring (BitVec.ofNat 80 ((part d.ovrBase (hi.getLsbD 0)).toNat / 2 ^ 16 * 2 ^ 16)) d.ovrSlots))
              ∧ ∀ hi, wr 97 hi (ring (BitVec.ofNat 80 (d.ovrBase.toNat / 2 ^ 16 * 2 ^ 16)) (fldN v 19 0)))
         ∧ (¬ free → ∀ hi, wr 96 hi (s.modDie (p / 2) (fun d => d)) ∧ wr 97 hi (s.modDie (p / 2) (fun d => d)))))


/-- R316: a length that MAXL admits, or a request while groups of the gang are marked, is granted as the lesser of the request and MAXL; SETMVL also sets MM
unless the request is 0. A request that grows the gang, or finds groups of it still to be restored, is granted by the MAXL after the growth (R318); one whose gang's restoring a fault
of the save area has stopped waits (R397). -/
def Obligations.SetLengths : Prop :=
  ∀ (s : State) (h : Hart) (f : SR), s.cur = some h →
    let p := s.issue.core
    let req := (h.og f.s1.toNat).toNat
    let pending := (s.heldGroups p h).any (latPend (s.core p).lat)
    let vl (s : State) (n : Nat) : State := ((s.modCtrl (fun c => { c with vl := n })).wrG f.d.toNat (BitVec.ofNat 64 n)).releasePending h.die h.idx
    let mvl (s : State) (n : Nat) : State :=
      ((s.modCtrl (fun c => { c with mvl := n, mm := req != 0 })).wrG f.d.toNat (BitVec.ofNat 64 n)).releasePending h.die h.idx
    let g := s.gang h.die h.idx
    let s1 := (s.grow p h req).1
    (g.growStalled = false → g.unrestored = [] → pending = true ∨ req ≤ s.maxl p h →
      exec (.setvl f) s = .next (vl s (min req (s.maxl p h))) ∧ exec (.setmvl f) s = .next (mvl s (min req (s.maxl p h))))
    ∧ (g.growStalled = false → g.unrestored ≠ [] ∨ (pending = false ∧ s.maxl p h < req) → (s.grow p h req).2 = none →
      exec (.setvl f) s = .next (vl s1 (min req (s1.maxl p h))) ∧ exec (.setmvl f) s = .next (mvl s1 (min req (s1.maxl p h))))
    ∧ (g.growStalled = true → exec (.setvl f) s = .next s.stall ∧ exec (.setmvl f) s = .next s.stall)

/-- R355 to R358: the semaphores and words of a die that can be reached, for a request that no later one of the cycle has come before. A SEMTS that finds its bit clear takes it at once;
CMRD and CMWR of a fenced die answer 0 and change no word.
One that its cycle's order or a change of its route (R413) holds back waits.
That a request out of the order of its cycle arrives in a later one is the model's reading (log 76). -/
def Obligations.SemaphoresAndWords : Prop :=
  ∀ (s : State) (h : Hart), s.cur = some h →
    let who := 8 * s.issue.core + s.issue.slot
    let served (d : Nat) : List (Nat × Nat × Nat) := if (s.die d).reqAt = s.cycle then (s.die d).reqs else []
    let reached (d kind b : Nat) : State := s.modDie d (fun y => { y with reqAt := s.cycle, reqs := served d ++ [(who, kind, b)] })
    (∀ f : SI,
      let x := h.og f.s1.toNat
      let d := fldN x 11 8
      let b := fldN x 5 0
      let t := reached d 1 b
      let taken := ((t.modDie d (fun y => { y with sem := y.sem ||| (1#64 <<< b) })).wrG f.d.toNat 0).pend 0
      s.gone s.issue.core d = false → s.heldDie (who / 16) d = false → (∀ q ∈ served d, q.1 ≤ who ∨ (q.2.1 = 2 ∧ q.2.2 = b)) →
        ((s.die d).sem.getLsbD b = false →
          ((∀ q ∈ (s.die d).semq, ¬ (q.core = s.issue.core ∧ q.slot = s.issue.slot)) → exec (.semts f) s = .next taken)
          ∧ exec (.semtsTry f) s = .next taken)
        ∧ ((s.die d).sem.getLsbD b = true → exec (.semtsTry f) s = .next ((t.wrG f.d.toNat 1).pend 0)))
    ∧ (∀ f : SR,
      let x := h.og f.s1.toNat
      let d := fldN x 11 8
      let b := fldN x 5 0
      let n := fldN x 4 0
      let t := reached d 0 0
      let c := reached d 2 b
      s.gone s.issue.core d = false → s.heldDie (who / 16) d = false → (∀ q ∈ served d, q.1 ≤ who) →
        (s.relReady h 3 = true → (∀ q ∈ served d, q.2.1 ≠ 1 ∨ q.2.2 ≠ b) → (s.die d).sem.getLsbD b = false → exec (.semclr f) s = .next ((c.wrG f.d.toNat 0).pend 0))
        ∧ (s.relReady h 3 = true → (∀ q ∈ served d, q.2.1 ≠ 1 ∨ q.2.2 ≠ b) → (s.die d).sem.getLsbD b = true → (∀ q ∈ (s.die d).semq, q.bit ≠ b ∨ q.granted = true) →
          exec (.semclr f) s = .next (((c.modDie d (fun y => { y with sem := y.sem &&& ~~~(1#64 <<< b) })).wrG f.d.toNat 1).pend 0))
        ∧ exec (.cmrd f) s = .next ((t.wrG f.d.toNat (if x.getLsbD 6 then (s.die d).sem else tget 0 (s.die d).dat n)).pend 0)
        ∧ exec (.cmwr f) s = .next (((t.modDie d (fun y => { y with dat := tset y.dat n (h.og f.s2.toNat) })).wrG f.d.toNat (tget 0 (s.die d).dat n)).pend 0))
    ∧ (∀ f : SR,
      let d := fldN (h.og f.s1.toNat) 11 8
      s.gone s.issue.core d = false → (∃ q ∈ served d, who < q.1 ∧ q.2.1 = 0) ∨ s.heldDie (who / 16) d = true →
        exec (.cmrd f) s = .next (s.pend (encode (.cmrd f))) ∧ exec (.cmwr f) s = .next (s.pend (encode (.cmwr f))))
    ∧ (∀ f : SR, s.gone s.issue.core (fldN (h.og f.s1.toNat) 11 8) = true →
        exec (.cmrd f) s = .next ((s.wrG f.d.toNat 0).pend 0) ∧ exec (.cmwr f) s = .next ((s.wrG f.d.toNat 0).pend 0))

/-- R189, R359 to R362: a gang barrier, once what reached it in earlier cycles has completed what it can, whose phase has passed the hart's target lets BARWAIT retire with PHASE; BARWAIT.SET sets the expectation at once, or for the next phase, and refuses a
number outside its range with 3. FENCE retires once the hart's accesses have returned and its counter of the scope reads 0; BARARR then arrives and notes the phase at which the arrival is complete.
That ARR, 8 bits wide, wraps is the model's reading (log 77). -/
def Obligations.BarriersAndFence : Prop :=
  (∀ (s : State) (h : Hart) (f : SI), s.cur = some h →
      let n := f.imm.toNat % 4
      let b := (s.bar h n).sync s.cycle
      let x := h.og f.s1.toNat
      (barDone b.phase (tget 0 h.wt n) = true → exec (.barwait f) s = .next ((s.wrG f.d.toNat (BitVec.ofNat 64 b.phase)).pend 0))
      ∧ (64 < fldN x 6 0 ∨ fldN x 15 7 ≠ 0 → exec (.barwaitSet f) s = .next ((s.wrG f.d.toNat 3).pend 0))
      ∧ (fldN x 6 0 ≤ 64 → fldN x 15 7 = 0 → b.arr = 0 → b.cred = 0 →
        exec (.barwaitSet f) s = .next (((s.setBar h n { b with narr := fldN x 6 0, nbytes := fldN x 63 16 }).wrG f.d.toNat 0).pend 0))
      ∧ (fldN x 6 0 ≤ 64 → fldN x 15 7 = 0 → ¬ (b.arr = 0 ∧ b.cred = 0) →
        exec (.barwaitSet f) s = .next (((s.setBar h n { b with next := (fldN x 6 0, fldN x 63 16), nextv := true }).wrG f.d.toNat 0).pend 0)))
  ∧ (∀ (s : State) (h : Hart) (f : LM), s.cur = some h → s.fenceReady h f.sc.toNat = true →
      let n := f.t.toNat % 4
      let b := (s.bar h n).sync s.cycle
      exec (.fence f) s = .next (s.pend 0)
      ∧ exec (.bararr f) s = .next (((s.setBar h n { b with arr := (b.arr + 1) % 2 ^ 8 }).modCur (fun h =>
          { h with wt := tset h.wt n ((b.phase + 1 + (if b.narr = 0 then 0 else b.arr / b.narr)) % 2 ^ 32) })).pend 0))


/-- R332, R364, R365: LAUNCH of a descriptor that can be read: a refused one answers REFUSED and makes no record; an accepted one with a free resident slot becomes a WAITING
record there, whose handle is the answer.
R366 to R368: SIGNAL lowers a dependence count that is not 0 and re-evaluates the record, answering 0; with a count of 0 it answers 1. CANCEL of a record that was
never placed, waiting, ready or spilled, ends it with status 0x01 and frees it, where nothing makes its end wait; of a saved or running gang it begins its end with status 0x02; all three
answer 0. Of one that is placing or being saved it waits; of an ending one it answers 5, of the caller's own gang 4. A handle of no record answers 2, of one that a fenced die held 6; a
record of another context answers 3 to a hart that is not privileged. -/
def Obligations.LaunchSignalCancel : Prop :=
  (∀ (s s1 : State) (h : Hart) (f : SR) (l : List XOk), s.cur = some h →
      let va := h.oa f.s1.toNat
      let d := s.issue.core / 2
      va.toNat % 64 = 0 → s.relReady h 3 = true → s.lands h va 128 .load s1 l → s1.badByte l = none →
      let b := s1.got l []
      let t := s1.noteSeen (locKeys l)
      (s1.descAccepted b h.priv = false → exec (.launch f) s = .next ((t.wrG f.d.toNat (BitVec.ofNat 64 (2 ^ 30 + 2))).pend 0))
      ∧ (∀ i, s1.descAccepted b h.priv = true → (List.range 1024).find? (fun i => (t.gang d i).st == 0) = some i →
          let gen := (t.gang d i).gen
          let r : Rec := { st := 2, gen := gen, handle := handleOf gen false d i, desc := Desc.parse b,
                           ctx := if h.priv then (Desc.parse b).ctx else h.ctx, deps := (Desc.parse b).deps, byFw := h.priv }
          exec (.launch f) s = .next ((((t.seeNote d r).setGang d i (t.evaluate d r)).wrG f.d.toNat (BitVec.ofNat 64 r.handle)).pend 0)))
  ∧ (∀ (s : State) (h : Hart) (f : SR), s.cur = some h →
      let handle := (h.og f.s1.toNat).toNat
      let who := 8 * s.issue.core + s.issue.slot
      let served (d : Nat) : List (Nat × Nat × Nat) := if (s.die d).reqAt = s.cycle then (s.die d).reqs else []
      let reached (d : Nat) : State := s.modDie d (fun y => { y with reqAt := s.cycle, reqs := served d ++ [(who, 0, 0)] })
      let inTurn (d : Nat) : Prop := ∀ q ∈ served d, q.1 ≤ who
      let ret (t : State) (v : Word) : Out := .next ((t.wrG f.d.toNat v).pend 0)
      let code (c : Word) : Prop := (s.relReady h 3 = true → exec (.signal f) s = ret s c) ∧ (h.served = false → exec (.cancel f) s = ret s c)
      (s.lookup handle = none → code (if s.orphaned handle then 6 else 2))
      ∧ (∀ d a, s.lookup handle = some (d, a) → (s.gone s.issue.core d = true → code 6)
          ∧ (s.gone s.issue.core d = false → (s.recAt d a).ctx ≠ h.curCtx → h.priv = false → code 3)
          ∧ (s.gone s.issue.core d = false → (s.recAt d a).ctx = h.curCtx ∨ h.priv = true → s.recStatus h handle = .ok (d, a)))
      ∧ (∀ d a, s.recStatus h handle = .ok (d, a) → s.relReady h 3 = true → s.heldDie (who / 16) d = false → inTurn d →
          let t := reached d
          ((s.recAt d a).deps = 0 → exec (.signal f) s = ret t 1)
          ∧ ((s.recAt d a).deps ≠ 0 →
              exec (.signal f) s = ret ((t.seeNote d (s.recAt d a)).setRecAt d a (t.evaluate d { s.recAt d a with deps := (s.recAt d a).deps - 1 })) 0))
      ∧ (∀ d a, s.recStatus h handle = .ok (d, a) → h.served = false →
          let t := reached d
          let r := s.recAt d a
          let word := t.endWord d r 1
          let waits : State := (t.modCur (fun h => { h with pend := encode (.cancel f), served := true }))
          let soon : Prop := t.endWaits d r = false ∧ (s.die d).fullAt ≠ some s.cycle
          (d = h.die → a = .res h.idx → exec (.cancel f) s = ret s 4)
          ∧ (¬ (d = h.die ∧ a = .res h.idx) → r.st = 7 → exec (.cancel f) s = ret s 5)
          ∧ (¬ (d = h.die ∧ a = .res h.idx) → s.heldDie (who / 16) d = false → inTurn d →
            (∀ i, a = .res i →
              (r.st = 2 ∨ (r.st = 3 ∧ r.places = []) → soon → exec (.cancel f) s = ret (word.freeRec d i) 0)
              ∧ (r.st = 3 → r.places ≠ [] → exec (.cancel f) s = ret (t.modGang d i (fun r => { r with st := 7, endStatus := some 2 })) 0)
              ∧ (r.st = 5 → exec (.cancel f) s = ret (t.endGang d i 2) 0)
              ∧ (r.st = 4 ∨ r.st = 6 → exec (.cancel f) s = .next ((t.modGang d i (fun r => { r with cancelWait := true })).modCur (fun h => { h with pend := encode (.cancel f), served := true }))))
            ∧ (∀ j, a = .ring j → r.st = 1 → soon → exec (.cancel f) s = ret (word.setRing d j { gen := ((word.ringRec d j).gen + 1) % 2 ^ 32 }) 0)
            ∧ (r.st = 1 ∨ r.st = 2 ∨ (r.st = 3 ∧ r.places = []) → ¬ soon → exec (.cancel f) s = .next waits))))


/-- R369 to R371: NWAIT retires with COUNT once the word has reached the threshold and the read may be made; NPOST answers the old COUNT and stores the new one where it
is ahead; a word that is in no page gives status 1. That the store of NPOST is home at its issue is the model's reading (log 11).
R372 to R374: YIELD of 0 cycles, or whose time has passed, retires with 0, and one of n cycles waits for min(n, 2^20); YIELD.GANG that gives nothing up answers 0, and one
that the head of the table wants suspends the gang, which runs with it, and answers 1; GEXIT of a hart whose slots have landed, and whose records have found room, exits it; PBCRD reads a counter. -/
def Obligations.NotifyYieldExit : Prop :=
  (∀ (s : State) (h : Hart) (f : SR), s.cur = some h →
      let x := (h.og f.s2.toNat).toNat
      let ret (t : State) (v : Nat) : Out := .next ((t.wrG f.d.toNat (BitVec.ofNat 64 v)).pend 0)
      (s.ntfSel s.issue.core (h.og f.s1.toNat) = none →
        exec (.nwait f) s = ret s (2 ^ 63 + 1) ∧ (s.relReady h 5 = true → exec (.npost f) s = ret s (2 ^ 63 + 1)))
      ∧ (∀ k, s.ntfSel s.issue.core (h.og f.s1.toNat) = some k → s.badKey k = false →
        (s.ownPending [k] = false → s.acqReady 5 [k] = true → reached (s.readN k 8) x = true →
          exec (.nwait f) s = ret (s.noteSeen [k]) (s.readN k 8 % 2 ^ 63))
        ∧ (s.relReady h 5 = true →
          let old := s.readN k 8 % 2 ^ 63
          let v := x % 2 ^ 63
          exec (.npost f) s = ret (if (v + 2 ^ 63 - old) % 2 ^ 63 < 2 ^ 62 then s.sendHome (bytesAt k 8 v) 8 false else s) old)))
  ∧ (∀ (s : State) (h : Hart), s.cur = some h →
      (∀ f : SI,
        let n := min (h.og f.s1.toNat).toNat (2 ^ 20)
        (n = 0 ∨ (h.yieldUntil ≠ 0 ∧ h.yieldUntil ≤ s.cycle) →
          exec (.yield f) s = .next (((s.modCur (fun h => { h with yieldUntil := 0 })).wrG f.d.toNat 0).pend 0))
        ∧ (n ≠ 0 → h.yieldUntil = 0 →
          exec (.yield f) s = .next ((s.modCur (fun h => { h with yieldUntil := s.cycle + n })).pend (encode (.yield f))))
        ∧ (s.yieldWanted h = false → exec (.yieldGang f) s = .next ((s.wrG f.d.toNat 0).pend 0))
        ∧ ((s.gang h.die h.idx).st = 4 ∨ (s.gang h.die h.idx).st = 5 → s.yieldWanted h = true →
          exec (.yieldGang f) s = .next ((((s.wrG f.d.toNat 1).pend 0).gangRuns h).suspend h.die h.idx))
        ∧ exec (.pbcrd f) s = .next (s.wrG f.d.toNat (BitVec.ofNat 64 (tget 0 h.pbc (f.imm.toNat % 8)))))
      ∧ (∀ f : SR, h.pend ≠ 0 → s.landed s.issue.core s.issue.slot h = true → h.stall29 = [] →
        ∃ t, exec (.gexit f) s = .next t ∧ ((t.hart? s.issue.core s.issue.slot).map (fun x => (x.exited, x.stopped, x.pend))) = some (true, true, 0) ∧ t.mem = s.mem))


/-- R321 to R324: TRAP owes the software trap 0x28 with TRINFO = g[s1]; ERET leaves handler state and is illegal with subcause 8 outside it; FRQPOP takes the head record of the
core's queue into four registers, its place free from the next cycle, or writes an empty mark; STEST of an idle core other than its own starts the test there and waits, and answers 3 where the core is busy and 4
where its operands are out of range. -/
def Obligations.SystemInstructions : Prop :=
  ∀ (s : State) (h : Hart) (f : SR), s.cur = some h →
    let p := s.issue.core
    let x := (h.og f.s1.toNat).toNat
    let y := (h.og f.s2.toNat).toNat
    let four (r : BitVec 256) (s : State) : State :=
      (((s.wrG f.d.toNat (r.extractLsb' 0 64)).wrG (f.d.toNat + 1) (r.extractLsb' 64 64)).wrG (f.d.toNat + 2) (r.extractLsb' 128 64)).wrG (f.d.toNat + 3) (r.extractLsb' 192 64)
    exec (.trap f) s = .next { s with issue := { s.issue with post := s.issue.post ++ [{ cause := 0x28, info := x, ret := 2 }] } }
    ∧ (h.handler = true → fldN h.trap.cause 7 0 ≠ 0x29 → exec (.eret f) s = .next (s.leaveTrap p s.issue.slot))
    ∧ (h.handler = false → exec (.eret f) s = .next (s.raise { cause := 1, info := 8 }))
    ∧ ((s.core p).frq = [] → exec (.frqpop f) s = .next (four (BitVec.ofNat 256 (2 ^ 127)) s))
    ∧ (∀ r rest, (s.core p).frq = r :: rest → exec (.frqpop f) s = .next (four r (s.modCore p (fun c =>
        { c with frq := rest, frqFreed := (if c.frqFreedAt = s.cycle then c.frqFreed else 0) + 1, frqFreedAt := s.cycle }))))
    ∧ (h.pend = 0 → 32 ≤ x ∨ 8 ≤ y → exec (.stest f) s = .next ((s.wrG f.d.toNat 4).pend 0))
    ∧ (h.pend = 0 → x < 32 → y < 8 → x = p ∨ s.coreIdle x = false → exec (.stest f) s = .next ((s.wrG f.d.toNat 3).pend 0))
    ∧ (h.pend = 0 → x < 32 → y < 8 → x ≠ p → s.coreIdle x = true →
        exec (.stest f) s = .next ((s.modCore x (fun c =>
          { c with stest := some { die := x / 2, slot := s.issue.slot, core := p, rd := f.d.toNat, prio := y, started := s.cycle } })).pend (encode (.stest f))))

/-- R179, R180: a scalar load whose bytes can be read writes the little-endian number of its bytes, sign-extended or zero-extended, then the post-increment; LDA takes ten bytes of
sixteen. That the bytes are those of the moment of issue is the model's reading (log 11). -/
def Obligations.ScalarLoads : Prop :=
  ∀ (s : State) (h : Hart) (f : LM), s.cur = some h →
    let va := h.ea f
    let good (n : Nat) (s1 : State) (l : List XOk) : Prop := s.lands h va n .load s1 l ∧ s1.badByte l = none ∧ s1.readWaits f (locKeys l) = false
    let fin (l : List XOk) (t : State) : Out := .next ((t.noteSeen (locKeys l)).bump h f)
    let num (n : Nat) (s1 : State) (l : List XOk) : Nat := leNat (s1.got l []) % 2 ^ (8 * n)
    let sx (n : Nat) (i : Instr) : Prop := ∀ s1 l, good n s1 l → exec i s = fin l (s1.wrG f.t.toNat (BitVec.ofInt 64 (sintOf (8 * n) (num n s1 l))))
    let zx (n : Nat) (i : Instr) : Prop := ∀ s1 l, good n s1 l → exec i s = fin l (s1.wrG f.t.toNat (BitVec.ofNat 64 (num n s1 l)))
    sx 1 (.ldB f) ∧ sx 2 (.ldH f) ∧ sx 4 (.ldW f) ∧ sx 8 (.ldD f) ∧ zx 1 (.lduB f) ∧ zx 2 (.lduH f) ∧ zx 4 (.lduW f)
    ∧ (va.toNat % 16 = 0 → ∀ s1 l, good 16 s1 l → exec (.lda f) s = fin l (s1.wrA f.t.toNat (mk80 (s1.got l []) 0)))

/-- R179 to R181: a scalar store puts the low bytes of its register, least significant first, where its address leads, then the post-increment; STA stores ten bytes and
six zeros. -/
def Obligations.ScalarStores : Prop :=
  ∀ (s : State) (h : Hart) (f : LM), s.cur = some h → (f.rel = false ∨ s.relReady h f.sc.toNat = true) →
    let va := h.ea f
    let puts (n : Nat) (i : Instr) (b : List Byte) : Prop := ∀ s1 l, s.lands h va n .store s1 l → exec i s = .next (((s1.putBytes l b).noteWrites s1 (l.any (fun o => o.attr == 2)) f.acq).bump h f)
    let x := (h.og f.t.toNat).toNat
    puts 1 (.stB f) (leBytes 1 x) ∧ puts 2 (.stH f) (leBytes 2 x) ∧ puts 4 (.stW f) (leBytes 4 x) ∧ puts 8 (.stD f) (leBytes 8 x)
    ∧ (va.toNat % 16 = 0 → puts 16 (.sta f) (leBytes 10 (h.oa f.t.toNat).toNat ++ List.replicate 6 0))

/-- R181, R292: a store to memory leaves every byte of memory as it is: its bytes are on their way, one write for each granule, and reach exactly the keys they name at the home
moment of their write; a write to a fenced die never lands (R411). R186, R292: an atomic's bytes are at their home at once.
That an atomic is at home at issue is the model's reading (log 11). -/
def Obligations.StoreIsPendingUntilHome : Prop :=
  (∀ (s : State) (l : List XOk) (b : List Byte), (∀ o ∈ l, ∃ k, o.loc = .mem k) → (s.putBytes l b).mem = s.mem)
  ∧ (∀ (s : State) (id : Nat) (w : PW), s.memOk → s.pw.find? (fun v => v.id == id) = some w → w.phase = 0 →
      s.pw.any (fun v => v.hart == w.hart && decide (v.id < id) && v.touches w) = false → (∀ a ∈ w.after, s.visibleAt a.2 a.1 = true) →
      (∀ b ∈ w.bytes, dieOfKey b.1 < 16 → s.hub.fset.testBit (dieOfKey b.1) = false) →
      (s.homeMoment id).mem = memSetMany s.mem (s.landing w) ∧ (w.keep = [] → s.landing w = w.bytes) ∧ (s.homeMoment id).memOk
      ∧ (∀ a, (∀ q ∈ w.bytes, q.1 ≠ a) → (s.homeMoment id).byte a = s.byte a))
  ∧ (∀ (s : State) (id : Nat) (w : PW), s.pw.find? (fun v => v.id == id) = some w → (∃ b ∈ w.bytes, dieOfKey b.1 < 16 ∧ s.hub.fset.testBit (dieOfKey b.1) = true) → s.homeMoment id = s)
  ∧ (∀ (s : State) (bs : List (Nat × Byte)) (n : Nat), s.memOk →
      (s.sendHome bs n false).mem = memSetMany s.mem bs ∧ (s.sendHome bs n false).memOk ∧ (∀ a, (∀ q ∈ bs, q.1 ≠ a) → (s.sendHome bs n false).byte a = s.byte a))

/-- R186: a scalar atomic on memory that can be read returns the old value and writes the new one at its home at once.
That the home moment is at issue is the model's reading (log 11). -/
def Obligations.ScalarAtomics : Prop :=
  ∀ (s s1 : State) (h : Hart) (f : LM) (l : List XOk), s.cur = some h →
    let n := if f.t.getLsbD 5 then 8 else 4
    let w := 8 * n
    let va := h.oa f.a.toNat + f.off.signExtend 80
    va.toNat % n = 0 → (f.rel = false ∨ s.relReady h f.sc.toNat = true) → s.lands h va n .atomic s1 l → s1.badByte l = none →
    s1.readWaits f (locKeys l) = false → locKeys l ≠ [] →
    let x := (h.og f.x.toNat).toNat % 2 ^ w
    let old := leNat (s1.got l []) % 2 ^ w
    let back : Word := if n = 4 ∧ f.t.getLsbD 6 = false then BitVec.ofInt 64 (sintOf 32 old) else BitVec.ofNat 64 old
    let gives (i : Instr) (v : Nat) : Prop :=
      exec i s = .next ((((s1.sendHome ((l.zip (leBytes n v)).filterMap (fun q => match q.1.loc with | .mem k => some (k, q.2) | _ => none)) n false).noteWrites s1 false f.acq).wrG
        (f.t.toNat % 32) back).noteSeen (locKeys l))
    let less : Bool := if f.t.getLsbD 6 then decide (x < old) else decide (sintOf w x < sintOf w old)
    let more : Bool := if f.t.getLsbD 6 then decide (old < x) else decide (sintOf w old < sintOf w x)
    gives (.amoadd f) ((old + x) % 2 ^ w) ∧ gives (.amomin f) (if less then x else old) ∧ gives (.amomax f) (if more then x else old)
    ∧ gives (.amoand f) (old &&& x) ∧ gives (.amoor f) (old ||| x) ∧ gives (.amoxor f) (old ^^^ x) ∧ gives (.amoswp f) x
    ∧ (old = (h.og (f.t.toNat % 32)).toNat % 2 ^ w → gives (.amocas f) x)
    ∧ (old ≠ (h.og (f.t.toNat % 32)).toNat % 2 ^ w →
        exec (.amocas f) s = .next (((((s1.breakLinks none (granules (locKeys l))).breakAway l).noteWrites s1 false f.acq).wrG (f.t.toNat % 32) back).noteSeen (locKeys l)))

/-- R180: LDA, STA and atomics that are not aligned take the alignment trap 0x21 precisely, whatever else holds. -/
def Obligations.AlignmentTraps : Prop :=
  ∀ (s : State) (h : Hart) (f : LM), s.cur = some h →
    let n := if f.t.getLsbD 5 then 8 else 4
    let va := h.oa f.a.toNat + f.off.signExtend 80
    ((h.ea f).toNat % 16 ≠ 0 →
      exec (.lda f) s = .next (s.raise { cause := 0x21, va := h.ea f, info := 15 + 4 * 16 })
      ∧ exec (.sta f) s = .next (s.raise { cause := 0x21, va := h.ea f, info := 15 + 4 * 16 + 512 }))
    ∧ (va.toNat % n ≠ 0 → ∀ i ∈ [Instr.amoadd f, .amomin f, .amomax f, .amoand f, .amoor f, .amoxor f, .amoswp f, .amocas f],
        exec i s = .next (s.raise { cause := 0x21, va := va, info := 15 + (if n = 8 then 3 else 2) * 16 + 1024 }))

/-- R156 to R158, R161, R182: a unit-stride, strided or segment load of a length that is not 0, whose format pair is allowed, whose destination has room or holds the entries it left open, and
whose active elements all translate to places that answer at once, puts every performed element into one entry for each field at the tail of its queue, makes its post-increments and raises no
trap; memory changes only where its table walks changed it. With VL = 0 only its post-increment is made.
That an entry is filled with the bytes of the moment of issue, which an element of it takes again at a later moment of its own where one comes, is the model's reading (log 11, log 52). -/
def Obligations.VectorLoads : Prop :=
  ∀ (s : State) (h : Hart) (f : LM), s.cur = some h →
    let m := h.octrl.mfc
    let lm := (fmtAt (mfcLmem m)).getD .fp32
    let lr := (fmtAt (mfcLreg m)).getD .fp32
    let mx := mfcLsc m == 1
    let ne := h.octrl.vl * lr.perCell
    let q := f.t.toNat % 8
    let completes (form : VForm) (code : Nat) (i : Instr) : Prop :=
      let fN := segF form f
      let j : VJob := { fmt := lr, ne := ne, fN := fN, mask := s.vmask h f true }
      let pl := State.plan (s.who s.issue.core h) .load f.ord 1 (j.els h form f lm.width [] (if mx then some (h.oa (mfcLsa m)) else none)) s 0
      let fill (n : Nat) (e : Entry) : Entry := e.fillWith (pl.1.loaded h pl.2 lm.width mx lr n)
      let t := (((pl.1.deliver q { fmt := lr, cnt := ne, ne := ne, form := code + 256 * fN } fN fill false).readDone pl.2).keepReads pl.1 h q (together false f) (pl.1.rawsOf pl.2)).bump h f
      let last := if mx = true ∧ f.pi = 1 then t.wrA (mfcLsa m) (h.oa (mfcLsa m) + BitVec.ofNat 80 ((ne + 31) / 32)) else t
      (h.octrl.vl = 0 → exec i s = .next (s.bump h f))
      ∧ (h.octrl.vl ≠ 0 → ldRefused m form (form == .unit) f.a.toNat = false → (form = .seg → ne ≤ 256) →
          s.destCheck h q h.octrl.vl ne (code + 256 * fN) fN = .ok false → pl.1.vWaits f pl.2 = false → pl.1.farAsk h (itemOks pl.2) = none → j.left pl.2 = [] →
          exec i s = .next last ∧ last.mem = pl.1.mem ∧ last.pw = pl.1.pw ∧ last.issue = pl.1.issue
          ∧ ((pl.1.queue s.issue.core q).openAt = none → pl.1.issue.core = s.issue.core →
              last.queue s.issue.core q = (pl.1.queue s.issue.core q).push pl.1.cycle ((List.range fN).map (fun n =>
                { fill n { fmt := lr, cnt := ne, ne := ne, form := code + 256 * fN } with id := pl.1.nextId, st := .reserved, ne := ne, form := code + 256 * fN }))))
    completes .unit 0x10 (.vld f) ∧ completes .stride 0x11 (.vlds f) ∧ completes .seg 0x12 (.vldseg f)

/-- R156, R161, R174: an indexed load takes the signed words of its index queue's head as element numbers and dequeues them; GLL also records its link set. With VL = 0 the head is dequeued,
the link set is empty, and nothing is accessed.
That an entry is filled with the bytes of the moment of issue, which an element of a VLDX takes again at a later moment of its own where one comes, is the model's reading (log 11, log 52). -/
def Obligations.IndexedLoads : Prop :=
  (∀ (s : State) (h : Hart) (f : LM) (l : List Entry), s.cur = some h → h.octrl.vl = 0 → (s.queue s.issue.core (f.x.toNat % 8)).heads s.cycle 1 = some l →
    let t := s.deq (f.x.toNat % 8) 1
    exec (.vldx f) s = .next (t.bump h f) ∧ exec (.gll f) s = .next ((t.modCur (fun h => { h with links := [] })).bump h f))
  ∧ ∀ (s s1 : State) (h : Hart) (f : LM) (gll : Bool) (lr : Fmt) (en : Entry) (idx : List Int) (items : List Item), s.cur = some h →
    let m := h.octrl.mfc
    let lm := (fmtAt (mfcLmem m)).getD .fp32
    let mx := mfcLsc m == 1
    let ne := h.octrl.vl * lr.perCell
    let code := if gll then 0x2C else 0x13
    let acc : Acc := if gll then .atomic else .load
    let j : VJob := { fmt := lr, ne := ne, mask := s.vmask h f true }
    let q := f.t.toNat % 8
    let iq := f.x.toNat % 8
    h.octrl.vl ≠ 0 → fmtAt (mfcLreg m) = some lr → ldRefused m .index gll f.a.toNat = false → (gll = false → ne ≤ 256) →
    (gll = true → lm.width = 32 ∧ lr = .fp32) → (s.queue s.issue.core iq).heads s.cycle 1 = some [en] → indexOf en ne = some idx →
    s.destCheck h q h.octrl.vl ne (code + 256) 1 = .ok false →
    State.plan (s.who s.issue.core h) acc f.ord 1 (j.els h .index f lm.width idx (if mx then some (h.oa (mfcLsa m)) else none)) s 0 = (s1, items) →
    s1.vWaits f items = false → s1.farAsk h (itemOks items) = none → j.left items = [] →
    let brought := ((s1.deliver q { fmt := lr, cnt := ne, ne := ne, form := code + 256 } 1 (fun n e => e.fillWith (s1.loaded h items lm.width mx lr n)) false).readDone items).keepReads
      s1 h q (together gll f) (s1.rawsOf items)
    let linked := if gll then brought.modCur (fun h => { h with links := linksOf (items.filter (fun i => i.el.fl != 255)) }) else brought
    let last := (linked.deq iq 1).bump h f
    exec (if gll then .gll f else .vldx f) s
      = .next (if mx ∧ f.pi = 1 then last.wrA (mfcLsa m) (h.oa (mfcLsa m) + BitVec.ofNat 80 ((ne + 31) / 32)) else last)

/-- R158, R160, R172, R177, R185: a unit-stride, strided or segment store, or a microscaled unit-stride one, whose active elements all translate to places that answer at once sends the
converted bits of every active element, with the scale byte of each microscaled block, dequeues its drain entries and makes its post-increments: without .ord as one, with it element by
element, each with .rel after the one before it. -/
def Obligations.VectorStores : Prop :=
  ∀ (s s1 : State) (h : Hart) (f : LM) (form : VForm) (i : Instr) (sm : Fmt) (es : List Entry) (items : List Item), s.cur = some h →
    (form, i) ∈ [(VForm.unit, Instr.vst f), (.stride, .vsts f), (.seg, .vstseg f)] →
    let m := h.octrl.mfc
    let fN := segF form f
    let dq := 8 + f.t.toNat % 2
    let en := es.headD {}
    let mx := mfcSsc m == 1
    let j : VJob := { fmt := en.fmt, ne := en.cnt, fN := fN, mask := s.vmask h f false, fmts := if form = .seg then es.map (·.fmt) else [] }
    let seed := (s.core s.issue.core).pgseed
    let block (b : Nat) : Nat × List Nat := (if mx then mxBlocks h seed f en else []).getD b (0, [])
    let puts (x : Item) : List Put :=
      if x.el.fl = 255 then itemPuts x 8 (block (x.el.e / 32)).1 false
      else itemPuts x sm.width (if mx then (block (x.el.e / 32)).2.getD (x.el.e % 32) 0 else storeElem h seed (es.getD x.el.fl {}) x.el) ((es.getD x.el.fl {}).elem x.el.e).2
    fmtAt (mfcSmem m) = some sm → stRefused m form (form == .unit) f.a.toNat = false →
    (s.queue s.issue.core dq).heads s.cycle fN = some es → (form = .seg → en.cnt ≤ 256) → (mx = true → en.fmt = .fp32 ∨ en.fmt = .bf16 ∨ en.fmt = .fp16) →
    (∀ e ∈ es, (e.fmt = .bx ↔ sm = .bx) ∧ e.cnt = en.cnt) → (f.rel = false ∨ s.relReady h f.sc.toNat = true) →
    State.plan (s.who s.issue.core h) .store f.ord 1 (j.els h form f sm.width [] (if mx then some (h.oa (mfcSsa m)) else none)) s 0 = (s1, items) →
    (∀ x ∈ items, x.ok.isSome) → s1.farAsk h (itemOks items) = none → failures items = [] →
    let els := items.map (fun x => (puts x, x.away))
    let sent : State := if f.ord then (els.foldl (fun (t : (State × List Nat) × List Put) l => (t.1.1.sendAfter l.1 l.2 f.rel f.sc.toNat t.1.2 t.2, t.2 ++ l.1)) ((s1, []), [])).1.1
      else (s1.sendPuts (els.flatMap (·.1)) false).sendAway (els.flatMap (·.2))
    let t := (((sent.noteWrites s1 false f.acq).deq dq fN).bump h f)
    exec i s = .next (if mx = true ∧ f.pi = 1 then t.wrA (mfcSsa m) (h.oa (mfcSsa m) + BitVec.ofNat 80 ((en.cnt + 31) / 32)) else t)

/-- R161, R174, R177, R185, R188, R293: an indexed store takes its addresses from its index queue's head and dequeues it; SCC performs the elements whose links still hold and writes the others
into its mask register. Under .ord.rel at domain or system scope SCC performs one element and goes on with the next once that one is visible there.
The mask of SCC is the model's reading (log 49), and so is how its elements take their turns (log 52). -/
def Obligations.IndexedStores : Prop :=
  ∀ (s s1 : State) (h : Hart) (f : LM) (en ix : Entry) (idx : List Int) (items : List Item), s.cur = some h →
    let m := h.octrl.mfc
    let dq := 8 + f.t.toNat % 2
    let iq := f.x.toNat % 8
    let j : VJob := { fmt := en.fmt, ne := en.cnt, mask := s.vmask h f false }
    let seed := (s.core s.issue.core).pgseed
    let els (l : List Item) : List (List Put × List XOk) := l.map (fun x => (itemPuts x 32 (storeElem h seed en x.el) (en.elem x.el.e).2, x.away))
    fmtAt (mfcSmem m) = some .fp32 → mfcSrm m < 6 → mfcSsc m = 0 → en.fmt = .fp32 → en.cnt ≤ 256 →
    (s.queue s.issue.core dq).heads s.cycle 1 = some [en] → (s.queue s.issue.core iq).heads s.cycle 1 = some [ix] → indexOf ix en.cnt = some idx →
    (f.rel = false ∨ s.relReady h f.sc.toNat = true) → (∀ x ∈ items, x.ok.isSome ∧ x.el.fl ≠ 255) →
    failures items = [] →
    (State.plan (s.who s.issue.core h) .store f.ord 1 (j.els h .index f 32 idx none) s 0 = (s1, items) → s1.farAsk h (itemOks items) = none →
      exec (.vstx f) s = .next (((((s1.sendEls f false (els items)).noteWrites s1 false f.acq).deq dq 1).deq iq 1).bump h f))
    ∧ (State.plan (s.who s.issue.core h) .atomic f.ord 1 (j.els h .index f 32 idx none) s 0 = (s1, items) → mfcPck m ≠ 0 → s.issue.vec = false → stepwise f = false →
      let wins := sccWins s1 h items
      let doing := items.filter (fun x => wins.contains x.el.e)
      let sent := (s1.sendPuts ((els doing).flatMap (·.1)) true).sendAway ((els doing).flatMap (·.2))
      s1.ownPending (itemKeys doing) = false → s1.farAsk h (itemOks doing) = none →
      exec (.scc f) s = .next ((((((if anyAway items then sent.drawn else sent).noteWrites s1 false f.acq).deq dq 1).deq iq 1).wrK (mfcPck m)
        (j.partialMask ((j.actives.filter (fun e => !wins.contains e)).map (fun e => (e, 0))))).bump h f))
    ∧ (∀ i, mfcPck m ≠ 0 → s.issue.vec = false → stepwise f = true → s.vecNext f h false 1 j (s.vpendNow en idx) = .next s1 i → i.ok.isSome = true → i.away = [] →
      let won := (sccWins s1 h [i]).contains i.el.e
      let v : VPend := { s.vpendNow en idx with done := [{ e := i.el.e, wrote := won, grans := (linksOf [i]).map (·.2) }] }
      j.more v = true →
      exec (.scc f) s = .next ((if won then (s1.sendPuts (itemPuts i 32 (storeElem h (s1.core s1.issue.core).pgseed en i.el) (en.elem i.el.e).2) true).noteWrites s1 false f.acq else s1).modCur
        (fun h => { h with vpend := some v })))

/-- R173, R187, R293: a vector atomic performs its operation on every active element at its home, in order, dequeues both its queues, and where it returns puts the old words into one entry:
integer add and FP32 add, lesser, greater and exchange. Under .ord.rel at domain or system scope one that returns nothing performs one element and goes on with the next once that one is
visible there.
The order and the home moment are the model's reading (log 11, log 50), and so is how elements take their turns (log 52). -/
def Obligations.VectorAtomics : Prop :=
  ∀ (s s1 s2 : State) (h : Hart) (f : LM) (en ix : Entry) (idx : List Int) (items order : List Item), s.cur = some h → s.issue.vec = false →
    let ne := h.octrl.vl
    let dq := 8 + f.t.toNat % 2
    let iq := f.x.toNat % 8
    let j : VJob := { fmt := .fp32, ne := ne, mask := s.vmask h f false }
    (s.queue s.issue.core dq).heads s.cycle 1 = some [en] → (s.queue s.issue.core iq).heads s.cycle 1 = some [ix] → indexOf ix ne = some idx →
    en.fmt.width = 32 → en.cnt = ne → (f.rel = false ∨ s.relReady h f.sc.toNat = true) →
    let performs (code : Nat) (i : Instr) (op : Nat → Nat → Nat) : Prop :=
      (f.vret = true → s.destCheck h (f.t.toNat / 2 % 8) ne ne (code + 256) 1 = .ok false) →
      (stepwise f = false → vamoOrder f.ord (s1.readDone items) items = (s2, order) →
        State.plan (s.who s.issue.core h) .atomic f.ord 4 (j.els h .index f 32 idx none) s 0 = (s1, items) → (∀ x ∈ items, x.ok.isSome) → j.left items = [] →
        s1.vWaits f items = false → s1.farAsk h (itemOks items) = none →
        let run := order.foldl (fun (t : State × List (Nat × Nat × Bool)) x =>
          let r := t.1.vamoOne (x.ok.getD []) (en.elem x.el.e).1 (en.elem x.el.e).2 op
          (r.1, t.2 ++ [(x.el.e, r.2.1, r.2.2)])) (s2, [])
        let t := run.1.noteWrites s1 false f.acq
        let back := if f.vret then t.deliver (f.t.toNat / 2 % 8) { fmt := .fp32, cnt := ne, ne := ne, form := code + 256 } 1 (fun _ e => e.fillWith run.2) false else t
        exec i s = .next ((back.deq dq 1).deq iq 1))
      ∧ (∀ x, stepwise f = true → f.vret = false → s.vecNext f h true 4 j (s.vpendNow en idx) = .next s1 x → x.ok.isSome = true →
        let r := (s1.readDone [x]).vamoOne (x.ok.getD []) (en.elem x.el.e).1 (en.elem x.el.e).2 op
        let v : VPend := { s.vpendNow en idx with done := [{ e := x.el.e, old := r.2.1, bad := r.2.2 }] }
        j.more v = true → exec i s = .next ((r.1.noteWrites s1 false f.acq).modCur (fun h => { h with vpend := some v })))
    performs 0x28 (.vamoadd f) (fun old x => if f.vfp then rn32 (Val.sum [f32 old, f32 x]) else (old + x) % 2 ^ 32)
    ∧ performs 0x29 (.vamomin f) (fun old x => if f.vfp then fmin32 old x else amoPick f.vu true 32 old x)
    ∧ performs 0x2A (.vamomax f) (fun old x => if f.vfp then fmax32 old x else amoPick f.vu false 32 old x)
    ∧ performs 0x2B (.vamoswp f) (fun _ x => x)

/-- R183, R184: VPF only makes its post-increment. DRV of a view of one tag, of a row of whole blocks where that is BX, and of a length that is not 0 puts one visible entry with the active
cells of the view into its drain queue; a length of 0 has no effect. -/
def Obligations.DrainAndPrefetch : Prop :=
  ∀ (s : State) (h : Hart) (f : LM), s.cur = some h →
    exec (.vpf f) s = .next (s.bump h f)
    ∧ (let p := s.issue.core
       let x := s.vctx h h.octrl.vl
       let v := drvView f
       let dq := 8 + f.x.toNat % 8
       let near := x.groupsAt (vCols v x.len)
       (x.len = 0 → s.rowsLate p s.issue.slot h Flight.writes (vRows v x.len 1) near = false → exec (.drv f) s = .next s)
       ∧ ∀ t, x.len ≠ 0 → x.wide v = false → x.tags v 1 = [t] → (t = .bx → f.x.toNat / 8 = 0 ∧ x.len % 8 = 0) → x.len ≤ s.queueCells h dq →
        s.rowsLate p s.issue.slot h Flight.writes (vRows v x.len 1) near = false → s.rowsBusy p s.issue.slot (vRows v x.len 1) near = false →
        (s.queue p dq).room s.cycle ≠ 0 →
        let l := (List.range x.len).filter (fun j => (h.ok f.k.toNat).getLsbD j)
        exec (.drv f) s = .next (({ s with nextId := s.nextId + 1 } : State).setQueue p dq ((s.queue p dq).push s.cycle [{
          id := s.nextId, st := .visible, since := s.cycle, fmt := t.fmt, cnt := if t = .bx then x.len / 8 else x.len * t.n
          cells := l.map (fun j => (j, x.c.cell x.gs (vAt v 0 j).1 (vAt v 0 j).2))
          pois := BitVec.ofNat 256 (maskOf 256 (fun j => l.contains j && x.c.poison x.gs (vAt v 0 j).1 (vAt v 0 j).2)) }])))

/-- R163, R164: VLDC expands whole blocks of its stream until its element limit or byte budget is met, and ends without a trap where no fault stops it: one entry takes the elements it
delivered, if any, VL becomes their cells, and the budget register falls by the bytes it consumed; memory changes only where its table walks changed it. With VL = 0 only its post-increment
is made.
That it waits for room even where it delivers nothing is the model's reading (log 51), and so is that it reads its whole stream at the moment of its issue (log 11). -/
def Obligations.CompressedLoad : Prop :=
  ∀ (s : State) (h : Hart) (f : LM), s.cur = some h →
    let m := h.octrl.mfc
    let lr := (fmtAt (mfcLreg m)).getD .fp32
    let ne := h.octrl.vl * lr.perCell
    let j : VJob := { fmt := lr, ne := ne, mask := s.vmask h f true }
    let c := scan (s.who s.issue.core h) f (((fmtAt (mfcLmem m)).getD .fp32).width / 8) ne (h.og f.x.toNat).toNat (h.vbase f) (ne + 1) { s := s }
    let n := c.raw.length
    let vals := c.raw.zipIdx.filterMap (fun q =>
      if j.active 0 q.2 then some (q.2, if q.1.2 then poisonVal lr else loadElem h (c.s.core c.s.issue.core).pgseed q.1.1 q.2 none, q.1.2) else none)
    let s1 := (c.s.verify (granules c.ks)).noteSeen c.ks
    let raws : List VRaw := (c.raw.zip c.oks).zipIdx.filterMap (fun q =>
      if j.active 0 q.2 then some { e := q.2, fl := 0, bo := 0, bytes := leBytes q.1.2.length q.1.1.1, bad := q.1.1.2, oks := q.1.2 } else none)
    let s2 := if n = 0 then s1
      else (s1.deliver (f.t.toNat % 8) { fmt := lr, cnt := n, ne := ne, form := 0x114 } 1 (fun _ e => e.fillWith vals) false).keepReads s1 h (f.t.toNat % 8) true raws
    let t := ((s2.modCtrl (fun q => { q with vl := (n + lr.perCell - 1) / lr.perCell })).wrG f.x.toNat (h.og f.x.toNat - BitVec.ofNat 64 c.u)).bump h f c.u
    (h.octrl.vl = 0 → exec (.vldc f) s = .next (s.bump h f))
    ∧ (h.octrl.vl ≠ 0 → ldRefused m .stride false f.a.toNat = false → s.destCheck h (f.t.toNat % 8) h.octrl.vl ne 0x114 1 = .ok false → c.wait = false → c.fault = none →
        c.s.farAsk h c.oks.flatten = none →
        exec (.vldc f) s = .next t ∧ t.mem = c.s.mem ∧ t.issue = c.s.issue)

/-- R26, R255 to R258, R260: elementwise arithmetic, sub-element by sub-element, exact or rounded once, with the OR of the sources' poison. -/
def Obligations.VectorArithmetic : Prop :=
  ∀ (s : State) (h : Hart) (f : VV) (t : Tag), s.cur = some h →
    let va := vw f.vs1
    let vb := vw f.vs2
    let sub (c : Cell) (i : Nat) : Nat := (subs t c).getD i 0
    let does (nb nd : Bool) (g : VCtx → Nat → Nat → Nat → Nat → Nat) (i : Instr) : Prop :=
      s.elementwise h f t tagA (if nb then [va, vb] else [va]) nd false (fun x off b j =>
        let a := x.src va t b off j
        let y := if nb then x.src vb t b off j else (0, false)
        let d := if nd then x.src (vw f.vd) t b off j else (0, false)
        (join t ((List.range t.n).map (fun n => g x (x.pep (vw f.vd) t b j n) (sub a.1 n) (sub y.1 n) (sub d.1 n))), a.2 || y.2 || d.2)) i
    let num (gf : Val → Val → Val → Val) (gi : Int → Int → Int → Int) (x : VCtx) (p a b d : Nat) : Nat :=
      if t.fmt.isInt then narrowInt t.fmt (Sat f) (gi (si t a) (si t b) (si t d)) else wr x f t p (gf (rd x t a) (rd x t b) (rd x t d))
    let exact (gf : Fmt → Nat → Nat → Nat) (gi : Int → Int → Int) (_ : VCtx) (_ a b _ : Nat) : Nat :=
      if t.fmt.isInt then narrowInt t.fmt (Sat f) (gi (si t a) (si t b)) else gf t.fmt (ftzBits t.fmt h.octrl.ftz a) (ftzBits t.fmt h.octrl.ftz b)
    does true false (num (fun a b _ => Val.sum [a, b]) (fun a b _ => a + b)) (.vadd f)
    ∧ does true false (num (fun a b _ => Val.sum [a, b.neg]) (fun a b _ => a - b)) (.vsub f)
    ∧ does true false (num (fun a b _ => a.mul b) (fun a b _ => a * b)) (.vmul f)
    ∧ does true true (num (fun a b d => Val.sum [a.mul b, d]) (fun a b d => a * b + d)) (.vfma f)
    ∧ does true true (num (fun a b d => Val.sum [a.mul b, d.neg]) (fun a b d => a * b - d)) (.vfms f)
    ∧ does true true (num (fun a b d => Val.sum [d, (a.mul b).neg]) (fun a b d => d - a * b)) (.vfnma f)
    ∧ does true false (exact minBits (fun a b => min a b)) (.vmin f) ∧ does true false (exact maxBits (fun a b => max a b)) (.vmax f)
    ∧ does false false (exact (fun m a _ => absBits m a) (fun a _ => a.natAbs)) (.vabs f)
    ∧ does false false (exact (fun m a _ => negBits m a) (fun a _ => -a)) (.vneg f)

/-- R261 to R263: bitwise operations on whole cells, shifts of integer sub-elements by the low log2(w) bits of the second source, and the float-only slots. -/
def Obligations.VectorBitsAndFloats : Prop :=
  ∀ (s : State) (h : Hart) (f : VV) (t : Tag), s.cur = some h →
    let va := vw f.vs1
    let vb := vw f.vs2
    let w := t.fmt.width
    let sub (c : Cell) (i : Nat) : Nat := (subs t c).getD i 0
    let bits (g : Cell → Cell → Cell) (i : Instr) : Prop :=
      s.elementwise h f t tagC [va, vb] false false (fun x off b j => (g (x.src va t b off j).1 (x.src vb t b off j).1, (x.src va t b off j).2 || (x.src vb t b off j).2)) i
    let each (acc : Tag → Bool) (nb : Bool) (g : VCtx → Nat → Nat → Nat → Nat) (i : Instr) : Prop :=
      s.elementwise h f t acc (if nb then [va, vb] else [va]) false false (fun x off b j =>
        let a := x.src va t b off j
        let y := if nb then x.src vb t b off j else (0, false)
        (join t ((List.range t.n).map (fun n => g x (x.pep (vw f.vd) t b j n) (sub a.1 n) (sub y.1 n))), a.2 || y.2)) i
    let sh (g : Nat → Nat → Int) (i : Instr) : Prop := each tagI true (fun _ _ a b => (g a (b % w) % (2 ^ w : Nat)).toNat) i
    bits (· &&& ·) (.vand f) ∧ bits (· ||| ·) (.vor f) ∧ bits (· ^^^ ·) (.vxor f)
    ∧ sh (fun a n => (a * 2 ^ n : Nat)) (.vshl f) ∧ sh (fun a n => (a / 2 ^ n : Nat)) (.vshr f) ∧ sh (fun a n => (sintOf w a).fdiv (2 ^ n : Nat)) (.vsra f)
    ∧ each tagF false (fun x _ a _ => ftzBits t.fmt h.octrl.ftz (convert (rcpSeed (rd x t a)) t.fmt .rne false 0)) (.vrcpe f)
    ∧ each tagF false (fun x _ a _ => ftzBits t.fmt h.octrl.ftz (convert (rsqSeed (rd x t a)) t.fmt .rne false 0)) (.vrsqe f)
    ∧ each tagF false (fun x _ a _ => convert (getExp (rd x t a)) t.fmt .rne false 0) (.vgetexp f)
    ∧ each tagF true (fun x p a b => wr x f t p (scaleB (rd x t a) (rd x t b))) (.vscaleb f)
    ∧ each tagF false (fun x p a _ => ftzBits t.fmt h.octrl.ftz (t.fmt.finish .rne false (rintVal (rd x t a) (Rm f) p))) (.vrint f)

/-- R266, R267: moves and permutes by cell. VSEL and VZERO write every cell that they name, inactive ones too where the rule says so. -/
def Obligations.VectorMoves : Prop :=
  ∀ (s : State) (h : Hart) (f : VV) (t : Tag), s.cur = some h →
    let va := vw f.vs1
    let vb := vw f.vs2
    let vd := vw f.vd
    let k := h.ok f.k.toNat
    let moves (acc : Tag → Bool) (lat hold : Nat) (nb lim : Bool) (i : Instr) (go : List Nat → Nat → (Nat → Cell × Bool) → (Nat → Cell × Bool) → List (Nat × Cell × Bool)) : Prop :=
      let srcs := va :: (if nb then [vb] else [])
      let x := s.vIn h srcs
      let puts (off : Nat) : List (Nat × Nat × Cell × Bool) :=
        (go ((List.range x.len).filter (fun j => k.getLsbD j)) x.len (x.src va t 0 off) (if nb then x.src vb .i32 0 off else fun _ => (0, false))).map
          (fun q => ((vAt vd 0 q.1).1, (vAt vd 0 q.1).2, q.2))
      let near := x.groupsAt ((vd :: srcs).flatMap (fun v => vCols v x.len))
      s.vFree h srcs (some vd) (srcs.flatMap (fun v => vRows v x.len 1)) (vRows vd x.len 1) near → x.probe (srcs ++ [vd]) 1 = none →
      (nb = true → ∀ o, x.srcTag vb 1 = some o → o = some .i32) → tagEq acc [x.srcTag va 1] (x.dstTag vd 1) = .ok t → (lim = true → f.imm.toNat < t.n * x.len) →
      (x.mir ≠ 0 → puts x.mir = puts 0) → (x.len = 0 → puts 0 = []) → exec i s = .next (s.vWrites x t srcs vd lat hold (vRows vd x.len 1) near (puts 0))
    s.elementwise h f t tagAny [va, vb] false true (fun x off b j => if k.getLsbD j then x.src va t b off j else x.src vb t b off j) (.vsel f)
    ∧ s.elementwise h f t tagAny [va] false false (fun x off b j => x.src va t b off j) (.vmov f)
    ∧ s.elementwise h f t tagAny [] false false (fun _ _ _ _ => (0, false)) (.vzero f)
    ∧ moves tagC 4 1 false true (.vbcast f) (fun act _ a _ =>
        act.map (fun j => (j, join t (List.replicate t.n ((subs t (a (f.imm.toNat / t.n)).1).getD (f.imm.toNat % t.n) 0)), (a (f.imm.toNat / t.n)).2)))
    ∧ moves tagC 6 2 true false (.vperm f) (fun act len a b => act.map (fun j => if 0 ≤ (b j).1.toInt ∧ (b j).1.toInt < len then (j, a (b j).1.toInt.toNat) else (j, 0, false)))
    ∧ moves tagC 4 1 false false (.vrot f) (fun act len a _ => act.map (fun j => (j, a ((j + f.imm.toNat) % len))))
    ∧ moves tagC 6 2 false false (.vcompress f) (fun act len a _ => (List.range len).map (fun j => match act[j]? with | some i => (j, a i) | none => (j, 0, false)))
    ∧ moves tagC 6 2 false false (.vexpand f) (fun act _ a _ => act.zipIdx.map (fun q => (q.1, a q.2)))

/-- R264, R265, R268, R269: compares and mask instructions write their mask register at their write cycle; GXPOSE transposes a block in place; VTAG sets the tag of a band; KPOP and
KFIRST write one number into element 0. -/
def Obligations.MasksTagsAndTranspose : Prop :=
  ∀ (s : State) (h : Hart) (f : VV) (t : Tag), s.cur = some h →
    let va := vw f.vs1
    let vb := vw f.vs2
    let k := h.ok f.k.toNat
    let kd := f.imm.toNat % 8
    let x0 := s.vIn h []
    let mask (i : Instr) (srcs : List View) (acc : Tag → Bool) (lat : Nat) (bit : VCtx → Nat → Nat → Bool) : Prop :=
      let x := s.vIn h srcs
      let near := x.groupsAt (srcs.flatMap (fun v => vCols v x.len))
      let m (off : Nat) : Mask := BitVec.ofNat 256 (maskOf 256 (fun j => decide (j < x.len) && k.getLsbD j && bit x off j))
      s.vFree h srcs none (srcs.flatMap (fun v => vRows v x.len 1)) [] near → x.probe srcs 1 = none → tagEq acc (srcs.map (fun v => x.srcTag v 1)) none = .ok t →
      (x.mir ≠ 0 → m x.mir = m 0) →
      exec i s = .next (s.vTaken srcs lat 1 [] near (if kd = 0 then [] else [Dep.k kd]) { gs := x.gs, masks := [(kd, m 0)] })
    let cmp (i : Instr) (acc : Tag → Bool) (c : VCtx → Nat → Nat → Bool) : Prop :=
      mask i [va, vb] acc 3 (fun x off j => ((subs t (x.src va t 0 off j).1).zip (subs t (x.src vb t 0 off j).1)).all (fun q => c x q.1 q.2))
    let num (gf : Val → Val → Bool) (gi : Int → Int → Bool) (x : VCtx) (a b : Nat) : Bool := if t.fmt.isInt then gi (si t a) (si t b) else gf (rd x t a) (rd x t b)
    let whole (i : Instr) (m : Mask) : Prop :=
      s.vFree h [] none [] [] [] → exec i s = .next (s.vTaken [] 3 1 [] [] (if kd = 0 then [] else [Dep.k kd]) { gs := x0.gs, masks := [(kd, m)] })
    let k1 := h.ok (f.imm.toNat / 8 % 8)
    let k2 := h.ok (f.fx.toNat % 8)
    let count (i : Instr) (n : Int) : Prop :=
      let at_ := vAt (vw f.vd) 0 0
      let near := x0.groupsAt [at_.2]
      let y : VCtx := { x0 with len := min x0.len 1 }
      x0.len ≠ 0 → vIsGrid (vw f.vd) = true → s.vFree h [] (some (vw f.vd)) [] [at_.1] near → y.probe [vw f.vd] 1 = none → y.dstTag (vw f.vd) 1 = some t → (t = .f32 ∨ t = .i32) →
      exec i s = .next (s.vWrites x0 t [] (vw f.vd) 4 1 [at_.1] near
        [(at_.1, at_.2, BitVec.ofNat 32 (if t = .i32 then narrowInt .i32 false n else rn32 (Val.ofDy ⟨n, 0⟩)), false)])
    let set : List Nat := (List.range x0.len).filter (fun j => k1.getLsbD j)
    cmp (.vcmpeq f) tagA (num (fun a b => !a.isNaN && !b.isNaN && a.eqv b) (· == ·))
    ∧ cmp (.vcmpne f) tagA (num (fun a b => !(!a.isNaN && !b.isNaN && a.eqv b)) (· != ·))
    ∧ cmp (.vcmplt f) tagA (num (fun a b => !a.isNaN && !b.isNaN && a.lt b) (fun a b => decide (a < b)))
    ∧ cmp (.vcmple f) tagA (num (fun a b => !a.isNaN && !b.isNaN && !b.lt a) (fun a b => decide (a ≤ b)))
    ∧ cmp (.vcmpltu f) tagI (fun _ a b => decide (a < b)) ∧ cmp (.vcmpleu f) tagI (fun _ a b => decide (a ≤ b))
    ∧ mask (.kpois f) [va] tagAny 3 (fun x off j => (x.src va t 0 off j).2)
    ∧ whole (.kand f) (k1 &&& k2) ∧ whole (.kor f) (k1 ||| k2) ∧ whole (.kxor f) (k1 ^^^ k2) ∧ whole (.knot f) (~~~k1) ∧ whole (.kmov f) k1
    ∧ count (.kpop f) set.length ∧ count (.kfirst f) (match set with | [] => -1 | j :: _ => j)
    ∧ (∀ i, vw f.vd = .row i →
        s.vFree h [] none [] (bandRows i) (if x0.len = 0 then [] else x0.gs) →
        exec (.vtag f) s = .next (if x0.len = 0 then s.vTaken [] 4 1 [] [] [] { gs := x0.gs }
          else s.vTaken [] 4 1 (bandRows i) x0.gs [] { gs := x0.gs, tags := [(i, (Tag.ofCode (f.imm.toNat % 16)).getD .f32)] }))
    ∧ (∀ i j, vw f.vd = .row i → va = .col j → x0.len ≠ 0 → j + x0.len ≤ x0.width → i + x0.len ≤ 256 →
        (∀ a < x0.len, x0.c.tag x0.gs (i + a) = t) → (t = .f32 ∨ t = .i32) →
        let rows : List Nat := (List.range x0.len).map (· + i)
        let near := x0.groupsAt ((List.range x0.len).map (· + j))
        let puts (off : Nat) : List (Nat × Nat × Cell × Bool) := (List.range x0.len).flatMap (fun a => (List.range x0.len).map (fun b =>
          (i + a, j + b, x0.c.cell x0.gs (i + b) (j + a + off), x0.c.poison x0.gs (i + b) (j + a + off))))
        s.vFree h [] none rows rows near → (x0.mir ≠ 0 → puts x0.mir = puts 0) →
        exec (.gxpose f) s = .next (s.vTaken [] (x0.len + 4) x0.len rows near [] { gs := x0.gs, puts := x0.mirrored (puts 0) }))

/-- R270, R271: a reduction writes one sub-element of its destination from the sub-elements of the active source cells, all exact or, for VRSUM, rounded once; the rest of the cell stays. -/
def Obligations.VectorReductions : Prop :=
  ∀ (s : State) (h : Hart) (f : VV) (t : Tag), s.cur = some h →
    let va := vw f.vs1
    let vd := vw f.vd
    let e := f.imm.toNat
    let x := s.vIn h [va]
    let j := e / t.n
    let at_ := vAt vd 0 j
    let near := x.groupsAt (vCols va x.len ++ vCols vd x.len)
    let does (i : Instr) (acc : Tag → Bool) (g : Nat → List Nat → Nat) : Prop :=
      let act := (List.range x.len).filter (fun j => (h.ok f.k.toNat).getLsbD j)
      let cell (off : Nat) : Nat × Nat × Cell × Bool :=
        let src := act.map (fun j => x.src va t 0 off j)
        let old := x.src vd t 0 off j
        (at_.1, at_.2, putSub t old.1 (e % t.n) (g (x.pep vd t 0 j (e % t.n)) (src.flatMap (fun q => subs t q.1))), src.any (·.2) || (decide (1 < t.n) && old.2))
      vIsGrid vd = true → x.len ≠ 0 → s.vFree h [va] (some vd) (vRows va x.len 1 ++ vRows vd x.len 1) [at_.1] near → x.probe [va, vd] 1 = none →
      tagEq acc [x.srcTag va 1] (x.dstTag vd 1) = .ok t → e < t.n * x.len → (x.mir ≠ 0 → cell x.mir = cell 0) →
      exec i s = .next (s.vWrites x t [va] vd 8 1 [at_.1] near [cell 0])
    let exact (startF : Val) (gf : List Val → Val) (startI : Int) (gi : List Int → Int) (_ : Nat) (l : List Nat) : Nat :=
      if t.fmt.isInt then narrowInt t.fmt false (if l.isEmpty then startI else gi (l.map (si t)))
      else t.fmt.finish .rne false (if (l.map (rd x t)).any Val.isNaN then .nan else if l.isEmpty then startF else gf (l.map (rd x t)))
    does (.vrsum f) tagA (fun p l => if t.fmt.isInt then narrowInt t.fmt (Sat f) ((l.map (si t)).foldl (· + ·) 0) else wr x f t p (Val.sum (l.map (rd x t))))
    ∧ does (.vrmax f) tagA (exact (.inf true) (fun v => pick Val.ltSigned (v.headD .nan) v) t.fmt.intMin (fun v => pick (fun a b => decide (a < b)) (v.headD 0) v))
    ∧ does (.vrmin f) tagA (exact (.inf false) (fun v => pick (fun a b => b.ltSigned a) (v.headD .nan) v) t.fmt.intMax (fun v => pick (fun a b => decide (b < a)) (v.headD 0) v))
    ∧ does (.vramax f) tagA (exact (.fin false 0 0) (fun v => pick Val.lt (.fin false 0 0) (v.map Val.abs)) 0
        (fun v => min t.fmt.intMax (pick (fun a b => decide (a < b)) 0 (v.map (fun i => (i.natAbs : Int))))))
    ∧ does (.vrexp f) tagF (exact (.inf true) maxExp 0 (fun _ => 0))

/-- R273 to R276: a conversion writes the elements of its rows, rounded or widened, and sets the tags of their bands; poison is the OR of the cells that feed a cell. -/
def Obligations.VectorConversions : Prop :=
  ∀ (s : State) (h : Hart) (f : VV) (t : Tag), s.cur = some h →
    let va := vw f.vs1
    let vb := vw f.vs2
    let d := rowOf f.vd
    let m := fxOf f
    let does (i : Instr) (srcs : List View) (blk : Nat) (rows : List Nat) (target : Tag) (lat hold : Nat) (ok : Tag → Bool)
        (pick : VCtx → Nat → Nat → Nat → Nat → Nat × Bool) : Prop :=
      let all := srcs ++ rows.map View.row
      let x := s.vIn h all
      let band := (rows.flatMap bandRows).eraseDups
      let puts (off : Nat) : List (Nat × Nat × Cell × Bool) := rows.flatMap (fun r => (List.range x.len).map (fun c =>
        let l := (List.range target.n).map (fun n => (n, pick x off r c n))
        (r, c, join target (l.map (fun q => convert (t.fmt.decode q.2.1) target.fmt (Rm f) (Sat f) (x.pep (.row r) target 0 c q.1))), l.any (fun q => q.2.2))))
      x.len ≠ 0 → s.vFree h all none (srcs.flatMap (fun v => vRows v x.len blk)) band x.gs → x.probe all 1 = none → tagEq ok (srcs.map (fun v => x.srcTag v blk)) none = .ok t →
      (x.mir ≠ 0 → puts x.mir = puts 0) →
      exec i s = .next (s.vTaken all lat hold band x.gs [] { gs := x.gs, puts := x.mirrored (puts 0), tags := rows.map (fun r => (r, target)) })
    let n := (tagOfFmt m).n
    does (.cvtN f) [va, vb] 1 [d] (tagOfFmt m) 4 1 (narrowPair m) (fun x off _ c i =>
      let e := c * n + i
      if e < x.len * t.n then x.elem va t off e else x.elem vb t off (e - x.len * t.n))
    ∧ does (.cvtW f) [va] 1 [d, d + 1] (tagOfFmt m) 5 2 (widenPair m) (fun x off r c i => x.elem va t off ((if r = d then 0 else x.len * n) + c * n + i))
    ∧ does (.cvtF4 f) [va] 8 [d] .f4x8 6 2 (· == .f32) (fun x off _ c i =>
        let y := x.src va t ((c * 8 + i) / x.len) off ((c * 8 + i) % x.len)
        (y.1.toNat, y.2))
    ∧ does (.cvtI f) [va] 1 [d] .i32 4 1 (· == .f32) (fun x off _ c _ => x.elem va t off c)
    ∧ does (.cvtF f) [va] 1 [d] .f32 4 1 (· == .i32) (fun x off _ c _ => x.elem va t off c)

/-- R278, R279: VQUANT scales blocks of 32 elements, writes the quantised row and its tag, and one scale byte for each block into its half of vsc; SETSC copies sub-elements into vsc. -/
def Obligations.QuantiseAndScales : Prop :=
  ∀ (s : State) (h : Hart) (f : VV), s.cur = some h →
    let va := vw f.vs1
    let st := f.imm.toNat
    let x := s.vIn h [va]
    (∀ t, s.vFree h [va] none (vRows va x.len 1) [] (x.groupsAt (vCols va x.len)) → x.probe [va] 1 = none → tagEq tagI [x.srcTag va 1] none = .ok t → st + t.n * x.len ≤ 256 →
      let out (off : Nat) : List (Nat × Byte) := ((List.range x.len).filter (fun j => (h.ok f.k.toNat).getLsbD j)).flatMap (fun j =>
        (subs t (x.src va t 0 off j).1).zipIdx.map (fun q => (vscBase f.vd + st + j * t.n + q.2, BitVec.ofNat 8 q.1)))
      (x.mir ≠ 0 → out x.mir = out 0) →
      exec (.setsc f) s = .next (s.vTaken [va] 2 1 [] (x.groupsAt (vCols va x.len)) (if (out 0).isEmpty then [] else [Dep.vsc]) { gs := x.gs, vsc := out 0 }))
    ∧ (∀ t : Tag, let r := rowOf f.vd
      let m := fxOf f
      let target := tagOfFmt m
      let n := target.n
      t = .f32 → x.len ≠ 0 → s.vFree h [va] (some (.row r)) (vRows va x.len 1) (bandRows r) x.gs → x.probe [va, .row r] 1 = none → tagEq (· == .f32) [x.srcTag va 1] none = .ok t →
      st + (x.len + 31) / 32 ≤ 256 →
      let block (off b : Nat) : Nat × List Nat × Bool :=
        let l := (((List.range x.len).map (fun j => x.src va .f32 0 off j)).drop (32 * b)).take 32
        let q := mxQuant (l.map (fun y => if y.2 then Fmt.fp32.canonNaN else y.1.toNat) ++ List.replicate (32 - l.length) 0) m (Rm f)
          (fun i => x.pep (.row r) target 0 ((32 * b + i) / n) ((32 * b + i) % n))
        (q.1, q.2.take l.length, l.any (·.2))
      let blocks (off : Nat) := (List.range ((x.len + 31) / 32)).map (block off)
      let puts : List (Nat × Nat × Cell × Bool) := (List.range ((x.len + n - 1) / n)).map (fun c =>
        (r, c, join target ((List.range n).map (fun i => ((blocks 0).flatMap (fun q => q.2.1)).getD (c * n + i) 0)), ((blocks 0).getD (c * n / 32) (0, [], false)).2.2))
      (x.mir ≠ 0 → blocks x.mir = blocks 0) →
      exec (.vquant f) s = .next (s.vTaken [va] 8 2 (bandRows r) x.gs [Dep.vsc]
        { gs := x.gs, puts := x.mirrored puts, tags := [(r, target)],
          vsc := (blocks 0).zipIdx.map (fun q => (vscBase f.vs2 + st + q.2, BitVec.ofNat 8 q.1.1)) }))

/-- R272, R280, R281: BX elements of eight cells each: added, brought to another anchor, made empty, rounded to a format, and accumulated into exactly.
That addends are taken in ascending order is the model's reading, which changes no bit (log 27). -/
def Obligations.BxInstructions : Prop :=
  ∀ (s : State) (h : Hart) (f : VV) (t : Tag), s.cur = some h →
    let va := vw f.vs1
    let ra := rowOf f.vs1
    let rb := rowOf f.vs2
    let r := rowOf f.vd
    let near (x : VCtx) (srcs : List View) : List Nat := x.groupsAt (srcs.flatMap (fun v => vCols v x.len) ++ List.range x.len)
    let puts (x : VCtx) (el : Nat → BitVec 256 × Bool) : List (Nat × Nat × Cell × Bool) := (List.range (x.len / 8)).flatMap (fun m => bxPuts r m (el m).1 (el m).2)
    let each (i : Instr) (srcs : List View) (dst : Bool) (el : VCtx → Nat → Nat → BitVec 256 × Bool) (ok : VCtx → Nat → Nat → Prop) (tag : Bool) : Prop :=
      let x := s.vIn h (srcs ++ [.row r])
      let g := if tag then x.gs else near x srcs
      let rows := if tag then bandRows r else [r]
      x.len ≠ 0 → x.len % 8 = 0 → s.vFree h (srcs ++ [.row r]) none (srcs.flatMap (fun v => vRows v x.len 1)) rows g → x.probe (srcs ++ [.row r]) 1 = none →
      tagEq (· == .bx) (srcs.map (fun v => x.srcTag v 1)) (if dst then x.dstTag (.row r) 1 else none) = .ok t →
      (∀ m < x.len / 8, ok x 0 m ∧ ok x x.mir m) → (x.mir ≠ 0 → puts x (el x x.mir) = puts x (el x 0)) →
      exec i s = .next (s.vTaken (srcs ++ [.row r]) 6 1 rows g [] { gs := x.gs, puts := x.mirrored (puts x (el x 0)), tags := if tag then [(r, .bx)] else [] })
    let anchor := match vw f.vs2 with | .g n => sintOf 16 (h.og n).toNat | _ => 0
    each (.bxadd f) [va, vw f.vs2] true (fun x off m => (((Bx.ofBits (x.bx ra off m).1).add (Bx.ofBits (x.bx rb off m).1)).toBits, (x.bx ra off m).2 || (x.bx rb off m).2))
      (fun x off m => (Bx.ofBits (x.bx ra off m).1).a = (Bx.ofBits (x.bx rb off m).1).a) false
    ∧ each (.bxanch f) [va] true (fun x off m => (((Bx.ofBits (x.bx ra off m).1).reanchor anchor).toBits, (x.bx ra off m).2)) (fun x off m => (Bx.ofBits (x.bx ra off m).1).a ≤ anchor) false
    ∧ each (.bxanchI f) [] false (fun _ _ _ => ((Bx.empty anchor).toBits, false)) (fun _ _ _ => True) true
    ∧ (let x := s.vIn h [va, .row r]
       let target := tagOfFmt (fxOf f)
       let n := target.n
       let cells (off : Nat) : List (Nat × Nat × Cell × Bool) := (List.range ((x.len / 8 + n - 1) / n)).map (fun c =>
         let old := x.src (.row r) target 0 off c
         let l := (List.range n).map (fun i => if c * n + i < x.len / 8
           then ((Bx.ofBits (x.bx ra off (c * n + i)).1).toFmt target.fmt (Rm f) (Sat f) (x.pep (.row r) target 0 c i), (x.bx ra off (c * n + i)).2)
           else ((subs target old.1).getD i 0, old.2))
         (r, c, join target (l.map (·.1)), l.any (·.2)))
       x.len ≠ 0 → x.len % 8 = 0 → s.vFree h [va, .row r] none (vRows va x.len 1) (bandRows r) x.gs → x.probe [va, .row r] 1 = none →
       tagEq (· == .bx) [x.srcTag va 1] none = .ok t → (x.mir ≠ 0 → cells x.mir = cells 0) →
       exec (.bxcvt f) s = .next (s.vTaken [va, .row r] 6 1 (bandRows r) x.gs [] { gs := x.gs, puts := x.mirrored (cells 0), tags := [(r, target)] }))
    ∧ (let x := s.vIn h [va]
       let act := (List.range x.len).filter (fun j => (h.ok f.k.toNat).getLsbD j)
       let src (off : Nat) : List (Cell × Bool) := act.map (fun j => x.src va t 0 off j)
       let into (b : BitVec 256) (l : List Val) : BitVec 256 := (l.foldl Bx.addReal (Bx.ofBits b)).toBits
       let vals (c : Cell) : List Val := (subs t c).map t.fmt.decode
       x.probe [va] 1 = none → (x.dstTag (.row r) 1 = none ∨ x.dstTag (.row r) 1 = some .bx) →
       (let m := f.imm.toNat
        let near := x.groupsAt (vCols va x.len ++ [8 * m])
        let one (off : Nat) := bxPuts r m (into (x.bx r off m).1 ((src off).flatMap (fun y => vals y.1))) ((x.bx r off m).2 || (src off).any (·.2))
        x.len ≠ 0 → 8 * m + 7 < x.width → s.vFree h [va] none (vRows va x.len 1 ++ [r]) [r] near → tagEq (fun t => tagF t || t == .i32) [x.srcTag va 1] none = .ok t →
        (x.mir ≠ 0 → one x.mir = one 0) → exec (.vrbx f) s = .next (s.vTaken [va] 10 2 [r] near [] { gs := x.gs, puts := x.mirrored (one 0) }))
       ∧ (let rows : List Nat := (List.range 8).map (· + r)
          let near := x.groupsAt (vCols va x.len ++ List.range x.len)
          let all (off : Nat) := act.flatMap (fun j => let y := x.src va t 0 off j
            bxPuts (r + j % 8) (j / 8) (into (x.bx (r + j % 8) off (j / 8)).1 (vals y.1)) ((x.bx (r + j % 8) off (j / 8)).2 || y.2))
          s.vFree h [va] none (vRows va x.len 1 ++ rows) rows near → tagEq (fun t => t == .f32 || t == .i32) [x.srcTag va 1] none = .ok t →
          (x.mir ≠ 0 → all x.mir = all 0) →
          exec (.bxacc f) s = .next (s.vTaken [va] 10 2 (if (all 0).isEmpty then [] else rows) near [] { gs := x.gs, puts := x.mirrored (all 0) })))


/-- R212, R222, R229 to R232: an update whose heads are there in the formats it names, on rows of its tag that nothing else writes, dequeues both heads and is in flight until its write
cycle, with its operands, its scales and its footprint; at length 0 it only dequeues.
What one cell of its write cycle writes: its new value, in FP32 or modulo 2^32, and its poison, which the operands' cells bring; in protected mode its mirror has both; no other cell
of the grid, no tag, queue or register of the core. A whole write cycle counts one update in U and the formats in FMTSEEN. -/
def Obligations.MatrixUpdates : Prop :=
  (∀ (s : State) (h : Hart) (f : MU) (ea eb : Entry), s.cur = some h →
    let p := s.issue.core
    let x := s.vctx h h.mLen
    let rows : List Nat := (mRows f.hs.toNat x.len).map (·.1)
    let near := x.groupsAt (List.range x.len)
    (s.queue p f.qa.toNat).heads s.cycle 1 = some [ea] → (s.queue p f.qb.toNat).heads s.cycle 1 = some [eb] → x.c.mUntil ≤ s.cycle →
    s.rowsLate p s.issue.slot h (fun g => g.writes && !g.isUpdate) rows near = false → s.rowsBusy p s.issue.slot rows near = false → x.len ≤ x.width →
    (∀ r ∈ rows, x.c.tag x.gs r = mTag f) → ea.fmt = mFmtA f → eb.fmt = mFmtB f →
    let t := s.popAll p [f.qa.toNat, f.qb.toNat]
    let done (zero scaled : Bool) : Out := .next (if x.len = 0 then t else
      { t.modCore p (·.takeM s.cycle (if f.fa = 0 then 4 else 1)
          [{ id := t.nextId, slot := s.issue.slot, due := s.cycle + 4, rows := halfRows f.hs.toNat, foot := rows, groups := near,
             eff := .m { f := f, zero := zero, scaled := scaled, len := x.len, ea := ea, eb := eb, vsc := h.vsc, gs := x.gs, mir := x.mir } }]) with nextId := t.nextId + 1 })
    exec (.mop f) s = done false false ∧ exec (.mopS f) s = done false true ∧ exec (.mopZ f) s = done true false ∧ exec (.mopZs f) s = done true true)
  ∧ (∀ (e : MEff) (i ca j : Nat) (c : Core) (k : Colo),
    let r := (e.cell i ca j c k).1
    let a := (subsOf (mFmtA e.f).perCell (mFmtA e.f).width (e.ea.cell ca).toNat).map (mFmtA e.f).decode
    let b := (subsOf (mFmtB e.f).perCell (mFmtB e.f).width (e.eb.cell j).toNat).map (mFmtB e.f).decode
    let start : Cell := if e.zero then 0 else c.cell e.gs i j
    let new : Cell := if mTag e.f = .f32 then BitVec.ofNat 32 (updateF32 start.toNat a b
        (if e.scaled then (tget 0x7F e.vsc i).toNat else 127) (if e.scaled then (tget 0x7F e.vsc (256 + j)).toNat else 127))
      else BitVec.ofInt 32 (start.toInt + ((a.zip b).map (fun q => q.1.dy.m * q.2.dy.m)).sum)
    let bad := c.poison e.gs i j || e.ea.poison ca || e.eb.poison j
    ((mTag e.f = .i32 → (mFmtA e.f).isInt = true ∧ (mFmtB e.f).isInt = true) →
      r.cell e.gs i j = new ∧ r.poison e.gs i j = bad ∧ (e.mir ≠ 0 → r.cell e.gs i (j + e.mir) = new ∧ r.poison e.gs i (j + e.mir) = bad))
    ∧ (∀ n, n ≠ cellKey i (c.col e.gs j) → (e.mir ≠ 0 → n ≠ cellKey i (c.col e.gs (j + e.mir))) →
        tget 0 r.grid n = tget 0 c.grid n ∧ tget false r.pois n = tget false c.pois n)
    ∧ r.tags = c.tags ∧ r.q = c.q ∧ r.fifo = c.fifo ∧ r.harts = c.harts ∧ r.lmap = c.lmap ∧ r.lat = c.lat ∧ r.pgseed = c.pgseed ∧ r.frq = c.frq ∧ r.flight = c.flight)
  ∧ (∀ (e : MEff) (c : Core) (k : Colo),
    let q := (e.apply c k).2
    q.u = min (k.u + 1) (2 ^ 32 - 1) ∧ q.fmts = k.fmts ||| 2 ^ e.f.fa.toNat ||| 2 ^ e.f.fb.toNat
    ∧ q.locR = k.locR ∧ q.locC = k.locC ∧ q.locUR = k.locUR ∧ q.locUC = k.locUC)

/-- R237 to R244: an M slot of the Colophon whose engine is free and, where it works on the whole grid, whose rows no other hart's setting holds. CKCLR records the sums of each
gang column and of each row's columns in each group with the non-finite flags, and takes FIRST from TRIP while the Carrel records or replays; CKCHK locates and answers the summary; CKLOC moves a locator; CKFIX restores a cell or answers why not; CKRD exports; CKINJ corrupts one cell. -/
def Obligations.Colophon : Prop :=
  ∀ (s : State) (h : Hart) (f : MC), s.cur = some h →
    let p := s.issue.core
    let x := s.vctx h h.mLen
    let k := s.colo p h
    let w := h.og f.s1.toNat
    x.c.mUntil ≤ s.cycle →
    let one : State := s.modCore p (fun c => { c with mUntil := s.cycle + 1 })
    let ac := (one.coloAhead p h).1
    let ak := (one.coloAhead p h).2
    (f.imm.toNat % 256 < x.width →
      exec (.ckrdRow f) s = .next (one.wrG f.d.toNat (ckExport w (let y := ac.chkRowAt x.gs (f.imm.toNat % 256); ⟨y.1, y.2⟩) (ak.nfCol.getLsbD (f.imm.toNat % 256)) (f.imm.toNat / 1024 % 4))))
    ∧ exec (.ckrdCol f) s = .next (one.wrG f.d.toNat (ckExport w (ac.chkColAt x.gs (f.imm.toNat % 256)) (ak.nfRow.getLsbD (f.imm.toNat % 256)) (f.imm.toNat / 1024 % 4)))
    ∧ exec (.ckrdSt f) s = .next (one.wrG f.d.toNat (BitVec.ofNat 64 (ak.u + ak.fmts * 2 ^ 32)))
    ∧ exec (.ckloc f) s = .next (one.wrK (f.d.toNat % 8) (match f.imm.toNat % 4 with | 0 => k.locR | 1 => k.locC | 2 => k.locUR | _ => k.locUC))
    ∧ (let i := f.imm.toNat % 256
       let j := f.imm.toNat / 256 % 256
       let g := [x.gs.getD (j / 16) 99]
       let put (v : Cell) (b : Bool) : State := (s.modCore p (fun c => { c.putCell x.gs i j v b with mUntil := s.cycle + 1 })).modCur (fun h =>
         { h with ready := h.ready ++ [(.row i, s.cycle + 2)] })
       s.rowsLate p s.issue.slot h Flight.writes [i] g = false → s.rowsBusy p s.issue.slot [i] g = false → j < x.width →
       exec (.ckinj f) s = .next (put (x.c.cell x.gs i j ^^^ w.setWidth 32) (x.c.poison x.gs i j)) ∧ exec (.ckinjP f) s = .next (put (x.c.cell x.gs i j) true))
    ∧ (s.rowsBusy p s.issue.slot (List.range 256) x.gs = false →
       let whole (hold : Nat) : State := { s.modCore p (·.takeM s.cycle hold
         [{ id := s.nextId, slot := s.issue.slot, due := s.cycle + hold - 1, rows := List.range 256, groups := x.gs, eff := .v { gs := x.gs } }]) with nextId := s.nextId + 1 }
       (∃ t, exec (.ckclr f) s = .next t ∧ t.mem = s.mem ∧ (t.core p).grid = (s.core p).grid ∧ (t.core p).tags = (s.core p).tags
          ∧ (let q := t.colo p h
             q.u = 0 ∧ q.fmts = 0 ∧ q.locR = 0 ∧ q.locC = 0 ∧ q.locUR = 0 ∧ q.locUC = 0
             ∧ (∀ i < 256, q.nfRow.getLsbD i = (match x.countedTag i with | some t => x.counted.any (fun j => (x.val t i j).isNone) | none => false))
             ∧ (∀ j < x.width, j < 256 → q.nfCol.getLsbD j = x.countedRows.any (fun r => (x.val r.2 r.1 j).isNone)))
          ∧ (t.core p).chkrow = tsetMany x.c.chkrow (x.counted.map (fun j => (x.c.col x.gs j, dyPair (Dy.sum (x.countedRows.filterMap (fun r => x.val r.2 r.1 j))))))
          ∧ (t.core p).chkcol = tsetMany x.c.chkcol ((List.range 256).flatMap (fun i => x.gs.zipIdx.map (fun g => (i * 17 + x.c.phys g.1, dyPair (match x.countedTag i with
              | some t => Dy.sum ((((List.range 16).map (16 * g.2 + ·)).filter (fun j => decide (j < x.width))).filterMap (x.val t i))
              | none => Dy.zero)))))
          ∧ t.cur.map (·.carrel) = some (if h.carrel.st = .recording ∨ h.carrel.st = .replaying then { h.carrel with first := h.carrel.trip } else h.carrel))
       ∧ (let q := ckLocate h x k f.hs.toNat
          let v := ckSummary (f.hs == 2) q
          let t := ((whole 16).setColo p h q).wrG f.d.toNat v
          exec (.ckchk f) s = .next (if fldN v 17 0 ≠ 0 ∧ v.getLsbD 52 = false then t.after { cause := 0x26, info := 2 ^ 16, ret := 2 } else t))
       ∧ (∀ n, ckFix h x k w = .error n → exec (.ckfix f) s = .next ((whole 8).wrG f.d.toNat (BitVec.ofNat 64 n)))
       ∧ (∀ v, ckFix h x k w = .ok v →
          let i := fldN w 7 0
          let j := fldN w 15 8
          ∃ t, exec (.ckfix f) s = .next t ∧ (x.mir = 0 → (t.core p).cell x.gs i j = v ∧ (t.core p).poison x.gs i j = false)
            ∧ (x.mir ≠ 0 → (t.core p).cell x.gs i (j + x.mir) = v ∧ (t.core p).poison x.gs i (j + x.mir) = false)
            ∧ (t.colo p h).locR = clearBit k.locR i ∧ (t.colo p h).locC = clearBit k.locC j ∧ (t.colo p h).locUR = clearBit k.locUR i ∧ (t.colo p h).locUC = clearBit k.locUC j
            ∧ (t.colo p h).u = k.u ∧ (t.colo p h).fmts = k.fmts ∧ t.mem = s.mem))

/-- R245 to R248: the Carrel's slots once the matrix engine is free, from every state in which they may be used, and the Carrel faults from the others. -/
def Obligations.CarrelInstructions : Prop :=
  ∀ (s : State) (h : Hart) (f : MC), s.cur = some h → (s.core s.issue.core).mUntil ≤ s.cycle →
    let t : State := s.modCore s.issue.core (fun c => { c with mUntil := s.cycle + 1 })
    let n := (h.og f.s1.toNat).toNat
    let c := h.carrel
    let car (g : Carrel → Carrel) : Out := .next (t.modCur (fun h => { h with carrel := g h.carrel }))
    let fault (sub : Nat) : Out := .next (t.raise { cause := 0x27, info := sub })
    let usable : Prop := c.st = .loaded ∨ c.st = .replaying
    let from_ (i : Instr) (trip : Nat) : Prop :=
      (usable → trip < 2 ^ 32 → exec i s = car (fun c => { c with trip := trip, pos := 0, cont := s.issue.npc, st := if trip < c.count then .replaying else .loaded }))
      ∧ (usable → 2 ^ 32 ≤ trip → exec i s = fault 6) ∧ (¬ usable → exec i s = fault 3)
    (c.st = .idle ∨ c.st = .loaded → exec (.capb f) s = .next ((t.modCur (fun h => { h with carrel := { st := .recording, idx := f.d.toNat } })).wrG f.d.toNat 0))
    ∧ (c.st = .recording ∨ c.st = .replaying → exec (.capb f) s = fault 5)
    ∧ (c.st = .recording → exec (.cape f) s = car (fun c => { c with len := c.pos, pos := 0, st := .loaded, trip := 1 }))
    ∧ (c.st = .replaying → exec (.cape f) s = .next t) ∧ (c.st = .idle ∨ c.st = .loaded → exec (.cape f) s = fault 4)
    ∧ (usable → n < 2 ^ 32 → exec (.capr f) s = car (fun c => { c with count := n, cont := s.issue.npc, st := if c.trip < n then .replaying else .loaded }))
    ∧ (usable → 2 ^ 32 ≤ n → exec (.capr f) s = fault 6) ∧ (¬ usable → exec (.capr f) s = fault 3)
    ∧ from_ (.capx f) n ∧ from_ (.capxSaved f) c.trip ∧ from_ (.capxFirst f) c.first

/-- R132, R133, R135, R142, R144: acceptance of a copy command: a full queue answers 1, operands out of range 3; one whose descriptor, whose completion word and whose ranges all
translate to bytes that can be reached joins its queue and answers its number. R141: CPST answers the queue's status, CPST.WAIT once the queue is empty.
What an unreachable place gives is the model's reading (log 57). -/
def Obligations.CopyInstructions : Prop :=
  ∀ (s : State) (h : Hart) (f : LC), s.cur = some h →
    let d := s.issue.core / 2
    let n := selQueue f
    let va := h.oa f.a.toNat
    let w : Who := { s.who s.issue.core h with spsize := 0 }
    let base (p : Nat) : Nat := (((s.gang h.die h.idx).place? p).getD {}).spbase
    (∀ kind i, (kind, i) ∈ [(0, Instr.cpy f), (1, .cpyx f), (2, .cpym f), (3, .cpyb f)] →
      let c0 := copyOf kind f s h
      (32 ≤ (s.engQ d n).cmds.length → exec i s = .next (s.wrG f.d.toNat 1))
      ∧ ((s.engQ d n).cmds.length < 32 → va.toNat % 64 ≠ 0 ∨ c0.operandsOk = false → exec i s = .next (s.wrG f.d.toNat 3))
      ∧ (∀ s1 s2 s3 l cw c, (s.engQ d n).cmds.length < 32 → va.toNat % 64 = 0 → c0.operandsOk = true → s.relReady h c0.scope = true →
        s.copyRuns w .load 3 va 0 128 = (s1, .ok l) → s1.copyXlate w va .store = (s2, .ok cw) →
        (∀ r ∈ l, r.2.1 < remotePlace ∧ s2.placeCut d r.2.1 = false) → (∀ i < 128, runAt l i < remotePlace ∧ s2.badKey (runAt l i) = false) →
        let c1 : CopyCmd := { c0 with desc := (List.range 128).map (fun i => s2.byte (runAt l i)), cw := (List.range 8).map (cw + ·) }
        let c2 : CopyCmd := { c1 with bad := if c1.descOk && s2.coresOk h c1 then none else some 2 }
        (c2.k = 0 ∨ c2.fb + c2.chunks ≤ 256) → c2.settleBlocks s2 w base = (s3, .ok c) → (∀ p ∈ c.places ++ c.flag.take 1, s3.unrouted p = false) → c.away = false →
        exec i s = .next (s3.join d n f.d.toNat c)))
    ∧ exec (.cpst f) s = .next (s.wrG f.d.toNat (BitVec.ofNat 64 ((s.engQ d n).cmds.length + (32 - (s.engQ d n).cmds.length) * 256)))
    ∧ ((s.engQ d n).cmds = [] → exec (.cpstWait f) s = .next (s.wrG f.d.toNat 0x2000))

/-- R113, R114: CATQ and CATU whose block, completion word and ranges translate to bytes of this package that can be read join their unit's queue and answer 0; a full unit answers 1;
a misaligned block 3.
The order of the checks, and that a misaligned block has status BADOPD, are the model's reading (log 62, log 57). -/
def Obligations.CatalogueInstructions : Prop :=
  ∀ (s : State) (h : Hart) (f : LC) (upd : Bool), s.cur = some h →
    let d := s.issue.core / 2
    let va := h.oa f.a.toNat
    let n := (h.og f.s1.toNat).toNat
    let t := h.og f.s2.toNat
    let w := s.who s.issue.core h
    let u := unitDie (tgtUnit t)
    let i : Instr := if upd then .catu f else .catq f
    (va.toNat % 64 ≠ 0 → exec i s = .next (s.wrG f.d.toNat 3))
    ∧ (∀ s1 s2 s3 l cw c, va.toNat % 64 = 0 → tgtPkg t = s.hub.pkgid.toNat → s.relReady h (max f.sc.toNat 3) = true →
      s.catRows w .load va [(0, 128)] = (s1, .ok l) → s1.catRows w .store va [(0, 8)] = (s2, .ok cw) →
      (∀ i < 128, runAt l i < remotePlace ∧ s2.badKey (runAt l i) = false) → (∀ r ∈ l, r.2.1 < remotePlace) →
      1 ≤ n → n ≤ (if upd then 1024 else 64) → t.toNat < 2 ^ 20 →
      ({ upd := upd, die := d, ctx := h.ctx, slotNo := tgtSlot t, count := n, imm := f.imm.toNat, block := (List.range 128).map (fun i => s2.byte (runAt l i)),
         cw := (List.range 8).map (runAt cw ·) } : CatCmd).settleBlocks s2 w = (s3, .ok c) →
      s3.hub.pkgid = s.hub.pkgid → s3.reach c.die u = true →
      exec i s = .next (if 64 ≤ (s3.die u).cat.length then s3.wrG f.d.toNat 1 else (s3.modDie u (fun x => { x with cat := x.cat ++ [c] })).wrG f.d.toNat 0))

/-- R112, R128, R129: the Folio commands of a context with a Folio, once the hart's accesses have landed and none is under way through the pool entries concerned. FOLMAP maps a pool block, or one popped from the free stack, into a map word, and
the block that the word held loses a reference; FOLMAP.U empties the word; FOLREF raises a block's count; FOLDROP lowers it.
The statuses at the corners are the model's reading (log 63). -/
def Obligations.FolioInstructions : Prop :=
  ∀ (s : State) (h : Hart) (f : LC), s.cur = some h → s.fenceReady h 3 = true →
    let va := h.oa f.a.toNat
    let x := h.og f.s1.toNat
    let w := s.who s.issue.core h
    (∀ s1 c1 seg fo mw, s.folioLeaf w va = (s1, .ok (some (c1, seg))) → eBit c1 0 = true →
      let sf := s1.seeFolio c1
      let sv := sf.verify [mw / 64]
      sf.folio c1 = .ok fo → seg < fo.nseg → sf.mapKey fo seg (va.toNat / 4096 % 16) = some mw → sf.mapBusy fo mw = false → sf.mapOut fo mw = false →
      (∀ k, x.getLsbD 63 = false → sv.poolCheck fo x.toNat true = .ok k → sv.entryBusy (sv.readN k 8) = false →
        exec (.folmap f) s = .next (((sv.store k 8 (setRc (sv.readN k 8) (rcOf (sv.readN k 8) + 1))).remap fo mw (2 ^ 31 + x.toNat) [k]).wrG f.d.toNat (folStatus 0 x.toNat)))
      ∧ (∀ n s2 k, x.getLsbD 63 = true → sv.popOut fo = false → sv.popFree fo = some (n, s2) → s2.poolKey fo n = some k →
        exec (.folmap f) s = .next (((s2.store k 8 (setRc (s2.readN k 8) 1)).remap fo mw (2 ^ 31 + n) [k]).wrG f.d.toNat (folStatus 0 n)))
      ∧ exec (.folmapU f) s = .next ((sv.remap fo mw 0 []).wrG f.d.toNat (folStatus 0 (if eBit (sv.readN mw 4) 31 then sv.readN mw 4 % 2 ^ 24 else 0))))
    ∧ (let so := s.seeOwnFolio w
       let wo := so.who so.issue.core h
       (∀ fo, so.ownFolio wo = .ok (some fo) → so.poolBusy fo x.toNat = false →
         (∀ k, so.poolCheck fo x.toNat true = .ok k →
           let sv := so.verify [k / 64]
           exec (.folref f) s = .next (((sv.store k 8 (setRc (sv.readN k 8) (rcOf (sv.readN k 8) + 1))).folioDrop [k]).wrG f.d.toNat (folStatus 0 x.toNat)))
         ∧ (∀ k, so.poolCheck fo x.toNat false = .ok k → so.dropOut fo x.toNat = false →
           exec (.foldrop f) s = .next (((so.verify [k / 64]).drop fo x.toNat).wrG f.d.toNat (folStatus 0 x.toNat))))
       ∧ (so.ownFolio wo = .ok none → exec (.folref f) s = .next (so.wrG f.d.toNat 7) ∧ exec (.foldrop f) s = .next (so.wrG f.d.toNat 7)))


/-! The steps of the other agents. Each stands for `exec` of the event in a state whose agenda has named its agent in `arg`. -/
/-- R47, R49, R53, R58, R203: PACKET_ISSUE of a hart with nothing owed or pending takes up the packet at its program counter once no check of R76 stops it and nothing holds it;
PACKET_RETIRE makes a token of the first token place whose packet has drained, its register writes complete and everything that it put in flight landed, and has no slot that still
waits; places of other packets stay. -/
def Obligations.PacketIssueAndRetire : Prop :=
  ∀ (s : State) (h : Hart), s.arg.core < 32 → s.hart? s.arg.core s.arg.slot = some h →
    let p := s.arg.core
    let i := s.arg.slot
    (∀ s1 k, i < 8 → h.exited = false → s.overdue p = false → h.pend = 0 → h.vpend = none → s.arg.ok = false → h.stopped = false → h.owed = [] → h.stall29 = [] → h.reNow = 0 → h.tileNow = none →
      (h.handler = true ∨ h.carrel.st ≠ .replaying) → s.fetch p i h = (s1, .ok k) → s1.checkPacket p i h k = none → s1.mayIssue p i h k.hdr false (k.all h.held) = true →
      exec .packetIssue s = .next (s1.openWith p i { h with opnd := h.regs, octrl := h.ctrl } (k.all h.held) (k.repeats h.held) k.hdr h.pc
        (h.pc + BitVec.ofNat 80 (packetLen k.hdr)) false false))
    ∧ (∀ a t r, h.tokens = a ++ t :: r → (∀ u ∈ a, s.drainedOf p i h u = false ∨ s.slotWaits p i h u = true) →
      (∀ g ∈ (s.core p).flight, g.slot = i → g.id < t.lo ∨ t.hi ≤ g.id) → (∀ n ∈ h.accs, n < t.lo ∨ t.hi ≤ n) → t.due ≤ s.cycle → s.slotWaits p i h t = false →
      exec .packetRetire s = .next ((s.setHart p i { h with tokens := a ++ r }).modFifo p t.fifo (·.fill s.cycle)))

/-- R222, R232, R255, R286: a write cycle that is due, with no earlier slot that writes the same still in flight: the slot's cells, tags, masks, scales and drain entry are written, or
nothing where it failed; an update writes its cells and its Colophon values. The hart then takes what it owes. R219: a corrected error that comes with the write is counted.
That corrected errors come with write cycles is the model's (log 70). -/
def Obligations.WriteCycles : Prop :=
  ∀ (s : State) (f : Flight), s.arg.core < 32 →
    let p := s.arg.core
    let t := s.unfly p s.arg.id
    s.flightDue p s.arg.id = some f →
      (∀ e, f.eff = .v e → f.fault = true → exec .vWriteback s = .next ((t.correctedNow p).settle p f.slot))
      ∧ (∀ e, f.eff = .v e → f.fault = false → e.dq = none → exec .vWriteback s = .next ((((t.modCore p e.grid).modHart p f.slot (e.hart f.due)).correctedNow p).settle p f.slot))
      ∧ (∀ e q n, f.eff = .v e → f.fault = false → e.dq = some (q, n) →
          let t1 := (t.modCore p e.grid).modHart p f.slot (e.hart f.due)
          exec .vWriteback s = .next (((t1.setQueue p q ((t1.queue p q).show f.due n)).correctedNow p).settle p f.slot))
      ∧ (∀ e h, f.eff = .m e → s.hart? p f.slot = some h →
          let r := e.apply (s.core p) (s.colo p h)
          exec .updateWriteback s = .next (((((s.setCore p r.1).unfly p s.arg.id).setColo p h r.2).correctedNow p).settle p f.slot))

/-- R157, R199: the entries that a vector load reserved become visible and its access is over. R153: an answer of another package reaches the hart that waits. R94, R95: a
table walk that ends at a leaf, not one of a Folio window, sets its A bit, and for a write D, and the leaf's page, or the group that the walker may hold for it, is cached. R292, R293,
R295, R411: a write reaches its three moments in their order, at its home moment its bytes are in memory, and it waits there for the hart's earlier writes to its granules and for the writes
that it is ordered after; one for a fenced die stays. R401: one that fails at a hop goes on marked. R426, R433, R436: a write of another package that the package takes is answered; that it is
home when it arrives is the model's reading (log 41), and the kind number of its answer the model's own (log 21). -/
def Obligations.AccessesAndMoments : Prop :=
  ∀ (s : State),
    (s.arg.core < 32 →
      (s.arg.flag = false → (∃ i h, s.hart? s.arg.core i = some h ∧ (i, some h) ∈ (s.core s.arg.core).harts ∧ s.arg.id ∈ h.accs) → ∃ t, exec .vectorAccessComplete s = .next t ∧ t.mem = s.mem ∧ t.pw = s.pw
        ∧ t = (List.range 8).foldl (fun t i => t.settle s.arg.core i) (s.modCore s.arg.core (fun c =>
            { c with q := c.q.map (fun q => (q.1, q.2.show s.cycle s.arg.id)), harts := c.harts.map (fun q => (q.1, q.2.map (fun h => { h with accs := h.accs.filter (· != s.arg.id), vreads := h.vreads.filter (fun v => v.id != s.arg.id) }))) })))
      ∧ (∀ h, s.hart? s.arg.core s.arg.slot = some h → h.remoteReq = true → h.remoteAns = none →
          exec .scalarAccessComplete s = .next (s.checkFailure.setHart s.arg.core s.arg.slot { h with remoteAns := answerTo h.reqOks (hopOf s.arg) s.arg.ans })))
    ∧ (let w : Who := { die := s.arg.die, core := 2 * s.arg.die + s.arg.core % 2, ctx := s.arg.idx, fw := s.arg.idx == 0 }
       let v := s.arg.va.toNat
       let s0 := s.seeCtx w.die w.ctx
       ∀ c0 c1 s1 e l k, s.arg.die < 17 → Memory.wf s.mem = true → v / 2 ^ 72 ≠ 0xFF → (s.ctxbase w.die).getLsbD 0 = true → (s.tlb w).find? (fun t => t.serves w v s.arg.acc) = none →
        s0.ctxEntry w.die w.ctx = .ok (c0, c1) → eBit c0 0 = true → c0 / 2 % 2 ^ 15 = 0 → c0 < 2 ^ 56 → s0.walk w.die v (ePa c0) 15 4 = (s1, .ok (e, l, k)) →
        leafCheck w s.arg.acc false e l = none → eBit e 56 = false →
        let n := if s1.holdsGroup e then 32 * pageSize l else pageSize l
        ∃ t, exec .translationWalk s = .next t
          ∧ t.readN k 8 = e ||| 2 ^ 7 ||| (if s.arg.acc = .store ∨ s.arg.acc = .atomic then 2 ^ 8 else 0)
          ∧ (t.tlb w).head? = some { ctx := w.ctx, global := eBit e 6, va := v / n * n, size := n, pa := ePa e / n * n, flags := e % 65536, attr := eAttr e,
                                     dirty := eBit e 8 || (s.arg.acc == .store || s.arg.acc == .atomic), level := l })
    ∧ (∀ k, s.arg.flag = true → s.arg.len = 0 → s.arg.link < 8 → (s.link (64 + s.arg.link)).up = true → s.arg.off % 64 + s.arg.data.length ≤ 64 → s.loc s.arg.off = .mem k →
        (16 ≤ dieOfKey k ∨ s.hub.fset.testBit (dieOfKey k) = false) → s.peerMay s.arg.idx true (.mem k) = true →
        let bs := s.arg.data.zipIdx.map (fun q => (k + q.2, q.1))
        exec .writeHomeMoment s = .next { s.commit bs s.arg.ok with
          nextId := s.nextId + 1, pw := s.pw ++ [{ id := s.nextId, bytes := bs, mark := s.arg.ok, phase := 1, old := bs.map (fun b => (b.1, s.byte b.1)) }]
          outbox := s.outbox ++ [{ kind := 13, dest := s.arg.idx, status := 0, data := [] }] })
    ∧ (∀ w, s.pw.find? (fun v => v.id == s.arg.id) = some w →
      (s.arg.flag = false → s.arg.ok = false → w.phase = 0 → s.pw.any (fun v => v.hart == w.hart && decide (v.id < s.arg.id) && v.touches w) = false →
        (∀ a ∈ w.after, s.visibleAt a.2 a.1 = true) →
        ((∀ b ∈ w.bytes, 16 ≤ dieOfKey b.1 ∨ s.hub.fset.testBit (dieOfKey b.1) = false) →
          exec .writeHomeMoment s = .next (({ s.commit (s.landing w) w.mark none w.keep w.cov with
            pw := s.pw.filter (fun v => v.id != s.arg.id) ++ [{ w with phase := 1, old := w.bytes.map (fun b => (b.1, s.byte b.1)) }] } : State).uncountOf w.hart 0 3 w.cnt))
        ∧ ((∃ b ∈ w.bytes, dieOfKey b.1 < 16 ∧ s.hub.fset.testBit (dieOfKey b.1) = true) → exec .writeHomeMoment s = .next s))
      ∧ (s.arg.flag = false → s.arg.ok = true → w.phase = 0 → s.arg.die < 16 → ∃ t, exec .writeHomeMoment s = .next t ∧ t.mem = s.mem
          ∧ t.pw = s.pw.map (fun v => if v.id = s.arg.id then { v with mark := true } else v) ∧ (t.die s.arg.die).chkErr = (s.die s.arg.die).chkErr + 1)
      ∧ (w.phase = 1 → (homedBefore s.pw s.arg.id).any (fun v => v.phase == 1 && v.touches w) = false → (∀ a ∈ w.after, s.visibleAt a.2 a.1 = true) →
        exec .writeDomainMoment s = .next (({ s with pw := s.pw.map (fun v => if v.id = s.arg.id then { v with phase := 2 } else v) } : State).uncountOf w.hart (if w.remote then 0 else 4) 4 w.cnt))
      ∧ (w.phase = 2 → (homedBefore s.pw s.arg.id).any (fun v => v.phase != 0 && v.touches w) = false →
        exec .writeSystemMoment s = .next (({ s with pw := s.pw.filter (fun v => v.id != s.arg.id) } : State).uncountOf w.hart 5 5 w.cnt)))

/-- R136, R137, R139, R142 to R144, R146, R301, R360, R401: the steps of a copy engine outside F, none of whose routes waits: the command at the head starts with the read of its source,
granule by granule, and reads one of which nothing is written yet later, or finds it bad, where nothing forbids it; a chunk is written, granule by granule, its bit set and its bytes uncounted, or one granule of it alone; a destination core's credit reaches its
barrier; the end writes the completion word and the flag and leaves the queue, and a failure is reported.
R110, R115, R121: a Catalogue unit outside F makes one step of its oldest command, or carries it to its end and writes its completion word; the count of its commands done rises by 1.
When the source is read, and that an event may carry a command to its end, are the model's reading (log 58, log 61); the sources, codes and details of event records are the model's own
(log 20), and so is the index 0 of a command that ends by no chunk (log 80). -/
def Obligations.EngineSteps : Prop :=
  (∀ (s : State) (c : CopyCmd) (r : List CopyCmd),
      let d := s.arg.die
      let n := 8 * s.arg.eng + s.arg.queue
      let q := s.engQ d n
      let head (x : State × CopyCmd) : State := x.1.setEngQ d n { q with cmds := x.2 :: r }
      d < 16 → s.arg.eng < 4 → s.arg.queue < 8 → s.dead d = false → q.cmds = c :: r → (∀ p ∈ c.places, p < remotePlace → s.held d (.mem p) = false) →
        (c.started = false → exec .copyCommandStart s = .next (head (s.copyStart d c)))
        ∧ (c.started = false → c.bad = none → c.places.any (s.placeCut d) = false → ¬ (c.kind = 1 ∧ c.clash = true) →
            exec .copyCommandStart s = .next (head ((runGrans c.src).foldl CopyCmd.readOne (s, { c with started := true, todo := c.byChunk, cores := if c.arr then c.cores else [] }))))
        ∧ (c.started = true → s.arg.idx ∈ runGrans c.src → s.arg.idx ∉ c.used →
            (s.arg.flag = false → s.arg.ok = true → c.clash = false → exec .copyCommandStart s = .next (head (CopyCmd.readOne (s, c) s.arg.idx)))
            ∧ (s.arg.flag = true → s.arg.id < 16 → ∃ t : State, exec .copyCommandStart s = .next (t.setEngQ d n { q with cmds := { c with
                got := tset c.got s.arg.idx ((tget ([], true) c.got s.arg.idx).1, true) } :: r }) ∧ t.mem = s.mem ∧ t.pw = s.pw ∧ t.marks = s.marks))
        ∧ (c.started = true → s.arg.idx ∈ c.used → exec .copyCommandStart s = .next s)
        ∧ (∀ m l todo, c.todo = (m, l) :: todo → c.places.any (s.placeCut d) = false →
            let x := l.foldl s.engineWrites (s, c)
            (s.arg.ok = false → exec .copyChunkVisible s = .next ((head (x.1, { x.2 with todo := x.2.todo.drop 1 })).chunkBit c m))
            ∧ (s.arg.ok = true → (∃ y ∈ c.todo, s.arg.idx ∈ y.2) → exec .copyChunkVisible s = .next (head (s.engineWrites (s, c) s.arg.idx))))
        ∧ (∀ b cores, c.started = true → c.todo = [] → c.cores = b :: cores → s.copyAlive c = true →
            exec .barrierCredit s = .next ((head (s, { c with cores := cores })).modGang (c.hart.1 / 1024) (c.hart.1 % 1024) (fun g =>
              { g with bars := tmod {} g.bars (c.u 65 1 / 2 % 4) (fun x => Barrier.credit x s.cycle c.len) })))
        ∧ (c.started = true → c.todo = [] → c.cores = [] →
            let t := s.setEngQ d n { q with cmds := r }
            (c.bad = none → c.fail = none → exec .copyCommandComplete s = .next (c.putFlag ((t.putWord d c.cw (2 ^ 63)).copyUncount c c.left) d))
            ∧ (∀ i x, c.bad = none → c.fail = some (i, x) → x ≠ 0 →
                exec .copyCommandComplete s = .next ((c.finish t d x i).event (256 + (4 * d + n / 8)) x (n % 8 * 2 ^ 24 + i % 2 ^ 24)))
            ∧ (∀ x, c.bad = some x → x ≠ 0 → exec .copyCommandComplete s = .next ((c.finish t d x 0).event (256 + (4 * d + n / 8)) x (n % 8 * 2 ^ 24)))))
  ∧ (∀ (s : State) (c : CatCmd) (r : List CatCmd), s.arg.idx < 4 →
      let u := s.arg.idx
      let d := unitDie u
      (s.die d).cat = c :: r → s.dead d = false → (∀ q ∈ c.src ++ c.src2 ++ c.out ++ c.rcd, q.2.1 < remotePlace → s.held d (.mem q.2.1) = false) →
      (s.arg.ok = true → s.arg.w.getLsbD 0 = false → exec .catalogueCommandComplete s = .next ((c.step s u s.arg.flag).1.modDie d (fun x => { x with cat := (c.step s u s.arg.flag).2 :: r })))
      ∧ (let t := (c.rest s u).1
         let e := (c.rest s u).2.fail
         let ends := (t.putWord d c.cw (2 ^ 63 + e.2 % 65536 * 256 + e.1)).modDie d (fun x => { x with cat := r, done := x.done + 1 })
         s.arg.ok = false → exec .catalogueCommandComplete s = .next (if e.1 = 0 then ends else ends.event (3 * 256 + u) e.1 (c.slotNo * 65536 + e.2))))

/-- R38, R84, R86 to R88, R96, R101, R216, R219, R337, R381: writes of device registers as their events make them: an invalidation removes what it names and is BUSY, a second one sets ERR;
MEM.ILV after its lock sets ERR; CTXBASE keeps its fields; DIE.BOOT with a record present starts nothing; SCHED.CTL; SAVE.STAT resumes; LMAP, LAT and PGSEED; the management controller, which a boot halted in stage 1 or 2 has not, and which writes
nothing more in one halted later (R427).
R101: a write of DIE.BOOT with GO while every resident slot of the die is free makes record 0, placed on core 0 of the die where that core admits it, and GO stays set. That the record is
READY where core 0 does not admit it is the model's choice (log 81); the kind number of an answer is the model's (log 21), and so is that the hub's CTXBASE extends measurement 3 (log 24). -/
def Obligations.RegisterEvents : Prop :=
  (∀ (s : State),
      let w := s.arg.w
      let b := s.arg.blk
      (b < 16 → fldN w 17 16 ≠ 3 → (s.die b).inv = none →
        exec .xltInv s = .next ((s.keepTlb b (fun t => !invalidates (fldN w 17 16) (fldN w 15 0) ((s.die b).invva.toNat * 65536) (fldN w 33 18) t)).modDie b (fun d =>
          { d with inv := some w })))
      ∧ (b < 16 → fldN w 17 16 = 3 ∨ (s.die b).inv ≠ none → exec .xltInv s = .next (s.modDie b (fun d => { d with inverr := true })))
      ∧ (s.pw.any (fun v => v.phase == 0) = false → b = 16 → s.hub.qps.any (fun q => q.2.msgs.any (fun m => m.oks.isSome)) = false → exec .invalidationDone s = .next (s.modHub (fun h => { h with inv := none })))
      ∧ (s.pw.any (fun v => v.phase == 0) = false → b < 16 → (s.die b).eng.all (fun q => q.2.cmds.isEmpty) = true → s.dies.all (fun x => x.2.cat.all (fun c => c.die != b)) = true →
          (s.die b).catAway = [] → (∀ p, p = 2 * b ∨ p = 2 * b + 1 → (s.core p).harts.all (fun q => (q.2.map (fun h => !h.remoteReq)).getD true) = true) →
          exec .invalidationDone s = .next (((s.modDie b (fun d => { d with inv := none })).modCore (2 * b) Core.performed).modCore (2 * b + 1) Core.performed))
      ∧ (s.hub.ilvLock = true → exec .memIlvWrite s = .next (s.modHub (fun h => { h with ilvErr := !w.getLsbD 1 })))
      ∧ (s.hub.ilvLock = false → exec .memIlvWrite s = .next (s.modHub (fun h => { h with ilvG := w.getLsbD 0, ilvErr := h.ilvErr && !w.getLsbD 1 })))
      ∧ (b < 16 → exec .xltCtxbaseWrite s = .next (s.modDie b (fun d => { d with ctxbase := w &&& 0xFFFFFFFFFF0001#64 })))
      ∧ (b = 16 → exec .xltCtxbaseWrite s = .next ((if w.getLsbD 0 then s.measureMap else s).modHub (fun h => { h with ctxbase := w &&& 0xFFFFFFFFFF0001#64 })))
      ∧ (s.arg.die < 16 → (w.getLsbD 0 = false ∨ s.hub.bootStage ≠ 0 ∨ ∃ q ∈ (s.die s.arg.die).recs, q.2.st ≠ 0) →
          exec .dieBootGo s = .next (s.modDie s.arg.die (fun x => { x with boot := (w &&& 0xFFFFFFFFFFFFFC#64) ||| ((s.die s.arg.die).boot &&& 1#64) })))
      ∧ (s.arg.die < 16 → w.getLsbD 0 = true → exec .schedCtlWrite s = .next (s.modDie s.arg.die (fun x => { x with hold := w.getLsbD 1, freeze := true })))
      ∧ (s.arg.die < 16 → w.getLsbD 0 = false →
          let t := s.modDie s.arg.die (fun x => { x with hold := w.getLsbD 1, freeze := false })
          exec .schedCtlWrite s = .next (((s.die s.arg.die).recs.foldl (fun u q => if q.2.st = 2 then u.seeNote s.arg.die q.2 else u) t).modDie s.arg.die (fun x =>
            { x with recs := x.recs.map (fun q => (q.1, t.evaluate s.arg.die q.2)) })))
      ∧ (s.arg.die < 16 → w.getLsbD 0 = true → exec .saveStallClear s = .next (s.modDie s.arg.die (fun x =>
          { x with savestat := x.savestat &&& ~~~1#64, recs := x.recs.map (fun q => (q.1, { q.2 with save := { q.2.save with stalled := false }, growStalled := false })) })))
      ∧ (s.arg.core < 32 →
          exec .lmapWrite s = .next (s.modCore s.arg.core (fun c => { c.writeLmap s.cycle w with lmapNext := none }))
          ∧ exec .latWrite s = .next (s.modCore s.arg.core (·.writeLat s.cycle w))
          ∧ exec .pgseedWrite s = .next (s.modCore s.arg.core (fun c => { c with pgNext := some w })))
      ∧ (b < 17 → s.arg.off % 8 = 0 → exec .registerWrite s = .next (if b < 16 then s.writeDie b s.arg.off w else s.writeHub s.arg.off w))
      ∧ (s.arg.flag = false → s.arg.ok = true → s.hub.bootStage = 0 → exec .managementControllerAccess s = .next (s.ctlWrite s.arg.off s.arg.data))
      ∧ (s.arg.flag = true → s.hub.bootStage = 0 → exec .managementControllerAccess s = .next (if 4 ≤ s.arg.idx ∧ s.arg.idx < 8 then
          s.modHub (fun h => { h with meas := tset h.meas s.arg.idx (extend (tget [] h.meas s.arg.idx) s.arg.data) }) else s))
      ∧ (s.hub.bootStage = 1 ∨ s.hub.bootStage = 2 ∨ (s.hub.bootStage ≠ 0 ∧ (s.arg.flag = true ∨ s.arg.ok = true)) → exec .managementControllerAccess s = .next s)
      ∧ (s.arg.flag = false → s.arg.ok = false → s.hub.bootStage ≠ 1 → s.hub.bootStage ≠ 2 → exec .managementControllerAccess s = .next { s with outbox := s.outbox ++ [{ kind := 11, dest := s.arg.off, status := 0, data := s.ctlRead s.arg.off s.arg.len }] }))
  ∧ (∀ (s : State), s.arg.die < 16 → s.arg.w.getLsbD 0 = true → s.hub.bootStage = 0 → (∀ q ∈ (s.die s.arg.die).recs, q.2.st = 0) →
      let m := s.room (2 * s.arg.die) (fun _ => false)
      ∃ t, exec .dieBootGo s = .next t ∧ (t.die s.arg.die).boot.getLsbD 0 = true
        ∧ (m.ok = true → m.slots ≠ 0 → (t.gang s.arg.die 0).st = 4 ∧ (t.gang s.arg.die 0).places.map (·.core) = [2 * s.arg.die])
        ∧ (m.ok = false ∨ m.slots = 0 → (t.gang s.arg.die 0).st = 3 ∧ (t.gang s.arg.die 0).places = []))


/-- R345: a die with no blocked head takes nothing from any gang. R335: a notify word that is read, its check value verified, readies records. R317: the marked groups of a core whose harts have agreed to their release, and
that nothing in flight uses, begin their save. R349: an ENDING gang that has drained is freed.
R389, R396, R397: SAVE_UNIT of a save that is not stopped lays down one unit, of a restore brings one back; a whole save begins once the gang is quiet; one that SAVE.STAT stopped, or that is not
under way, leaves everything as it is.
What an event that is not enabled does is the model's (log 7). -/
def Obligations.SchedulerEvents : Prop :=
  (∀ (s : State), s.arg.die < 16 →
      let d := s.arg.die
      let i := s.arg.idx
      let r := s.gang d i
      (s.blockedHead d = none → exec .reclaimMark s = .next s)
      ∧ (∀ h cores, s.blockedHead d = some (h, cores) → ∃ t, exec .reclaimMark s = .next t ∧ t.mem = s.mem ∧ t.pw = s.pw ∧ t.hub = s.hub)
      ∧ (exec .notifyEvaluate s = .next ((s.seeNote d { desc := { nv := true, nslot := s.arg.slot, nword := s.arg.queue } }).modDie d (fun x => { x with recs := x.recs.map (fun q =>
            (q.1, if q.2.desc.nv ∧ q.2.desc.nslot = s.arg.slot ∧ q.2.desc.nword = s.arg.queue then s.evaluate d q.2 else q.2)) })))
      ∧ exec .notifyPoll s = exec .notifyEvaluate s
      ∧ (let gone (q : Place) : List Nat := tget [] r.agreed q.core
         let free (q : Place × Nat) : Bool :=
           !(gone q.1).isEmpty && (s.core q.1.core).flight.all (fun f => !q.1.slots.contains f.slot || f.groups.all (fun g => !(gone q.1).contains g))
         let first := (r.places.zipIdx.find? free).getD ({}, 0)
         let marked := ((s.core first.1.core).groups first.1.rgi).zipIdx.filterMap (fun g => if (gone first.1).contains g.1 then some g.2 else none)
         let headed := r.save.headed.contains first.2
         r.st = 5 → r.save.active = false → s.dead d = false → (∃ q ∈ r.places.zipIdx, free q = true) →
          exec .groupRelease s = .next (s.setGang d i { r with
            save := { r.save with active := true, whole := false, restore := false, done := false, core := first.2, sec := if headed then 6 else 0,
                                  nm := if headed then marked.headD 0 else 0, nb := 0, groups := marked, stalled := false, first := 0, prog := (0, 0, 0), round := false, begun := false } }))
      ∧ (r.st = 7 → s.dead d = false → s.gangQuiet r = true → s.endWaits d r = false → (s.die d).fullAt ≠ some s.cycle → (r.save.restore = false → ∀ q ∈ s.hartsOf r, q.2.2.drained 3 = true) → (∀ q ∈ r.keptPbc, tget 0 q.2 3 = 0) →
          exec .gangEnd s = .next (((r.places.foldl (fun s q => s.releaseCore r q) (s.dropSem r)).endWord d r (r.endStatus.getD 0)).freeRec d i)))
  ∧ (∀ (s : State), s.arg.die < 16 →
      let d := s.arg.die
      let i := s.arg.idx
      let r := s.gang d i
      let v := r.save
      (v.active = false ∨ v.stalled = true ∨ s.dead d = true → exec .saveUnit s = .next s)
      ∧ (v.active = true → v.stalled = false → s.dead d = false → v.restore = true → exec .saveUnit s = .next (s.restoreStep d i))
      ∧ (v.active = true → v.stalled = false → s.dead d = false → v.restore = false → (v.whole = true → v.begun = true) → exec .saveUnit s = .next (s.saveStep d i))
      ∧ (let q := (r.places[v.core]?).getD {}
         let n := v.next ((s.core q.core).groups q.rgi).length r.places.length
         let laid := s.areaPut d (s.sliceVa d i v.core) (small (s.unitWrites r v v.core q) ++ [(0, leBytes 8 (progWord { n with done := n.done || n.core != v.core }))])
         v.active = true → v.stalled = false → s.dead d = false → v.restore = false → (v.whole = true → v.begun = true) → v.core < r.places.length → v.sec ≠ 6 → v.sec ≠ 7 → n.done = false →
           (laid.2 = none → exec .saveUnit s = .next (laid.1.drawn.setGang d i { r with save := n }))
           ∧ (∀ x, laid.2 = some x → exec .saveUnit s = .next (laid.1.areaFault d i x)))
      ∧ (v.active = true → v.stalled = false → s.dead d = false → v.restore = false → v.whole = true → v.begun = false → s.gangQuiet r = true →
          exec .saveUnit s = .next (((s.startSave d i).modGang d i (fun r => { r with save := { r.save with begun := true } })).saveStep d i))
      ∧ (v.active = true → v.stalled = false → v.restore = false → v.whole = true → v.begun = false → s.gangQuiet r = false → exec .saveUnit s = .next s))

/-- R205, R341, R342, R345, R346: what the scheduler's own events do, each as a next state. A READY record whose turn has come is placed on the cores that admit it, PLACING from then on; a saved
one takes its cores again, and its restore begins; a blocked head goes through the gangs of lower priority on its cores, lowest priority and latest placement first, and takes from each: nothing
where it lacks nothing there, the whole gang where that one's groups above GMIN do not suffice or slots and claims are lacking, and otherwise marks on its highest groups that are not
marked, on each of its cores; a gang whose marks have stood 8,192 cycles on a core is suspended: its record is SUSPENDING and its whole save is under way. -/
def Obligations.SchedulerTurns : Prop :=
  (∀ (s : State), s.arg.die < 16 →
      let d := s.arg.die
      let i := s.arg.idx
      let r := s.gang d i
      let x := (s.placeable d i).getD ([], 0)
      let b := (s.blockedHead d).getD ({}, [])
      let victims := s.dies.flatMap (fun y => (y.2.recs.filter (fun q => q.2.st == 5 && decide (q.2.desc.prio < b.1.effPrio s.cycle) && b.2.any (fun p => (q.2.place? p).isSome))).map
        (fun q => (y.1, q.1, q.2)))
      let order := sortBy (fun (u v : Nat × Nat × Rec) => decide (u.2.2.desc.prio < v.2.2.desc.prio)
        || (u.2.2.desc.prio == v.2.2.desc.prio && decide (v.2.2.placedAt < u.2.2.placedAt))) victims
      let placed := s.place d i x.1 x.2
      let back := s.resume d i
      let gone := s.suspend d i
      ((s.placeable d i).isSome → r.places = [] →
        exec .gangPlace s = .next placed ∧ (placed.gang d i).st = 4 ∧ (placed.gang d i).places.map (·.core) = x.1 ∧ (placed.gang d i).g = x.2 ∧ (placed.gang d i).placedAt = s.cycle)
      ∧ ((s.placeable d i).isSome → r.places ≠ [] →
        exec .gangResume s = .next back ∧ (back.gang d i).st = 4 ∧ (back.gang d i).places.map (·.core) = r.places.map (·.core) ∧ (back.gang d i).save.active = true
          ∧ (back.gang d i).save.restore = true)
      ∧ ((s.blockedHead d).isSome → s.dead d = false → exec .reclaimMark s = .next (order.foldl (fun t v => t.reclaimFrom b.1 b.2 v.1 v.2.1) s))
      ∧ (r.st = 5 → s.dead d = false → (∃ m ∈ r.markAt, m.2 + 8192 ≤ s.cycle) →
        exec .reclaimTimeout s = .next gone ∧ (gone.gang d i).st = 6 ∧ (gone.gang d i).markAt = [] ∧ (gone.gang d i).save.active = true ∧ (gone.gang d i).save.whole = true))
  ∧ (∀ (s : State) (h : Rec) (cores : List Nat) (d i : Nat),
      let v := s.gang d i
      let l := (cores.filter (fun p => (v.place? p).isSome)).map (s.lacks h)
      let want := l.foldl (fun n q => max n q.2) 0
      let can := if s.anyProt v then (s.keeps v - v.desc.gmin) / 2 * 2 else s.keeps v - v.desc.gmin
      v.st = 5 →
        ((∀ q ∈ l, q.1 = false) → want = 0 → s.reclaimFrom h cores d i = s)
        ∧ (l ≠ [] → (∃ q ∈ l, q.1 = true) ∨ (want ≠ 0 ∧ can < want) → s.reclaimFrom h cores d i = s.suspend d i)
        ∧ (l ≠ [] → (∀ q ∈ l, q.1 = false) → want ≠ 0 → want ≤ can → s.reclaimFrom h cores d i = s.markGroups d i (if s.anyProt v then (want + 1) / 2 * 2 else want)))
  ∧ (∀ (s : State) (d i n : Nat) (q : Place),
      let v := s.gang d i
      let own := ((s.core q.core).groups q.rgi).filter (fun g => !latPend (s.core q.core).lat g)
      let t := s.markGroups d i n
      q ∈ v.places → (v.places.map (·.core)).Nodup →
        (t.core q.core).lat = (own.drop (own.length - n)).foldl (fun l g => latSetPend l g true) (s.core q.core).lat
        ∧ (∀ m ∈ v.markAt, m.1 = q.core → m ∈ (t.gang d i).markAt) ∧ ((∀ m ∈ v.markAt, m.1 ≠ q.core) → (q.core, s.cycle) ∈ (t.gang d i).markAt))


/-- R37, R219, R220, R224, R324, R372: core events: a cycle passes on every core once no write is overdue; protected mode begins by copying primaries into mirrors; a group long free is gated; a YIELD
whose time has come retires; a self-test ends with its signature, or is aborted with result 2. A cycle's end also takes the Ethernet port one step on (R420, R423).
The event record of a self-test is the model's (log 20). -/
def Obligations.CoreEvents : Prop :=
  ∀ (s : State),
    ((∀ p < 32, s.overdue p = false) →
      exec .pepperGeneratorStep s = .next ({ s with cycle := s.cycle + 1, cores := (List.range 32).map (fun p => (p, (s.core p).tick s.cycle)) } : State).portRound)
    ∧ (s.arg.core < 32 →
      let p := s.arg.core
      let i := s.arg.slot
      (∀ h, s.hart? p i = some h → h.protBusy = true → s.anyBusy p (s.groupsOf p h) = false →
        exec .protectedModeEnable s = .next ((s.modCore p (·.mirror (s.groupsOf p h))).modHart p i (fun x =>
          { x with protBusy := false, ctrl := { x.ctrl with vl := min x.ctrl.vl (s.maxl p h), mvl := min x.ctrl.mvl (s.maxl p h) } })))
      ∧ (s.arg.idx < 16 → latOwner (s.core p).lat s.arg.idx = 7 → tget 0 (s.core p).freeAt s.arg.idx + 65536 ≤ s.cycle →
        exec .groupPowerGate s = .next (s.modCore p (fun c => { c with gated := tset c.gated s.arg.idx true })))
      ∧ (let h := (s.hart? p i).getD {}
         (s.hart? p i).isSome → fldN h.pend 63 56 = 0x7A → h.yieldUntil ≠ 0 → h.yieldUntil ≤ s.cycle → s.asleep h = false →
        exec .yieldWake s = .next (((s.setHart p i { h with regs := writeG h.regs (fldN h.pend 55 51) 0, pend := 0, yieldUntil := 0, pendTok := none, minIssue := max h.minIssue (s.cycle + 1) }).gangRuns h).settle p i))
      ∧ (let x := ((s.core p).stest).getD { die := 0, slot := 0, core := 0, rd := 0, prio := 0, started := 0 }
         let ended (res : Word) (fail : Bool) : State :=
           let left := (s.modCore p (fun c => { c with stest := none })).testLeaves p
           let kept := if fail then left.modHub (fun h => { h with trem := h.trem ||| 2 ^ p }) else left
           (kept.event (5 * 256 + p / 2) (0x90 + p % 2) res.toNat).modHart x.core x.slot (fun h =>
             { h with regs := writeG h.regs x.rd res, pend := 0, minIssue := max h.minIssue (s.cycle + 1) })
         (s.core p).stest.isSome →
         (x.started + 170000 ≤ s.cycle →
            let fail := s.arg.w.setWidth 32 != Config.stestPass
            exec .stestDone s = .next (ended (BitVec.ofNat 64 ((s.arg.w.setWidth 32).toNat * 2 ^ 32 + bit fail 0)) fail))
         ∧ (s.abortWanted p x.prio = true → exec .stestAbort s = .next (ended 2 false))))

/-- R148, R151 to R153, R405: link events on a link that exists: the shadow lane steps on, or a lane above THR is swapped out; a failed flit is counted; a link fails at both ends, and what was sent over the last link to a place is lost; firmware has it
trained; a trained link comes up, one that was DOWN with a record.
The codes of the event records and the transitions of the link registers are the model's (log 20, log 43). -/
def Obligations.LinkEvents : Prop :=
  ∀ (s : State), linkExists s.arg.link = true →
    let n := s.arg.link
    let l := s.link n
    let down (l : Link) : Link := { l with down := true, up := false, train := false }
    let counted : State := s.modLink n (fun l => { l with crcerr := (l.crcerr + 1) % 2 ^ 64, retry := (l.retry + 1) % 2 ^ 64, laneErr := tmod 0 l.laneErr s.arg.idx (· + 1) })
    (l.swapped = [] → s.arg.len ≤ l.thr.toNat → exec .laneShadowRotate s = .next (s.modLink n (fun l => { l with shadow := (l.shadow + 1) % linkLanes n, laneErr := [] })))
    ∧ (l.swapped = [] → l.thr.toNat < s.arg.len →
        exec .laneShadowRotate s = .next ((s.modLink n (fun l => { l with swapped := [l.shadow], swaps := (l.swaps + 1) % 256, laneErr := [] })).event (4 * 256 + n) 1 l.shadow))
    ∧ ((counted.link n).swapped.length ≠ 1 ∨ (counted.link n).down = true → exec .flitCrcError s = .next counted)
    ∧ ((counted.link n).swapped.length = 1 → (counted.link n).down = false → s.arg.idx ∉ (counted.link n).swapped → (counted.link n).thr.toNat < tget 0 (counted.link n).laneErr s.arg.idx →
        exec .flitCrcError s = .next ((counted.modLink n (fun l => { l with swapped := l.swapped ++ [s.arg.idx], half := true, train := true })).event (4 * 256 + n) 2 s.arg.idx))
    ∧ exec .linkDown s = .next ((((s.modLink n down).modLink (linkFar n) down).event (4 * 256 + n) 3 0).loseReqs)
    ∧ exec .firmwareRetrain s = .next (s.modLink n (fun l => { l with train := true }))
    ∧ (l.train = true → l.down = false → exec .retrainDone s = .next (s.modLink n (fun l =>
        { l with train := false, up := true, down := false, peer := s.arg.idx % 1024, retrains := (l.retrains + 1) % 2 ^ 64, laneErr := [] })))
    ∧ (l.train = true → l.down = true →
        let up := s.modLink n (fun l => { l with train := false, up := true, down := false, peer := s.arg.idx % 1024, retrains := (l.retrains + 1) % 2 ^ 64, laneErr := [] })
        exec .retrainDone s = .next ((if n < 64 then up.modLink (linkFar n) (fun l => { l with train := false, up := true, down := false }) else up).event (4 * 256 + n) 4 0))

/-- R406 to R411, R414, R415, R417, R418: the witness protocol: a round begins with the heartbeats of the dies outside F; a well-formed heartbeat of the running round, as the flood brings it
or otherwise, is kept, a copy of one that was heard changes nothing, a late one of a fenced die is counted; a round ends once its time is over, the dies voted out being in F from then on and a
die that has heard nothing for six rounds having fenced itself; the oldest fence's orphans complete; a die that is fenced, or has fenced itself, and whose self-test ends with a pass appeals
while it may. What an event that is not enabled does is the model's (log 7), and so are the codes of event records (log 20); that a die that fences itself enters F only by the vote of its
witnesses is read from R409 (log 44). -/
def Obligations.WitnessEvents : Prop :=
  ∀ (s : State),
    (s.hub.roundOpen = false → s.hub.roundNext ≤ s.time / 8000 →
      let n := s.time / 8000
      let send := (List.range 16).filter (fun d => !s.dead d || (s.wit d).appealing)
      exec .roundStart s = .next (s.modHub (fun h => { h with round := n, roundOpen := true, roundNext := n + 1, sent := send.map (fun d => (d, s.beatOf d n)) })))
    ∧ (s.arg.die < 17 →
      let b := if s.arg.flag then s.flooded s.arg.idx s.arg.die else s.arg.data
      let x := Beat.parse b
      let w := s.arg.die
      b.length = 32 → u8 b 0 = 0x48 → x.src < 16 → (w = 16 ∨ s.hub.fset.testBit w = false) →
      (s.hub.fset.testBit x.src = true → x.appeal = false → exec .heartbeatReceive s = .next (s.modWit w (fun y => { y with late := (y.late + 1) % 2 ^ 64 })))
      ∧ (s.hub.fset.testBit x.src = false → beatOk b = true → x.round = s.hub.running → x.fenced = s.hub.fset → (s.wit w).beats.find? (fun y => y.src == x.src && y.round == x.round) = none →
          (∀ q ∈ (s.wit w).heard, q.2 ≠ b) →
          exec .heartbeatReceive s = .next (s.modWit w (fun y => { y with beats := y.beats ++ [x], heard := y.heard ++ [(s.hub.running, b)] })))
      ∧ (s.hub.fset.testBit x.src = false → x.round = s.hub.running → (∃ q ∈ (s.wit w).heard, q.2 = b) → exec .heartbeatReceive s = .next s))
    ∧ (s.hub.roundOpen = false ∨ s.time / 8000 ≤ s.hub.round → exec .roundEnd s = .next s)
    ∧ (let n := s.hub.round
       let back := s.readmitted n (s.tally n).1
       let out := (s.tally n).2
       s.hub.roundOpen = true → n < s.time / 8000 →
         exec .roundEnd s = .next s.roundEnd ∧ s.roundEnd.hub.roundOpen = false ∧ s.roundEnd.hub.fprev = s.hub.fset
         ∧ s.roundEnd.hub.fset = back.foldl (fun f x => setBit f x false) (out.foldl (fun f x => setBit f x true) s.hub.fset)
         ∧ (∀ d < 16, s.hub.fset.testBit d = false → d ∉ out → 6 ≤ (s.verdict d n).silentRounds → (s.roundEnd.die d).wit.selfFenced = true)
         ∧ ((∀ p, (s.core p).stest = none) → s.roundEnd.mem = s.mem))
    ∧ (s.orphans ≠ [] → s.orphanWaits (s.orphans.headD (0, 0)).1 (s.orphans.headD (0, 0)).2 = false → exec .orphanCompletion s = .next (({ s with orphans := s.orphans.drop 1 } : State).orphan (s.orphans.headD (0, 0)).1 (s.orphans.headD (0, 0)).2))
    ∧ (s.orphans = [] → exec .orphanCompletion s = .next s)
    ∧ (s.arg.die < 16 → s.dead s.arg.die = true → (s.wit s.arg.die).testing = true →
      let t := (((s.testLeaves (2 * s.arg.die)).testLeaves (2 * s.arg.die + 1)).event (5 * 256 + s.arg.die) 0x92 (bit s.arg.ok 0)).modWit s.arg.die (fun w => { w with testing := false })
      exec .fencedSelftestDone s = .next (if s.arg.ok ∧ (s.wit s.arg.die).appeals < 3 then t.modWit s.arg.die (fun w => { w with appealing := true, appeals := w.appeals + 1 }) else t))

/-- R420 to R425: the one request on a connected queue pair while the port serves: a write to bytes that a window admits is made at every scope, whole or part by part, and acknowledged; a read
answers the bytes that the host may see, and a bad granule ends the connection; the two atomics answer the old doubleword; what is not supported, a message of more than 2^31 bytes among it,
is refused; a message whose translation only waits stays; connection, pause, which holds answers back, congestion notices, the timer.
The kind numbers of answers are the model's (log 21), and so are what a read sees (log 41) and the length of a pause (log 82). -/
def Obligations.PortEvents : Prop :=
  ∀ (s : State), s.arg.qp < 4096 →
    let qp := s.arg.qp
    let q := tget {} s.hub.qps qp
    let came (t : State) (m : HostMsg) : State := t.modQp qp (fun q => { q with msgs := q.msgs ++ [m] })
    let left (t : State) (l : List HostMsg) : State := t.modQp qp (fun q => { q with msgs := l })
    let reply (t : State) (status : Nat) (b : List Byte) : Out := .next (left (if t.time < t.hub.paused ∨ t.hub.heldOut ≠ [] then
        { t with hub := { t.hub with heldOut := t.hub.heldOut ++ [{ kind := 2, dest := qp, status := status, data := b }] } }
      else { t with outbox := t.outbox ++ [{ kind := 2, dest := qp, status := status, data := b }] }) [])
    let refused (t : State) : Out := reply { t with hub := { t.hub with nakInv := t.hub.nakInv + 1 } } 3 []
    let denied (t : State) : Out := reply { t with hub := { t.hub with nakAcc := t.hub.nakAcc + 1 } } 1 []
    let broken (t : State) (ks : List Nat) : Out :=
      let v := t.verify (granules ks)
      reply (({ v with hub := { v.hub with nakOp := v.hub.nakOp + 1 } } : State).modQp qp (fun q => { q with error := true, msgs := [] })) 2 []
    let wr : HostMsg := { rkey := s.arg.rkey, off := s.arg.off, op := .write s.arg.data, step := s.arg.len }
    let rd : HostMsg := { rkey := s.arg.rkey, off := s.arg.off, op := .read s.arg.len, step := 0 }
    let atm (cmp : Option Word) (x : Word) : HostMsg := { rkey := s.arg.rkey, off := s.arg.off, op := .atomic cmp x }
    let keys (l : List XOk) (b : List Byte) : List (Nat × Byte) := (l.zip b).filterMap (fun q => match q.1.loc with | .mem k => some (k, q.2) | _ => none)
    exec .queuePairConnect s = .next (s.modHub (fun h => { h with qps := tset h.qps qp { connected := true, error := false, msgs := [] } }))
    ∧ exec .congestionNotification s = .next { s with hub := { s.hub with cnps := s.hub.cnps + 1 }, outbox := s.outbox ++ [{ kind := 5, dest := qp, status := 0, data := [] }] }
    ∧ (0 < s.arg.len * 16 / 25 → exec .priorityFlowControl s = .next { s with hub := { s.hub with paused := s.time + s.arg.len * 16 / 25 } })
    ∧ (s.arg.len = 0 → exec .priorityFlowControl s = .next { s with hub := { s.hub with paused := s.time, heldOut := [] }, outbox := s.outbox ++ s.hub.heldOut })
    ∧ (s.arg.ok = true → s.hub.everPlaced = false → exec .ptpMessage s = .next { s with hub := { s.hub with devBase := s.time + s.arg.amount, devAt := s.cycle } })
    ∧ (s.arg.ok = true → s.hub.everPlaced = true →
        exec .ptpMessage s = .next { s with hub := { s.hub with devBase := s.time, devAt := s.cycle, devPpm := max (-100) (min 100 s.arg.amount) } })
    ∧ (q.connected = true → q.error = false → s.hub.evac.st.portOpen = false →
      exec .invalidRequest s = .next (s.answer qp 4 []) ∧ exec .rdmaWrite s = .next (s.answer qp 4 []))
    ∧ (q.connected = true → q.error = false → q.msgs = [] → s.hub.evac.st.portOpen = true →
      exec .invalidRequest s = refused (came s {})
      ∧ (2 ^ 31 < s.arg.data.length → exec .rdmaWrite s = refused (came s wr))
      ∧ (∀ t, s.arg.data.length ≤ 2 ^ 31 → (came s wr).portSpan s.arg.rkey s.arg.off s.arg.data.length .store = (t, .error false) → exec .rdmaWrite s = denied t)
      ∧ (∀ t, s.arg.data.length ≤ 2 ^ 31 → (came s wr).portSpan s.arg.rkey s.arg.off s.arg.data.length .store = (t, .error true) → exec .rdmaWrite s = .next (left t [wr]))
      ∧ (∀ t l, s.arg.data.length ≤ 2 ^ 31 → (came s wr).portSpan s.arg.rkey s.arg.off s.arg.data.length .store = (t, .ok l) →
          (s.arg.len = 0 → exec .rdmaWrite s = reply (t.commit (keys l s.arg.data) false) 0 [])
          ∧ (let n := 64 * s.arg.len - s.arg.off % 64
             s.arg.len ≠ 0 → n < s.arg.data.length →
             exec .rdmaWrite s = .next (left (t.commit (keys (l.take n) (s.arg.data.take n)) false) [{ wr with oks := some l, pos := s.arg.len }])))
      ∧ (∀ t l, s.arg.slot = 0 → s.arg.len ≤ 2 ^ 31 → (came s.checkFailure rd).portSpan s.arg.rkey s.arg.off s.arg.len .load = (t, .ok l) →
          let p := l.take s.arg.len
          (t.unsent (locKeys p) = false → exec .rdmaRead s = reply t.drawn 0 (p.map t.portByte)) ∧ (t.unsent (locKeys p) = true → exec .rdmaRead s = broken t (locKeys p)))
      ∧ (let old (t : State) (p : List XOk) : List Byte := p.map (fun o => match o.loc with | .mem k => t.byte k | _ => t.portByte o)
         let v (t : State) (p : List XOk) : Word := BitVec.ofNat 64 (leNat (old t p))
         (∀ t l, (came s (atm none s.arg.w)).portSpan s.arg.rkey s.arg.off 8 .atomic = (t, .ok l) →
            let p := l.take 8
            (t.unsent (locKeys p) = false → exec .atomicFetchAndAdd s = reply (t.commit (keys p (leBytes 8 (v t p + s.arg.w).toNat)) false).drawn 0 (old t p))
            ∧ (t.unsent (locKeys p) = true → exec .atomicFetchAndAdd s = broken t (locKeys p)))
         ∧ (∀ t l, (came s (atm (some s.arg.w) s.arg.w2)).portSpan s.arg.rkey s.arg.off 8 .atomic = (t, .ok l) →
            let p := l.take 8
            (t.unsent (locKeys p) = false → exec .atomicCompareAndSwap s = reply (if v t p = s.arg.w then t.commit (keys p (leBytes 8 s.arg.w2.toNat)) false
              else t.breakLinks none (granules (locKeys p))).drawn 0 (old t p))
            ∧ (t.unsent (locKeys p) = true → exec .atomicCompareAndSwap s = broken t (locKeys p)))))

/-- R427 to R431, R437, R439: attestation answers, with the measurement registers first in GET_MEASUREMENTS; platform monitoring delivers the oldest event record; a firmware update writes the inactive bank; the
bus owner names the device; the identity EEPROM, where the board has one (R3); power loss and reset, which may halt in stage 1; throttling.
The kind numbers of answers and the SPDM codes are the model's (log 13, log 21), and what a reset keeps is read from the boot rules (log 24). -/
def Obligations.ManagementEvents : Prop :=
  ∀ (s : State),
    let spdm (code : Nat) (pre : List Byte) : Out :=
      .next { s with draw := s.draw + 1, outbox := s.outbox ++ [{ kind := 3, dest := s.hub.eid.toNat, status := code, data := pre ++ Config.spdmReply code s.draw s.hub.idKey s.arg.data }] }
    exec .getVersion s = spdm 0x84 [] ∧ exec .getCapabilities s = spdm 0xE1 [] ∧ exec .negotiateAlgorithms s = spdm 0xE3 [] ∧ exec .getDigests s = spdm 0x81 []
    ∧ exec .getCertificate s = spdm 0x82 [] ∧ exec .challenge s = spdm 0x83 []
    ∧ exec .getMeasurements s = spdm 0xE0 ((List.range 8).flatMap (fun n => padTo 48 (tget [] s.hub.meas n)))
    ∧ exec .pldmPlatformMonitoring s = .next { s with
        events := s.events.drop 1, draw := s.draw + 1
        outbox := s.outbox ++ [{ kind := 4, dest := s.hub.eid.toNat, status := 0
                                 data := leBytes 8 s.hub.sensors.toNat ++ leBytes 8 s.hub.cap.toNat ++ leBytes 8 s.hub.bootStat.toNat
                                   ++ ((s.events.head?.map (·.bytes)).getD []) ++ Config.pldmReply s.draw s.arg.data }] }
    ∧ (let l := s.arg.data.zipIdx.map (fun q => (s.arg.off + q.2, q.1))
       exec .pldmFirmwareUpdate s = .next { s with hub := { s.hub with
         bank0 := if s.hub.active then memSetMany s.hub.bank0 l else s.hub.bank0, bank1 := if s.hub.active then s.hub.bank1 else memSetMany s.hub.bank1 l
         pendActive := if s.arg.flag then !s.hub.active else s.hub.pendActive } })
    ∧ exec .endpointIdentifierAssign s = .next { s with hub := { s.hub with eid := s.arg.w.setWidth 8 } }
    ∧ (s.arg.off < 4096 → s.hub.eepromFitted = true → exec .eepromRead s = .next (s.put 12 s.arg.off 0 [if 512 ≤ s.arg.off then 0xFF else tget 0 s.hub.eeprom s.arg.off]))
    ∧ (256 ≤ s.arg.off → s.arg.off < 512 → s.hub.powered = true → s.hub.eepromFitted = true →
        exec .eepromWrite s = .next { s with hub := { s.hub with eeprom := tset s.hub.eeprom s.arg.off (s.arg.w.setWidth 8) } })
    ∧ (s.arg.off < 4096 → s.hub.eepromFitted = false → exec .eepromRead s = .next s ∧ exec .eepromWrite s = .next s)
    ∧ (let t := (s.board.restart true).boot
       exec .reset s = .next t ∧ t.cores = [] ∧ t.dies = [] ∧ t.mem = [] ∧ t.cycle = 0 ∧ t.hub.eeprom = s.hub.eeprom ∧ t.hub.active = s.hub.pendActive ∧ t.hub.powered = true
        ∧ (s.arg.flag = true → t.hub.lp6 = s.arg.idx % 16 ∧ t.hub.eepromFitted = s.arg.ok) ∧ (s.arg.flag = false → t.hub.lp6 = s.hub.lp6 ∧ t.hub.eepromFitted = s.hub.eepromFitted)
        ∧ (s.arg.len = 1 → t.hub.bootStage = 1 ∧ t.hub.bootCause = s.arg.w.toNat % 256))
    ∧ (let t := s.restart false
       exec .bladePull s = .next t ∧ t.cores = [] ∧ t.dies = [] ∧ t.mem = [] ∧ t.hub.eeprom = s.hub.eeprom ∧ t.hub.powered = false)
    ∧ exec .thermalThrottle s = .next { s with hub := { s.hub with
        tmax := s.arg.w.setWidth 16, pkgw := s.arg.w2.setWidth 16, throt := decide (min s.hub.cap.toNat 23000 < (s.arg.w2.setWidth 16).toNat) || decide (1050 ≤ (s.arg.w.setWidth 16).toNat) } }

/-- R432 to R435: the evacuee's path from GO in IDLE through FROZEN, SAVING, COPYING and DRAINING to READY, and its ends in FAILED and IDLE; a GO whose checks fail only sets ERR.
The copy puts out every granule of the dies outside F that lists a byte or holds an error, and the manifest last. An evacuation drains until every pending-byte counter reads 0, those that
dies keep for saved harts among them. An ABORT in READY or FAILED clears byte 256 of the EEPROM. When ABORT reads 1 is the model's reading (log 45), and the kind numbers and the form of what
leaves the device are the model's (log 21). -/
def Obligations.EvacuationOfAPackage : Prop :=
  ∀ (s : State),
    let e := s.hub.evac
    let cfg : State := s.modEvac (fun e => { e with cfg := ((s.arg.w ||| 1#64) &&& 0xFFFFFFFFFFFF00#64) ||| (e.cfg &&& 3#64) ||| ((s.arg.w ||| 1#64) &&& 2#64) })
    let fail (t : State) (err : Nat) : Out := .next (({ t with hub := { t.hub with evac := { t.hub.evac with st := .failed, err := err, indicator := false } } } : State).service 2)
    (e.st = .idle → cfg.goError ≠ 0 → exec .evacGo s = .next (cfg.modEvac (fun e => { e with err := cfg.goError })))
    ∧ (e.st = .idle → cfg.goError = 0 →
        let t := (cfg.freezeAll true).modEvac (fun e => { e with st := .frozen, err := 0, partial_ := false, absent := 0, goAt := s.time, offered := false, accepted := false, cfg := e.cfg ||| 1#64 })
        exec .evacGo s = .next t ∧ t.hub.evac.st = .frozen ∧ t.hub.evac.err = 0 ∧ t.mem = s.mem
        ∧ (∀ d < 16, (t.die d).hold = true ∧ (t.die d).freeze = true))
    ∧ (e.st = .frozen ∨ e.st = .saving ∨ e.st = .copying ∨ e.st = .ready ∨ e.st = .failed →
        let t := s.evacAbort
        exec .evacAbort s = .next t ∧ t.hub.evac.st = .idle ∧ t.hub.evac.cfg = e.cfg &&& 0xFFFFFFFFFFFF00#64 ∧ t.mem = s.mem
        ∧ (∀ d < 16, (t.die d).hold = false ∧ (t.die d).freeze = false)
        ∧ (e.st = .ready ∨ e.st = .failed → s.hub.eepromFitted = true → tget 0 t.hub.eeprom 256 = 0 ∧ t.hub.evac.indicator = false))
    ∧ (e.st = .frozen → exec .evacFreezeDone s = .next (s.abortTests.suspendAll.modEvac (fun e => { e with st := .saving })))
    ∧ (e.st = .saving → s.allSaved = true →
        let t := e.links.foldl (fun s l => s.put 6 l s.hub.pkgid.toNat [BitVec.ofNat 8 (bit s.hub.ilvG 0)])
          (s.writeImage.modEvac (fun e => { e with st := .copying, offered := true, accepted := false, absent := s.hub.fset, partial_ := s.hub.fset != 0 }))
        exec .evacSaveDone s = .next t ∧ t.hub.evac.st = .copying ∧ t.hub.evac.offered = true ∧ t.outbox.length = s.outbox.length + e.links.length)
    ∧ (e.st = .copying → e.offered = true → s.arg.ok = true → exec .evacOfferAnswer s = .next (s.modEvac (fun e => { e with offered := false, accepted := true })))
    ∧ (e.st = .copying → e.offered = true → s.arg.ok = false → exec .evacOfferAnswer s = fail s (if s.arg.flag then 6 else 5))
    ∧ (e.st = .copying → e.offered = true → exec .evacOfferTimeout s = fail s 5)
    ∧ (e.st = .copying → e.accepted = true → e.links.any (fun i => (s.link (64 + i)).up) = true →
        let u := s.copyOut.modEvac (fun e => { e with st := .draining })
        let t := u.put 10 e.pkg 0 u.manifest
        exec .evacCopyDone s = .next t ∧ t.hub.evac.st = .draining ∧ t.mem = s.mem
        ∧ (∀ c ∈ s.mem, dieOfKey (c.1 / 64 * 64) < 16 → e.absent.testBit (dieOfKey (c.1 / 64 * 64)) = false →
            ∃ o ∈ t.outbox, o.kind = 14 ∧ o.dest = e.pkg ∧ o.status = c.1 / 64 * 64 ∧ o.data.take 64 = s.readAt (c.1 / 64 * 64) 64))
    ∧ (e.st = .draining → s.pw = [] → s.noneOutstanding = true →
        exec .evacDrainDone s = if e.goAt + 30000000000 ≤ s.time then fail s e.err else .next ((s.modEvac (fun e => { e with st := .ready, indicator := true })).service 1))
    ∧ (e.st = .frozen ∨ e.st = .saving ∨ e.st = .copying ∨ e.st = .draining → e.goAt + 30000000000 ≤ s.time → exec .evacTimeout s = fail s e.err)

/-- R436, R437: the receiver: arming needs an idle package whose dies are held and empty; an armed one answers the offer of its evacuee, and on ADOPT checks the manifest and claims; a granted claim adopts, a
denied one is refused; the evacuee in READY grants its receiver's claim and is RELEASED.
How long ADOPT reads 1, in any state, and that on an armed receiver it comes before an ARM = 0 of the same write are the model's choice (log 45); the kind numbers of answers are the
model's (log 21). -/
def Obligations.AdoptionOfAPackage : Prop :=
  ∀ (s : State),
    let e := s.hub.evac
    let w := s.arg.w
    let fields : State := s.modEvac (fun e => { e with rx := ((w ||| 1#64) &&& 0xFFC00000000000#64) ||| (e.rx &&& 3#64) ||| ((w ||| 1#64) &&& 2#64) })
    let told : State := s.modEvac (fun e => { e with rx := ((w ||| 2#64) &&& 0xFFC00000000000#64) ||| (e.rx &&& 3#64) ||| ((w ||| 2#64) &&& 2#64) })
    (e.st ≠ .armed → s.canArm (w ||| 1#64) = true → exec .evacArm s = .next (fields.modEvac (fun e => { e with st := .armed, rx := e.rx ||| 1#64 })))
    ∧ (e.st ≠ .armed → s.canArm (w ||| 1#64) = false → exec .evacArm s = .next (fields.modEvac (fun e => { e with err := 7 })))
    ∧ (e.st ≠ .armed → e.st ≠ .refused → w.getLsbD 0 = false → exec .evacAdopt s = .next (told.modEvac (fun e => { e with rx := e.rx &&& 0xFFFFFFFFFFFFFFFE#64 })))
    ∧ (e.st = .armed ∨ e.st = .refused → exec .evacDisarm s = .next (s.modEvac (fun e => { e with rx := w &&& 0xFFC00000000000#64, claiming := false, st := .idle })))
    ∧ (e.st = .armed → told.manifestOk = false → exec .evacAdopt s = .next (told.modEvac (fun e => { e with st := .refused, err := 8 })))
    ∧ (e.st = .armed → told.manifestOk = true →
        exec .evacAdopt s = .next ((told.modEvac (fun e => { e with claiming := true })).put 8 (fldN w 55 46) s.hub.pkgid.toNat []))
    ∧ (let known := e.st == .armed && fldN e.rx 55 46 == s.arg.idx
       let same := s.hub.ilvG == s.arg.ok
       exec .evacOffer s = .next (s.put 7 s.arg.idx (if known && same then 0 else 1) [BitVec.ofNat 8 (bit (known && !same) 0)]))
    ∧ (e.st = .ready → fldN e.cfg 55 46 = s.arg.idx → exec .evacClaim s = .next ((s.modEvac (fun e => { e with st := .released })).put 9 s.arg.idx 0 []))
    ∧ (¬ (e.st = .ready ∧ fldN e.cfg 55 46 = s.arg.idx) → exec .evacClaim s = .next (s.put 9 s.arg.idx 1 []))
    ∧ (e.claiming = true → s.arg.ok = false → exec .evacClaimAnswer s = .next (s.modEvac (fun e => { e with st := .refused, err := 9, claiming := false })))
    ∧ (e.claiming = true → s.arg.ok = true →
        let t := s.takeOver
        exec .evacClaimAnswer s = .next t ∧ t.hub.evac.st = .adopted ∧ t.hub.pkgid = BitVec.ofNat 10 (fldN e.rx 55 46) ∧ t.hub.evac.rx = e.rx &&& 0xFFC00000000000#64 ∧ t.mem = s.mem
        ∧ (∀ d < 16, (t.die d).hold = false ∧ (t.die d).freeze = false))
    ∧ (let l := (List.range 8).filter (fun i => (s.link (64 + i)).peer == fldN e.rx 55 46)
       e.claiming = true → (l = [] ∨ ∃ i ∈ l, (s.link (64 + i)).down = false) →
       exec .evacClaimTimeout s = .next (s.modEvac (fun e => { e with st := .refused, err := 9, claiming := false })))

/-! The machine as a whole. -/
/-- R9, R38, R101, R216, R218, R333, R381, R402, R419, R432, R439: the registers at reset with the values that the spec gives; no gang is resident and no hart is placed. -/
def Obligations.ResetState : Prop :=
  let s := State.reset
  (∀ p, (s.core p).lmap = 0x1F0000#64 ∧ (s.core p).lat = 0x0000FFFFFFFFFFFF#64 ∧ (s.core p).pgseed = 1 ∧ (∀ g < 16, latOwner (s.core p).lat g = 7 ∧ latPend (s.core p).lat g = false)
      ∧ (∀ i, s.hart? p i = none) ∧ (∀ k, tget 0 (s.core p).grid k = 0 ∧ tget false (s.core p).pois k = false ∧ tget .f32 (s.core p).tags k = .f32)
      ∧ (∀ q, (s.queue p q).ents = []) ∧ (∀ n, (s.fifo p n).t = 0 ∧ (s.fifo p n).rs = 0) ∧ (s.core p).frq = [])
  ∧ (∀ d, (∀ i, (s.gang d i).st = 0) ∧ (s.die d).ctxbase = 0 ∧ (s.die d).boot = 0 ∧ (s.die d).slotbase = 0 ∧ (s.die d).trapvec = 0 ∧ (s.die d).savebase = 0 ∧ (s.die d).savestat = 0
      ∧ (s.die d).chkErr = 0 ∧ (s.die d).chkMark = 0 ∧ (s.die d).chkLast = 0 ∧ (s.die d).hold = false ∧ (s.die d).freeze = false ∧ (s.die d).ovrBase = 0 ∧ (s.die d).ovrSlots = 0
      ∧ (s.die d).wit.bthr = 3 ∧ (s.die d).ibros.thr = 4 ∧ (s.die d).sem = 0 ∧ (∀ n, tget 0 (s.die d).dat n = 0) ∧ (∀ n, tget 0 (s.die d).ntf n = 0) ∧ (∀ n, (s.engQ d n).cmds = []))
  ∧ s.hub.ilvG = false ∧ s.hub.ilvErr = false ∧ s.hub.cap = 23000#16 ∧ s.hub.throt = false ∧ s.hub.evac.st = .idle ∧ s.hub.evac.err = 0 ∧ s.hub.frem = 0 ∧ s.hub.trem = 0 ∧ s.hub.fset = 0
  ∧ s.hub.nakAcc = 0 ∧ s.hub.nakOp = 0 ∧ s.hub.nakInv = 0 ∧ s.time = 0 ∧ s.pw = [] ∧ s.marks = [] ∧ s.events = []

/-- The memory of the machine right after reset is in its canonical form (the form is the model's, log 1). -/
def Obligations.MemoryCanonicalAtReset : Prop := State.reset.memOk

/-- Whatever agent moves, a step keeps memory in its one canonical form, so that equal memories stay equal data (the form is the model's, log 1). -/
def Obligations.MemoryStaysCanonical : Prop := ∀ (s t : State), s.memOk → step s = .next t → t.memOk

/-- R61 to R73, R76, R306: the decoder reads back from the word of a well-formed slot instruction that instruction, with every operand at every value that the encoding admits. -/
def Obligations.SlotEncodingRoundTrip : Prop := ∀ (i : Instr) (c : Cls), i.cls = some c → i.wf = true → decodeSlot c (encode i) = .ok i

/-- R47, R48, R64 to R73: words written out from the tables decode to the instructions they stand for: an S, an L, a V and an M slot, and a packet's header with one slot. -/
def Obligations.DecodedWords : Prop :=
  (decodeSlot .S (0x01#8 ++ 3#5 ++ 4#5 ++ 5#5 ++ 0#3 ++ 0#38)).toOption = some (.add { d := 3, s1 := 4, s2 := 5, rm := 0 })
  ∧ (decodeSlot .S (0x10#8 ++ 7#5 ++ 1#5 ++ 0x1FFFFFFFFFF#41 ++ 0#5)).toOption = some (.addi { d := 7, s1 := 1, imm := 0x1FFFFFFFFFF })
  ∧ (decodeSlot .S (0x50#8 ++ 9#5 ++ 8#5 ++ 0#5 ++ 2#41)).toOption = some (.beq { s1 := 9, s2 := 8, d := 0, off := 2 })
  ∧ (decodeSlot .L (0x04#8 ++ 6#8 ++ 2#4 ++ 0#5 ++ 0#3 ++ 0#3 ++ 0#3 ++ 1#1 ++ 8#29)).toOption = some (.ldD { t := 6, a := 2, x := 0, k := 0, q := 0, sc := 0, pi := 1, off := 8 })
  ∧ (decodeSlot .M (0x01#8 ++ 0#1 ++ 1#3 ++ 0#1 ++ 2#3 ++ 0#2 ++ 0#5 ++ 0#5 ++ 0#36)).toOption = some (.mop { qa := 1, qb := 2, hs := 0, fa := 0, fb := 0 })
  ∧ (decodeSlot .V (0x01#8 ++ 0x001#12 ++ 0x002#12 ++ 0x003#12 ++ 0#3 ++ 0#3 ++ 0#1 ++ 0#5 ++ 0#8)).toOption
      = some (.vadd { vd := 1, vs1 := 2, vs2 := 3, k := 0, rm := 0, sat := 0, fx := 0, imm := 0 })
  ∧ decodeTableWord 96 (1 + (0x01#8 ++ 3#5 ++ 4#5 ++ 5#5 ++ 0#3 ++ 0#38 : Word).toNat * 2 ^ 32) = some (.add { d := 3, s1 := 4, s2 := 5, rm := 0 })

/-- R47, R49, R348, R379: one step is the event that the agenda names first, run in the state whose agenda it has left; where that event takes a packet up, the step runs every slot of the packet, decoded, and the
packet takes effect as a whole where no slot waits or raises a trap. An empty agenda is filled with a round of events, a slot instruction is no event of its own, and a core cycle does not end while a selected packet has yet to issue (the agenda is the model's, log 3, log 19). -/
def Obligations.StepRuns : Prop :=
  (∀ (s : State), s.agenda = [] → step s = .next { s with agenda := s.round })
  ∧ (∀ (s : State) (a : Arg) (i : Instr) (r : List (Arg × Instr)), s.agenda = (a, i) :: r →
      let s0 : State := { s with arg := a, agenda := r }
      (i.cls ≠ none → step s = .next s0)
      ∧ (isTick i = true → s0.mustIssue exec = true → step s = .next s0)
      ∧ (isTick i = false ∨ s0.mustIssue exec = false →
          (∀ t, i.cls = none → exec i s0 = .next t → t.issue.active = false → step s = .next t) ∧ (∀ x, i.cls = none → exec i s0 = .fault x → step s = .fault x)))
  ∧ (∀ (s : State) (a : Arg) (r : List (Arg × Instr)) (s1 : State) (h : Hart) (k : Packet), s.agenda = (a, .packetIssue) :: r →
      let s0 : State := { s with arg := a, agenda := r }
      let p := a.core
      let l := k.all h.held
      p < 32 → a.slot < 8 → s0.hart? p a.slot = some h → h.exited = false → s0.overdue p = false → h.pend = 0 → h.vpend = none → a.ok = false → h.stopped = false → h.owed = [] →
      h.stall29 = [] → h.reNow = 0 → h.tileNow = none → (h.handler = true ∨ h.carrel.st ≠ .replaying) → s0.fetch p a.slot h = (s1, .ok k) → s1.checkPacket p a.slot h k = none → s1.mayIssue p a.slot h k.hdr false l = true →
      let g : Hart := { h with opnd := h.regs, octrl := h.ctrl }
      let t := s1.openWith p a.slot g l (k.repeats h.held) k.hdr h.pc (h.pc + BitVec.ofNat 80 (packetLen k.hdr)) false false
      (∀ q ∈ k.present, ∃ j, decodeSlot q.1 q.2 = .ok j ∧ j ∈ t.issue.slots)
      ∧ (∀ c w j, l = [(c, w)] → decodeSlot c w = .ok j → t.issue.slots = [j] ∧ ∀ u, exec j t.record = .next u → runSlots exec t.issue.slots t.record = .next u)
      ∧ (∀ u, runSlots exec t.issue.slots t.record = .next u → u.issue.wait = false → u.issue.raised = none → u.issue.late = none → earlyFault exec t g = none → t.regsLate g = none →
          outranked exec t g = false → step s = .next (t.finish u g))
      ∧ (∀ u x, runSlots exec t.issue.slots t.record = .next u → u.issue.wait = false → u.issue.raised = some x → u.issue.late = none → earlyFault exec t g = none → t.regsLate g = none →
          step s = .next (t.trapAll u.issue.walk x)))

/-- R376, R378, R382: a trap writes the record, sets the held slots aside, names the handler's bank and goes on at TRAP.VEC; R383: in handler state it stops the hart and ends the gang with status 0x02. R384: ERET
goes on as RET says; after entry and return every register of the program and of the handler's bank reads as before; a placed hart's bank is zero. -/
def Obligations.TrapEntryAndReturn : Prop :=
  (∀ (s : State) (p i : Nat) (h : Hart) (t : TrapReq), s.hart? p i = some h →
    let u := s.enterTrap p i t
    (h.handler = false → ∃ h', u.hart? p i = some h' ∧ h'.handler = true ∧ h'.priv = true ∧ h'.curCtx = 0 ∧ h'.ctx = h.ctx
        ∧ h'.trap.cause = trcause t ∧ h'.trap.pc = t.pc.getD h.pc ∧ h'.trap.va = t.va ∧ h'.trap.info = BitVec.ofNat 64 t.info ∧ h'.trap.lg = h.trap.lg
        ∧ h'.held = [] ∧ h'.heldAside = h.held ∧ h'.carrel = h.carrel ∧ h'.fresh = true ∧ h'.pc = BitVec.ofNat 80 ((s.die (p / 2)).trapvec.toNat * 2 ^ 16)
        ∧ (∀ n, n < 24 ∨ 31 < n → readG h'.regs n = readG h.regs n) ∧ (∀ n, 24 ≤ n → n ≤ 31 → readG h'.regs n = tget 0 h.bankG n ∧ tget 0 h'.bankG n = readG h.regs n)
        ∧ (∀ n, n < 14 ∨ 15 < n → readA h'.regs n = readA h.regs n) ∧ (∀ n, n = 14 ∨ n = 15 → readA h'.regs n = tget 0 h.bankA n ∧ tget 0 h'.bankA n = readA h.regs n)
        ∧ (∀ n, readK h'.regs n = readK h.regs n) ∧ h'.vsc = h.vsc ∧ h'.ctrl = h.ctrl ∧ u.dies = s.dies ∧ u.hub = s.hub ∧ u.events = s.events)
    ∧ (h.handler = true → (∃ h', u.hart? p i = some h' ∧ h'.stopped = true ∧ h'.regs = h.regs ∧ h'.trap = h.trap)
        ∧ (u.gang h.die h.idx).endStatus = some ((s.gang h.die h.idx).endStatus.getD 2) ∧ u.events.length = s.events.length + 1)
    ∧ u.mem = s.mem ∧ u.pw = s.pw ∧ (h.handler = false → ∀ q j, ¬ (q = p ∧ j = i) → u.hart? q j = s.hart? q j))
  ∧ (∀ t : TrapReq, t.cause < 256 → t.reissue < 8 → t.ret < 4 → t.nrec < 4096 →
    let c := trcause t
    fldN c 7 0 = t.cause ∧ fldN c 10 8 = t.reissue ∧ c.getLsbD 11 = t.rdef ∧ fldN c 13 12 = t.ret ∧ c.getLsbD 14 = t.crl ∧ c.getLsbD 15 = t.tilep ∧ fldN c 27 16 = t.nrec ∧ fldN c 63 28 = 0)
  ∧ (∀ (s : State) (p i : Nat) (h : Hart), s.hart? p i = some h →
    let u := s.leaveTrap p i
    let c := h.trap.cause
    (fldN c 13 12 = 3 → (u.gang h.die h.idx).endStatus = some ((s.gang h.die h.idx).endStatus.getD 2))
    ∧ (fldN c 13 12 ≠ 3 → ∃ h', u.hart? p i = some h' ∧ h'.handler = false ∧ h'.held = h.heldAside ∧ h'.fresh = true ∧ h'.trap = h.trap
        ∧ (fldN c 7 0 = 0x29 → h'.pc = h.cont)
        ∧ (fldN c 7 0 ≠ 0x29 → fldN c 13 12 = 0 → h'.pc = (if c.getLsbD 14 then h.cont else h.trap.pc) ∧ h'.carrel = h.carrel)
        ∧ (fldN c 7 0 ≠ 0x29 → fldN c 13 12 = 1 → h'.pc = h.cont ∧ h'.reNow = fldN c 10 8)
        ∧ (fldN c 7 0 ≠ 0x29 → fldN c 13 12 = 2 → h'.pc = h.cont)
        ∧ (fldN c 7 0 ≠ 0x29 → h'.tileNow = if c.getLsbD 15 then some h.tileInfo else none)
        ∧ u.mem = s.mem ∧ u.dies = s.dies ∧ (∀ q j, ¬ (q = p ∧ j = i) → u.hart? q j = s.hart? q j)))
  ∧ (∀ (h : Hart) (v : Word) (t : TrapReq),
    let h' := (h.enter v t).leave
    (∀ n, readG h'.regs n = readG h.regs n) ∧ (∀ n, readA h'.regs n = readA h.regs n) ∧ (∀ n, readK h'.regs n = readK h.regs n) ∧ h'.held = h.held ∧ h'.handler = false ∧ h'.curCtx = h.ctx
    ∧ (∀ n, 24 ≤ n → n ≤ 31 → tget 0 h'.bankG n = tget 0 h.bankG n) ∧ (∀ n, n = 14 ∨ n = 15 → tget 0 h'.bankA n = tget 0 h.bankA n))
  ∧ (∀ (d i : Nat) (r : Rec) (p c n : Nat), (newHart d i r p c n).bankG = [] ∧ (newHart d i r p c n).bankA = [] ∧ (newHart d i r p c n).handler = false)
  ∧ (∀ (s : State) (h : Hart), s.cur = some h → h.handler = true → ∃ v : Word, v.getLsbD 6 = true ∧ (∀ d : BitVec 5, exec (.movs { d := d, s1 := 0, cr := 0 }) s = .next (s.wrG d.toNat v)))
  ∧ (∀ (s : State) (p : Nat) (h : Hart), h.handler = true → (s.who p h).ctx = 0 ∧ (s.who p h).fw = h.priv)

/-- R49, R221, R222, R255: a V slot or an update that is taken up changes, until its write cycle, only its engine, its core's list of settings, and the queues it names: no memory, no write in flight, no die, no hub
state, no hart, no grid cell, tag or Colophon cell, and no other core. -/
def Obligations.SlotsInFlightFrame : Prop :=
  ∀ (s : State) (srcs : List View) (lat hold : Nat),
    let p := s.issue.core
    let same (t : State) (qs : List Nat) : Prop :=
      t.mem = s.mem ∧ t.pw = s.pw ∧ t.marks = s.marks ∧ t.dies = s.dies ∧ t.hub = s.hub ∧ t.cycle = s.cycle ∧ t.issue = s.issue ∧ t.events = s.events ∧ t.outbox = s.outbox
      ∧ (∀ q i, t.hart? q i = s.hart? q i) ∧ (∀ q, q ≠ p → t.core q = s.core q)
      ∧ (t.core p).grid = (s.core p).grid ∧ (t.core p).pois = (s.core p).pois ∧ (t.core p).tags = (s.core p).tags ∧ (t.core p).chkrow = (s.core p).chkrow ∧ (t.core p).chkcol = (s.core p).chkcol
      ∧ (t.core p).fifo = (s.core p).fifo ∧ (t.core p).lmap = (s.core p).lmap ∧ (t.core p).lat = (s.core p).lat ∧ (t.core p).frq = (s.core p).frq
      ∧ (∀ q, q ∉ qs → t.queue p q = s.queue p q)
    (∀ rows groups deps e, same (s.vTaken srcs lat hold rows groups deps e) (queuesOf srcs) ∧ ∃ f, ((s.vTaken srcs lat hold rows groups deps e).core p).flight = (s.core p).flight ++ [f] ∧ f.eff = .v e)
    ∧ (∀ x t dst writes groups puts, same (s.vWrites x t srcs dst lat hold writes groups puts) (queuesOf srcs ++ match dst with | .dq n => [8 + n] | _ => []))
    ∧ (∀ qs fl n, same { (s.popAll p qs).modCore p (·.takeM s.cycle hold fl) with nextId := n } qs)

/-- R212, R222, R232: a write cycle changes only what its slot writes: cells outside its puts or its footprint, tags where it sets none, masks and vsc elements that it does not name, the hart's other registers, every
other hart, memory and the hub stand. The hart owes no trap; a corrected error that comes with the write is counted and may make a record (log 70). -/
def Obligations.WriteCycleFrame : Prop :=
  ∀ (s t : State) (f : Flight) (h : Hart),
    let p := s.arg.core
    s.flightDue p s.arg.id = some f → s.hart? p f.slot = some h → h.owed = [] →
    let c := s.core p
    let c' := t.core p
    let rest : Prop := t.mem = s.mem ∧ t.pw = s.pw ∧ t.marks = s.marks ∧ t.hub = s.hub ∧ (s.arg.flag = false → t.events = s.events) ∧ t.cycle = s.cycle ∧ (∀ q, q ≠ p → t.core q = s.core q)
      ∧ c'.fifo = c.fifo ∧ c'.lmap = c.lmap ∧ c'.lat = c.lat ∧ c'.pgseed = c.pgseed ∧ c'.frq = c.frq
    (∀ e, f.eff = .v e → exec .vWriteback s = .next t → rest ∧ t.dies = s.dies ∧ c'.chkrow = c.chkrow ∧ c'.chkcol = c.chkcol ∧ (e.dq = none → c'.q = c.q) ∧ (e.tags = [] → c'.tags = c.tags)
      ∧ (∀ i, i ≠ f.slot → t.hart? p i = s.hart? p i)
      ∧ (∀ n, (∀ q ∈ e.puts, n ≠ cellKey q.1 (c.col e.gs q.2.1)) → tget 0 c'.grid n = tget 0 c.grid n ∧ tget false c'.pois n = tget false c.pois n)
      ∧ ∃ h', t.hart? p f.slot = some h' ∧ h'.regs.g = h.regs.g ∧ h'.regs.a = h.regs.a ∧ h'.ctrl = h.ctrl ∧ h'.trap = h.trap ∧ h'.pc = h.pc ∧ h'.handler = h.handler
        ∧ (∀ n, (∀ q ∈ e.masks, q.1 ≠ n) → readK h'.regs n = readK h.regs n) ∧ (∀ n, (∀ q ∈ e.vsc, q.1 ≠ n) → tget 0x7F h'.vsc n = tget 0x7F h.vsc n))
    ∧ (∀ e, f.eff = .m e → exec .updateWriteback s = .next t → rest ∧ c'.q = c.q ∧ c'.tags = c.tags ∧ (∀ i, t.hart? p i = s.hart? p i)
      ∧ (∀ n, (∀ q ∈ mRows e.f.hs.toNat e.len, ∀ j < e.len, n ≠ cellKey q.1 (c.col e.gs j) ∧ (e.mir ≠ 0 → n ≠ cellKey q.1 (c.col e.gs (j + e.mir)))) →
          tget 0 c'.grid n = tget 0 c.grid n ∧ tget false c'.pois n = tget false c.pois n))
end

