-- ==== Sys2Proof/Laws/Encode.lean ====
section
/-! SUPPORT. What the slot formats of R64 to R68 keep: the number that a word is, its opcode, and every field read back. -/
namespace Sys2Proof

/-- The number of two fields side by side. -/
theorem toNat_append_add {n m : Nat} (x : BitVec n) (y : BitVec m) : (x ++ y).toNat = x.toNat * 2 ^ m + y.toNat := by
  rw [BitVec.toNat_append, ← Nat.shiftLeft_add_eq_or_of_lt y.isLt, Nat.shiftLeft_eq]

/-- A bit of a word as a digit of its number. -/
theorem getLsbD_digit {w : Nat} (x : BitVec w) (n : Nat) : x.getLsbD n = decide (x.toNat / 2 ^ n % 2 = 1) := by
  rw [BitVec.getLsbD, Nat.testBit_eq_decide_div_mod_eq]

/-- A field of a word as digits of its number. -/
theorem fldN_digits {w : Nat} (x : BitVec w) (hi lo : Nat) : fldN x hi lo = x.toNat / 2 ^ lo % 2 ^ (hi - lo + 1) := by
  simp only [fldN, fld, BitVec.extractLsb'_toNat, Nat.shiftRight_eq_div_pow]

/-! Format SR. -/
theorem SR.enc_toNat (f : SR) (op : Byte) :
    (f.enc op).toNat = op.toNat * 2 ^ 56 + f.d.toNat * 2 ^ 51 + f.s1.toNat * 2 ^ 46 + f.s2.toNat * 2 ^ 41 + f.rm.toNat * 2 ^ 38 := by
  have h : (f.enc op).toNat = (op ++ f.d ++ f.s1 ++ f.s2 ++ f.rm ++ 0#38 : BitVec (8 + 5 + 5 + 5 + 3 + 38)).toNat := rfl
  rw [h]; simp only [toNat_append_add, BitVec.toNat_ofNat]; omega
/-- Every field of the format is read back. -/
theorem SR.of_enc (f : SR) (op : Byte) : SR.of (f.enc op) = f := by
  have h := f.enc_toNat op
  obtain ⟨d, s1, s2, rm⟩ := f
  simp only [SR.of, fld, SR.mk.injEq]
  have := d.isLt; have := s1.isLt; have := s2.isLt; have := rm.isLt; have := op.isLt
  refine ⟨?_, ?_, ?_, ?_⟩ <;>
    (apply BitVec.eq_of_toNat_eq; rw [BitVec.extractLsb'_toNat, h, Nat.shiftRight_eq_div_pow]; simp only []; omega)
theorem SR.op_enc (f : SR) (op : Byte) : fldN (f.enc op) 63 56 = op.toNat := by
  have h := f.enc_toNat op
  have := f.d.isLt; have := f.s1.isLt; have := f.s2.isLt; have := f.rm.isLt; have := op.isLt
  rw [fldN_digits, h]; omega

/-! Format SI. -/
theorem SI.enc_toNat (f : SI) (op : Byte) :
    (f.enc op).toNat = op.toNat * 2 ^ 56 + f.d.toNat * 2 ^ 51 + f.s1.toNat * 2 ^ 46 + f.imm.toNat * 2 ^ 5 := by
  have h : (f.enc op).toNat = (op ++ f.d ++ f.s1 ++ f.imm ++ 0#5 : BitVec (8 + 5 + 5 + 41 + 5)).toNat := rfl
  rw [h]; simp only [toNat_append_add, BitVec.toNat_ofNat]; omega
/-- Every field of the format is read back. -/
theorem SI.of_enc (f : SI) (op : Byte) : SI.of (f.enc op) = f := by
  have h := f.enc_toNat op
  obtain ⟨d, s1, imm⟩ := f
  simp only [SI.of, fld, SI.mk.injEq]
  have := d.isLt; have := s1.isLt; have := imm.isLt; have := op.isLt
  refine ⟨?_, ?_, ?_⟩ <;>
    (apply BitVec.eq_of_toNat_eq; rw [BitVec.extractLsb'_toNat, h, Nat.shiftRight_eq_div_pow]; simp only []; omega)
theorem SI.op_enc (f : SI) (op : Byte) : fldN (f.enc op) 63 56 = op.toNat := by
  have h := f.enc_toNat op
  have := f.d.isLt; have := f.s1.isLt; have := f.imm.isLt; have := op.isLt
  rw [fldN_digits, h]; omega

/-! Format SB. -/
theorem SB.enc_toNat (f : SB) (op : Byte) :
    (f.enc op).toNat = op.toNat * 2 ^ 56 + f.s1.toNat * 2 ^ 51 + f.s2.toNat * 2 ^ 46 + f.d.toNat * 2 ^ 41 + f.off.toNat := by
  have h : (f.enc op).toNat = (op ++ f.s1 ++ f.s2 ++ f.d ++ f.off : BitVec (8 + 5 + 5 + 5 + 41)).toNat := rfl
  rw [h]; simp only [toNat_append_add]; omega
/-- Every field of the format is read back. -/
theorem SB.of_enc (f : SB) (op : Byte) : SB.of (f.enc op) = f := by
  have h := f.enc_toNat op
  obtain ⟨s1, s2, d, off⟩ := f
  simp only [SB.of, fld, SB.mk.injEq]
  have := s1.isLt; have := s2.isLt; have := d.isLt; have := off.isLt; have := op.isLt
  refine ⟨?_, ?_, ?_, ?_⟩ <;>
    (apply BitVec.eq_of_toNat_eq; rw [BitVec.extractLsb'_toNat, h, Nat.shiftRight_eq_div_pow]; simp only []; omega)
theorem SB.op_enc (f : SB) (op : Byte) : fldN (f.enc op) 63 56 = op.toNat := by
  have h := f.enc_toNat op
  have := f.s1.isLt; have := f.s2.isLt; have := f.d.isLt; have := f.off.isLt; have := op.isLt
  rw [fldN_digits, h]; omega

/-! Format SC. -/
theorem SC.enc_toNat (f : SC) (op : Byte) :
    (f.enc op).toNat = op.toNat * 2 ^ 56 + f.d.toNat * 2 ^ 51 + f.s1.toNat * 2 ^ 46 + f.cr.toNat * 2 ^ 34 := by
  have h : (f.enc op).toNat = (op ++ f.d ++ f.s1 ++ f.cr ++ 0#34 : BitVec (8 + 5 + 5 + 12 + 34)).toNat := rfl
  rw [h]; simp only [toNat_append_add, BitVec.toNat_ofNat]; omega
/-- Every field of the format is read back. -/
theorem SC.of_enc (f : SC) (op : Byte) : SC.of (f.enc op) = f := by
  have h := f.enc_toNat op
  obtain ⟨d, s1, cr⟩ := f
  simp only [SC.of, fld, SC.mk.injEq]
  have := d.isLt; have := s1.isLt; have := cr.isLt; have := op.isLt
  refine ⟨?_, ?_, ?_⟩ <;>
    (apply BitVec.eq_of_toNat_eq; rw [BitVec.extractLsb'_toNat, h, Nat.shiftRight_eq_div_pow]; simp only []; omega)
theorem SC.op_enc (f : SC) (op : Byte) : fldN (f.enc op) 63 56 = op.toNat := by
  have h := f.enc_toNat op
  have := f.d.isLt; have := f.s1.isLt; have := f.cr.isLt; have := op.isLt
  rw [fldN_digits, h]; omega

/-! Format LM. -/
theorem LM.enc_toNat (f : LM) (op : Byte) :
    (f.enc op).toNat = op.toNat * 2 ^ 56 + f.t.toNat * 2 ^ 48 + f.a.toNat * 2 ^ 44 + f.x.toNat * 2 ^ 39 + f.k.toNat * 2 ^ 36 + f.q.toNat * 2 ^ 33 + f.sc.toNat * 2 ^ 30 + f.pi.toNat * 2 ^ 29 + f.off.toNat := by
  have h : (f.enc op).toNat = (op ++ f.t ++ f.a ++ f.x ++ f.k ++ f.q ++ f.sc ++ f.pi ++ f.off : BitVec (8 + 8 + 4 + 5 + 3 + 3 + 3 + 1 + 29)).toNat := rfl
  rw [h]; simp only [toNat_append_add]; omega
/-- Every field of the format is read back. -/
theorem LM.of_enc (f : LM) (op : Byte) : LM.of (f.enc op) = f := by
  have h := f.enc_toNat op
  obtain ⟨t, a, x, k, q, sc, pi, off⟩ := f
  simp only [LM.of, fld, LM.mk.injEq]
  have := t.isLt; have := a.isLt; have := x.isLt; have := k.isLt; have := q.isLt; have := sc.isLt; have := pi.isLt; have := off.isLt; have := op.isLt
  refine ⟨?_, ?_, ?_, ?_, ?_, ?_, ?_, ?_⟩ <;>
    (apply BitVec.eq_of_toNat_eq; rw [BitVec.extractLsb'_toNat, h, Nat.shiftRight_eq_div_pow]; simp only []; omega)
theorem LM.op_enc (f : LM) (op : Byte) : fldN (f.enc op) 63 56 = op.toNat := by
  have h := f.enc_toNat op
  have := f.t.isLt; have := f.a.isLt; have := f.x.isLt; have := f.k.isLt; have := f.q.isLt; have := f.sc.isLt; have := f.pi.isLt; have := f.off.isLt; have := op.isLt
  rw [fldN_digits, h]; omega

/-! Format LC. -/
theorem LC.enc_toNat (f : LC) (op : Byte) :
    (f.enc op).toNat = op.toNat * 2 ^ 56 + f.d.toNat * 2 ^ 51 + f.a.toNat * 2 ^ 44 + f.s1.toNat * 2 ^ 39 + f.s2.toNat * 2 ^ 34 + f.k.toNat * 2 ^ 31 + f.sc.toNat * 2 ^ 28 + f.imm.toNat := by
  have h : (f.enc op).toNat = (op ++ f.d ++ 0#3 ++ f.a ++ f.s1 ++ f.s2 ++ f.k ++ f.sc ++ f.imm : BitVec (8 + 5 + 3 + 4 + 5 + 5 + 3 + 3 + 28)).toNat := rfl
  rw [h]; simp only [toNat_append_add, BitVec.toNat_ofNat]; omega
/-- Every field of the format is read back. -/
theorem LC.of_enc (f : LC) (op : Byte) : LC.of (f.enc op) = f := by
  have h := f.enc_toNat op
  obtain ⟨d, a, s1, s2, k, sc, imm⟩ := f
  simp only [LC.of, fld, LC.mk.injEq]
  have := d.isLt; have := a.isLt; have := s1.isLt; have := s2.isLt; have := k.isLt; have := sc.isLt; have := imm.isLt; have := op.isLt
  refine ⟨?_, ?_, ?_, ?_, ?_, ?_, ?_⟩ <;>
    (apply BitVec.eq_of_toNat_eq; rw [BitVec.extractLsb'_toNat, h, Nat.shiftRight_eq_div_pow]; simp only []; omega)
theorem LC.op_enc (f : LC) (op : Byte) : fldN (f.enc op) 63 56 = op.toNat := by
  have h := f.enc_toNat op
  have := f.d.isLt; have := f.a.isLt; have := f.s1.isLt; have := f.s2.isLt; have := f.k.isLt; have := f.sc.isLt; have := f.imm.isLt; have := op.isLt
  rw [fldN_digits, h]; omega

/-! Format VV. -/
theorem VV.enc_toNat (f : VV) (op : Byte) :
    (f.enc op).toNat = op.toNat * 2 ^ 56 + f.vd.toNat * 2 ^ 44 + f.vs1.toNat * 2 ^ 32 + f.vs2.toNat * 2 ^ 20 + f.k.toNat * 2 ^ 17 + f.rm.toNat * 2 ^ 14 + f.sat.toNat * 2 ^ 13 + f.fx.toNat * 2 ^ 8 + f.imm.toNat := by
  have h : (f.enc op).toNat = (op ++ f.vd ++ f.vs1 ++ f.vs2 ++ f.k ++ f.rm ++ f.sat ++ f.fx ++ f.imm : BitVec (8 + 12 + 12 + 12 + 3 + 3 + 1 + 5 + 8)).toNat := rfl
  rw [h]; simp only [toNat_append_add]; omega
/-- Every field of the format is read back. -/
theorem VV.of_enc (f : VV) (op : Byte) : VV.of (f.enc op) = f := by
  have h := f.enc_toNat op
  obtain ⟨vd, vs1, vs2, k, rm, sat, fx, imm⟩ := f
  simp only [VV.of, fld, VV.mk.injEq]
  have := vd.isLt; have := vs1.isLt; have := vs2.isLt; have := k.isLt; have := rm.isLt; have := sat.isLt; have := fx.isLt; have := imm.isLt; have := op.isLt
  refine ⟨?_, ?_, ?_, ?_, ?_, ?_, ?_, ?_⟩ <;>
    (apply BitVec.eq_of_toNat_eq; rw [BitVec.extractLsb'_toNat, h, Nat.shiftRight_eq_div_pow]; simp only []; omega)
theorem VV.op_enc (f : VV) (op : Byte) : fldN (f.enc op) 63 56 = op.toNat := by
  have h := f.enc_toNat op
  have := f.vd.isLt; have := f.vs1.isLt; have := f.vs2.isLt; have := f.k.isLt; have := f.rm.isLt; have := f.sat.isLt; have := f.fx.isLt; have := f.imm.isLt; have := op.isLt
  rw [fldN_digits, h]; omega

/-! Format MU. -/
theorem MU.enc_toNat (f : MU) (op : Byte) :
    (f.enc op).toNat = op.toNat * 2 ^ 56 + f.qa.toNat * 2 ^ 52 + f.qb.toNat * 2 ^ 48 + f.hs.toNat * 2 ^ 46 + f.fa.toNat * 2 ^ 41 + f.fb.toNat * 2 ^ 36 := by
  have h : (f.enc op).toNat = (op ++ 0#1 ++ f.qa ++ 0#1 ++ f.qb ++ f.hs ++ f.fa ++ f.fb ++ 0#36 : BitVec (8 + 1 + 3 + 1 + 3 + 2 + 5 + 5 + 36)).toNat := rfl
  rw [h]; simp only [toNat_append_add, BitVec.toNat_ofNat]; omega
/-- Every field of the format is read back. -/
theorem MU.of_enc (f : MU) (op : Byte) : MU.of (f.enc op) = f := by
  have h := f.enc_toNat op
  obtain ⟨qa, qb, hs, fa, fb⟩ := f
  simp only [MU.of, fld, MU.mk.injEq]
  have := qa.isLt; have := qb.isLt; have := hs.isLt; have := fa.isLt; have := fb.isLt; have := op.isLt
  refine ⟨?_, ?_, ?_, ?_, ?_⟩ <;>
    (apply BitVec.eq_of_toNat_eq; rw [BitVec.extractLsb'_toNat, h, Nat.shiftRight_eq_div_pow]; simp only []; omega)
theorem MU.op_enc (f : MU) (op : Byte) : fldN (f.enc op) 63 56 = op.toNat := by
  have h := f.enc_toNat op
  have := f.qa.isLt; have := f.qb.isLt; have := f.hs.isLt; have := f.fa.isLt; have := f.fb.isLt; have := op.isLt
  rw [fldN_digits, h]; omega

/-! Format MC. -/
theorem MC.enc_toNat (f : MC) (op : Byte) :
    (f.enc op).toNat = op.toNat * 2 ^ 56 + f.d.toNat * 2 ^ 51 + f.s1.toNat * 2 ^ 46 + f.hs.toNat * 2 ^ 44 + f.imm.toNat := by
  have h : (f.enc op).toNat = (op ++ f.d ++ f.s1 ++ f.hs ++ 0#12 ++ f.imm : BitVec (8 + 5 + 5 + 2 + 12 + 32)).toNat := rfl
  rw [h]; simp only [toNat_append_add, BitVec.toNat_ofNat]; omega
/-- Every field of the format is read back. -/
theorem MC.of_enc (f : MC) (op : Byte) : MC.of (f.enc op) = f := by
  have h := f.enc_toNat op
  obtain ⟨d, s1, hs, imm⟩ := f
  simp only [MC.of, fld, MC.mk.injEq]
  have := d.isLt; have := s1.isLt; have := hs.isLt; have := imm.isLt; have := op.isLt
  refine ⟨?_, ?_, ?_, ?_⟩ <;>
    (apply BitVec.eq_of_toNat_eq; rw [BitVec.extractLsb'_toNat, h, Nat.shiftRight_eq_div_pow]; simp only []; omega)
theorem MC.op_enc (f : MC) (op : Byte) : fldN (f.enc op) 63 56 = op.toNat := by
  have h := f.enc_toNat op
  have := f.d.isLt; have := f.s1.isLt; have := f.hs.isLt; have := f.imm.isLt; have := op.isLt
  rw [fldN_digits, h]; omega

end Sys2Proof
end

