-- ==== Sys2Proof/Laws/Tbl.lean ====
section
/-! SUPPORT. Laws of tables and of the canonical byte memory. -/
namespace Sys2Proof

@[simp] theorem tget_nil {α : Type} (d : α) (k : Nat) : tget d [] k = d := rfl

@[simp] theorem tget_tset_same {α : Type} (d : α) (t : Tbl α) (k : Nat) (v : α) : tget d (tset t k v) k = v := by
  induction t with
  | nil => simp [tset, tget]
  | cons q r ih =>
    obtain ⟨a, x⟩ := q
    simp only [tset]
    split
    · simp [tget]
    · split
      · simp [tget]
      · simp_all [tget]

theorem tget_tset_ne {α : Type} (d : α) (t : Tbl α) {k j : Nat} (v : α) (h : j ≠ k) : tget d (tset t k v) j = tget d t j := by
  induction t with
  | nil => simp only [tset, tget, if_neg h, ite_self]
  | cons q r ih =>
    obtain ⟨a, x⟩ := q
    simp only [tset]
    split
    · rename_i hk
      simp only [tget, if_neg h]
      split
      · rw [if_pos (by omega)]
      · rfl
    · split
      · subst_vars; simp only [tget, if_neg h]
      · simp only [tget, ih]

theorem tget_tset {α : Type} (d : α) (t : Tbl α) (k j : Nat) (v : α) : tget d (tset t k v) j = if j = k then v else tget d t j := by
  split
  · subst_vars; simp
  · exact tget_tset_ne d t v ‹_›

@[simp] theorem tset_tset_same {α : Type} (t : Tbl α) (k : Nat) (v w : α) : tset (tset t k v) k w = tset t k w := by
  induction t with
  | nil => simp [tset]
  | cons q r ih =>
    obtain ⟨a, x⟩ := q
    by_cases h1 : k < a
    · simp [tset, h1]
    · by_cases h2 : k = a
      · simp [tset, h2]
      · simp [tset, h1, h2, ih]

@[simp] theorem tget_tmod_same {α : Type} (d : α) (t : Tbl α) (k : Nat) (f : α → α) : tget d (tmod d t k f) k = f (tget d t k) := by simp [tmod]
theorem tget_tmod_ne {α : Type} (d : α) (t : Tbl α) {k j : Nat} (f : α → α) (h : j ≠ k) : tget d (tmod d t k f) j = tget d t j :=
  tget_tset_ne d t _ h

/-! Byte memory. -/
theorem memWf_mono {lo lo' : Nat} {m : List (Nat × Byte)} (h : memWf lo m = true) (hl : lo' ≤ lo) : memWf lo' m = true := by
  cases m with
  | nil => rfl
  | cons q r => obtain ⟨a, b⟩ := q; simp [memWf] at h ⊢; exact ⟨⟨by omega, h.1.2⟩, h.2⟩

theorem memGet_below {lo : Nat} {m : List (Nat × Byte)} (h : memWf lo m = true) {k : Nat} (hk : k < lo) : memGet m k = 0#8 := by
  cases m with
  | nil => rfl
  | cons q r => obtain ⟨a, b⟩ := q; simp [memWf] at h; simp [memGet, tget, show k < a by omega]

/-- A write keeps the canonical form. -/
theorem memWf_memSet {lo : Nat} {m : List (Nat × Byte)} (h : memWf lo m = true) {k : Nat} (v : Byte) (hk : lo ≤ k) :
    memWf lo (memSet m k v) = true := by
  induction m generalizing lo with
  | nil => by_cases hv : v = 0#8 <;> simp [memSet, memWf, hv, hk]
  | cons q r ih =>
    obtain ⟨a, x⟩ := q
    simp [memWf] at h
    obtain ⟨⟨h1, h2⟩, h3⟩ := h
    rcases Nat.lt_trichotomy k a with hka | hka | hka
    · by_cases hv : v = 0#8
      · simp [memSet, memWf, hka, hv, h1, h2, h3]
      · simp [memSet, memWf, hka, hv, h2, h3, hk]
    · subst hka
      by_cases hv : v = 0#8
      · simp [memSet, hv, memWf_mono h3 (show lo ≤ k + 1 by omega)]
      · simp [memSet, memWf, hv, h1, h3]
    · have e : memSet ((a, x) :: r) k v = (a, x) :: memSet r k v := by simp [memSet, show ¬ k < a by omega, show k ≠ a by omega]
      simp [e, memWf, h1, h2, ih h3 (show a + 1 ≤ k by omega)]

theorem memWf_memSetMany {lo : Nat} (l : List (Nat × Byte)) {m : List (Nat × Byte)} (h : memWf lo m = true) (hl : ∀ p ∈ l, lo ≤ p.1) :
    memWf lo (memSetMany m l) = true := by
  induction l generalizing m with
  | nil => exact h
  | cons p r ih =>
    exact ih (memWf_memSet h p.2 (hl p (by simp))) (fun q hq => hl q (List.mem_cons_of_mem _ hq))

theorem memWf_filter {lo : Nat} {m : List (Nat × Byte)} (p : Nat × Byte → Bool) (h : memWf lo m = true) : memWf lo (m.filter p) = true := by
  induction m generalizing lo with
  | nil => rfl
  | cons q r ih =>
    obtain ⟨a, x⟩ := q
    simp [memWf] at h
    by_cases hp : p (a, x) = true
    · simp [List.filter, hp, memWf, h.1.1, h.1.2, ih h.2]
    · simp only [List.filter, hp]; exact memWf_mono (ih h.2) (by omega)

/-- A byte reads as written. -/
theorem memGet_memSet_same {lo : Nat} {m : List (Nat × Byte)} (h : memWf lo m = true) (k : Nat) (v : Byte) : memGet (memSet m k v) k = v := by
  induction m generalizing lo with
  | nil => by_cases hv : v = 0#8 <;> simp [memSet, memGet, tget, hv]
  | cons q r ih =>
    obtain ⟨a, x⟩ := q
    simp [memWf] at h
    rcases Nat.lt_trichotomy k a with hka | hka | hka
    · by_cases hv : v = 0#8 <;> simp [memSet, memGet, tget, hka, hv]
    · subst hka
      by_cases hv : v = 0#8
      · subst hv; simpa [memSet] using memGet_below h.2 (Nat.lt_succ_self k)
      · simp [memSet, memGet, tget, hv]
    · have e : memSet ((a, x) :: r) k v = (a, x) :: memSet r k v := by simp [memSet, show ¬ k < a by omega, show k ≠ a by omega]
      rw [e]; simpa [memGet, tget, show ¬ k < a by omega, show k ≠ a by omega] using ih h.2

/-- A write leaves every other byte as it was. -/
theorem memGet_memSet_ne {lo : Nat} {m : List (Nat × Byte)} (h : memWf lo m = true) {k j : Nat} (v : Byte) (hj : j ≠ k) :
    memGet (memSet m k v) j = memGet m j := by
  induction m generalizing lo with
  | nil => by_cases hv : v = 0#8 <;> simp [memSet, memGet, tget, hv, hj]
  | cons q r ih =>
    obtain ⟨a, x⟩ := q
    simp [memWf] at h
    rcases Nat.lt_trichotomy k a with hka | hka | hka
    · by_cases hv : v = 0#8
      · simp [memSet, hka, hv]
      · simp only [memSet, if_pos hka, if_neg hv, memGet, tget, if_neg hj]
        split
        · rw [if_pos (by omega)]
        · rfl
    · subst hka
      by_cases hv : v = 0#8
      · simp only [memSet, lt_irrefl, if_false, hv, if_true]
        by_cases hl : j < k
        · rw [memGet_below h.2 (by omega)]; simp [memGet, tget, hl]
        · simp [memGet, tget, hl, hj]
      · simp only [memSet, lt_irrefl, if_false, if_true, if_neg hv, memGet, tget, if_neg hj]
    · have e : memSet ((a, x) :: r) k v = (a, x) :: memSet r k v := by simp [memSet, show ¬ k < a by omega, show k ≠ a by omega]
      have i := ih h.2
      simp only [memGet] at i
      rw [e]; simp only [memGet, tget, i]

theorem memGet_memSetMany_ne {lo : Nat} (l : List (Nat × Byte)) {m : List (Nat × Byte)} (h : memWf lo m = true) (hl : ∀ p ∈ l, lo ≤ p.1) {j : Nat}
    (hj : ∀ p ∈ l, p.1 ≠ j) : memGet (memSetMany m l) j = memGet m j := by
  induction l generalizing m with
  | nil => rfl
  | cons p r ih =>
    have h1 := memWf_memSet h p.2 (hl p (by simp))
    rw [show memSetMany m (p :: r) = memSetMany (memSet m p.1 p.2) r from rfl,
      ih h1 (fun q hq => hl q (List.mem_cons_of_mem _ hq)) (fun q hq => hj q (List.mem_cons_of_mem _ hq)),
      memGet_memSet_ne h p.2 (fun e => hj p (by simp) e.symm)]

theorem memGet_filter {lo : Nat} {m : List (Nat × Byte)} (h : memWf lo m = true) (p : Nat → Bool) (j : Nat) :
    memGet (m.filter (fun c => p c.1)) j = if p j then memGet m j else 0#8 := by
  induction m generalizing lo with
  | nil => simp [memGet]
  | cons q r ih =>
    obtain ⟨a, x⟩ := q
    simp [memWf] at h
    have i := ih h.2
    have hb := memGet_below h.2 (k := j)
    have hf := memGet_below (memWf_filter (fun c => p c.1) h.2) (k := j)
    by_cases hp : p a = true
    · simp only [List.filter, hp, memGet, tget] at i ⊢
      split
      · simp
      · split
        · subst_vars; simp [hp]
        · simpa using i
    · simp only [List.filter, hp]
      rw [i]
      by_cases hj : j = a
      · subst hj; simp [hp]
      · by_cases hl : j < a
        · rw [hb (by omega)]; simp [memGet, tget, hl]
        · simp [memGet, tget, hl, hj]

end Sys2Proof
end

