-- ==== Sys2Proof/Laws/State.lean ====
section
/-! SUPPORT. One lemma per field of the state and per update of it, so that no later proof unfolds a record update; and what the updates of one
core, die, hart or gang read back as. -/
namespace Sys2Proof.Machine
open Sys2Proof

/-! `State.setCore` -/
@[simp] theorem State.setCore_cycle (s : State) (p : Nat) (c : Core) : (s.setCore p c).cycle = s.cycle := rfl
@[simp] theorem State.setCore_agenda (s : State) (p : Nat) (c : Core) : (s.setCore p c).agenda = s.agenda := rfl
@[simp] theorem State.setCore_arg (s : State) (p : Nat) (c : Core) : (s.setCore p c).arg = s.arg := rfl
@[simp] theorem State.setCore_draw (s : State) (p : Nat) (c : Core) : (s.setCore p c).draw = s.draw := rfl
@[simp] theorem State.setCore_nextId (s : State) (p : Nat) (c : Core) : (s.setCore p c).nextId = s.nextId := rfl
@[simp] theorem State.setCore_dies (s : State) (p : Nat) (c : Core) : (s.setCore p c).dies = s.dies := rfl
@[simp] theorem State.setCore_hub (s : State) (p : Nat) (c : Core) : (s.setCore p c).hub = s.hub := rfl
@[simp] theorem State.setCore_mem (s : State) (p : Nat) (c : Core) : (s.setCore p c).mem = s.mem := rfl
@[simp] theorem State.setCore_marks (s : State) (p : Nat) (c : Core) : (s.setCore p c).marks = s.marks := rfl
@[simp] theorem State.setCore_badCheck (s : State) (p : Nat) (c : Core) : (s.setCore p c).badCheck = s.badCheck := rfl
@[simp] theorem State.setCore_lost (s : State) (p : Nat) (c : Core) : (s.setCore p c).lost = s.lost := rfl
@[simp] theorem State.setCore_cleared (s : State) (p : Nat) (c : Core) : (s.setCore p c).cleared = s.cleared := rfl
@[simp] theorem State.setCore_pw (s : State) (p : Nat) (c : Core) : (s.setCore p c).pw = s.pw := rfl
@[simp] theorem State.setCore_issue (s : State) (p : Nat) (c : Core) : (s.setCore p c).issue = s.issue := rfl
@[simp] theorem State.setCore_events (s : State) (p : Nat) (c : Core) : (s.setCore p c).events = s.events := rfl
@[simp] theorem State.setCore_seqs (s : State) (p : Nat) (c : Core) : (s.setCore p c).seqs = s.seqs := rfl
@[simp] theorem State.setCore_outbox (s : State) (p : Nat) (c : Core) : (s.setCore p c).outbox = s.outbox := rfl
@[simp] theorem State.setCore_orphans (s : State) (p : Nat) (c : Core) : (s.setCore p c).orphans = s.orphans := rfl
/-! `State.modCore` -/
@[simp] theorem State.modCore_cycle (s : State) (p : Nat) (f : Core → Core) : (s.modCore p f).cycle = s.cycle := rfl
@[simp] theorem State.modCore_agenda (s : State) (p : Nat) (f : Core → Core) : (s.modCore p f).agenda = s.agenda := rfl
@[simp] theorem State.modCore_arg (s : State) (p : Nat) (f : Core → Core) : (s.modCore p f).arg = s.arg := rfl
@[simp] theorem State.modCore_draw (s : State) (p : Nat) (f : Core → Core) : (s.modCore p f).draw = s.draw := rfl
@[simp] theorem State.modCore_nextId (s : State) (p : Nat) (f : Core → Core) : (s.modCore p f).nextId = s.nextId := rfl
@[simp] theorem State.modCore_dies (s : State) (p : Nat) (f : Core → Core) : (s.modCore p f).dies = s.dies := rfl
@[simp] theorem State.modCore_hub (s : State) (p : Nat) (f : Core → Core) : (s.modCore p f).hub = s.hub := rfl
@[simp] theorem State.modCore_mem (s : State) (p : Nat) (f : Core → Core) : (s.modCore p f).mem = s.mem := rfl
@[simp] theorem State.modCore_marks (s : State) (p : Nat) (f : Core → Core) : (s.modCore p f).marks = s.marks := rfl
@[simp] theorem State.modCore_badCheck (s : State) (p : Nat) (f : Core → Core) : (s.modCore p f).badCheck = s.badCheck := rfl
@[simp] theorem State.modCore_lost (s : State) (p : Nat) (f : Core → Core) : (s.modCore p f).lost = s.lost := rfl
@[simp] theorem State.modCore_cleared (s : State) (p : Nat) (f : Core → Core) : (s.modCore p f).cleared = s.cleared := rfl
@[simp] theorem State.modCore_pw (s : State) (p : Nat) (f : Core → Core) : (s.modCore p f).pw = s.pw := rfl
@[simp] theorem State.modCore_issue (s : State) (p : Nat) (f : Core → Core) : (s.modCore p f).issue = s.issue := rfl
@[simp] theorem State.modCore_events (s : State) (p : Nat) (f : Core → Core) : (s.modCore p f).events = s.events := rfl
@[simp] theorem State.modCore_seqs (s : State) (p : Nat) (f : Core → Core) : (s.modCore p f).seqs = s.seqs := rfl
@[simp] theorem State.modCore_outbox (s : State) (p : Nat) (f : Core → Core) : (s.modCore p f).outbox = s.outbox := rfl
@[simp] theorem State.modCore_orphans (s : State) (p : Nat) (f : Core → Core) : (s.modCore p f).orphans = s.orphans := rfl
/-! `State.setDie` -/
@[simp] theorem State.setDie_cycle (s : State) (d : Nat) (x : Die) : (s.setDie d x).cycle = s.cycle := rfl
@[simp] theorem State.setDie_agenda (s : State) (d : Nat) (x : Die) : (s.setDie d x).agenda = s.agenda := rfl
@[simp] theorem State.setDie_arg (s : State) (d : Nat) (x : Die) : (s.setDie d x).arg = s.arg := rfl
@[simp] theorem State.setDie_draw (s : State) (d : Nat) (x : Die) : (s.setDie d x).draw = s.draw := rfl
@[simp] theorem State.setDie_nextId (s : State) (d : Nat) (x : Die) : (s.setDie d x).nextId = s.nextId := rfl
@[simp] theorem State.setDie_cores (s : State) (d : Nat) (x : Die) : (s.setDie d x).cores = s.cores := rfl
@[simp] theorem State.setDie_hub (s : State) (d : Nat) (x : Die) : (s.setDie d x).hub = s.hub := rfl
@[simp] theorem State.setDie_mem (s : State) (d : Nat) (x : Die) : (s.setDie d x).mem = s.mem := rfl
@[simp] theorem State.setDie_marks (s : State) (d : Nat) (x : Die) : (s.setDie d x).marks = s.marks := rfl
@[simp] theorem State.setDie_badCheck (s : State) (d : Nat) (x : Die) : (s.setDie d x).badCheck = s.badCheck := rfl
@[simp] theorem State.setDie_lost (s : State) (d : Nat) (x : Die) : (s.setDie d x).lost = s.lost := rfl
@[simp] theorem State.setDie_cleared (s : State) (d : Nat) (x : Die) : (s.setDie d x).cleared = s.cleared := rfl
@[simp] theorem State.setDie_pw (s : State) (d : Nat) (x : Die) : (s.setDie d x).pw = s.pw := rfl
@[simp] theorem State.setDie_issue (s : State) (d : Nat) (x : Die) : (s.setDie d x).issue = s.issue := rfl
@[simp] theorem State.setDie_events (s : State) (d : Nat) (x : Die) : (s.setDie d x).events = s.events := rfl
@[simp] theorem State.setDie_seqs (s : State) (d : Nat) (x : Die) : (s.setDie d x).seqs = s.seqs := rfl
@[simp] theorem State.setDie_outbox (s : State) (d : Nat) (x : Die) : (s.setDie d x).outbox = s.outbox := rfl
@[simp] theorem State.setDie_orphans (s : State) (d : Nat) (x : Die) : (s.setDie d x).orphans = s.orphans := rfl
/-! `State.modDie` -/
@[simp] theorem State.modDie_cycle (s : State) (d : Nat) (f : Die → Die) : (s.modDie d f).cycle = s.cycle := rfl
@[simp] theorem State.modDie_agenda (s : State) (d : Nat) (f : Die → Die) : (s.modDie d f).agenda = s.agenda := rfl
@[simp] theorem State.modDie_arg (s : State) (d : Nat) (f : Die → Die) : (s.modDie d f).arg = s.arg := rfl
@[simp] theorem State.modDie_draw (s : State) (d : Nat) (f : Die → Die) : (s.modDie d f).draw = s.draw := rfl
@[simp] theorem State.modDie_nextId (s : State) (d : Nat) (f : Die → Die) : (s.modDie d f).nextId = s.nextId := rfl
@[simp] theorem State.modDie_cores (s : State) (d : Nat) (f : Die → Die) : (s.modDie d f).cores = s.cores := rfl
@[simp] theorem State.modDie_hub (s : State) (d : Nat) (f : Die → Die) : (s.modDie d f).hub = s.hub := rfl
@[simp] theorem State.modDie_mem (s : State) (d : Nat) (f : Die → Die) : (s.modDie d f).mem = s.mem := rfl
@[simp] theorem State.modDie_marks (s : State) (d : Nat) (f : Die → Die) : (s.modDie d f).marks = s.marks := rfl
@[simp] theorem State.modDie_badCheck (s : State) (d : Nat) (f : Die → Die) : (s.modDie d f).badCheck = s.badCheck := rfl
@[simp] theorem State.modDie_lost (s : State) (d : Nat) (f : Die → Die) : (s.modDie d f).lost = s.lost := rfl
@[simp] theorem State.modDie_cleared (s : State) (d : Nat) (f : Die → Die) : (s.modDie d f).cleared = s.cleared := rfl
@[simp] theorem State.modDie_pw (s : State) (d : Nat) (f : Die → Die) : (s.modDie d f).pw = s.pw := rfl
@[simp] theorem State.modDie_issue (s : State) (d : Nat) (f : Die → Die) : (s.modDie d f).issue = s.issue := rfl
@[simp] theorem State.modDie_events (s : State) (d : Nat) (f : Die → Die) : (s.modDie d f).events = s.events := rfl
@[simp] theorem State.modDie_seqs (s : State) (d : Nat) (f : Die → Die) : (s.modDie d f).seqs = s.seqs := rfl
@[simp] theorem State.modDie_outbox (s : State) (d : Nat) (f : Die → Die) : (s.modDie d f).outbox = s.outbox := rfl
@[simp] theorem State.modDie_orphans (s : State) (d : Nat) (f : Die → Die) : (s.modDie d f).orphans = s.orphans := rfl
/-! `State.modHub` -/
@[simp] theorem State.modHub_cycle (s : State) (f : Hub → Hub) : (s.modHub f).cycle = s.cycle := rfl
@[simp] theorem State.modHub_agenda (s : State) (f : Hub → Hub) : (s.modHub f).agenda = s.agenda := rfl
@[simp] theorem State.modHub_arg (s : State) (f : Hub → Hub) : (s.modHub f).arg = s.arg := rfl
@[simp] theorem State.modHub_draw (s : State) (f : Hub → Hub) : (s.modHub f).draw = s.draw := rfl
@[simp] theorem State.modHub_nextId (s : State) (f : Hub → Hub) : (s.modHub f).nextId = s.nextId := rfl
@[simp] theorem State.modHub_cores (s : State) (f : Hub → Hub) : (s.modHub f).cores = s.cores := rfl
@[simp] theorem State.modHub_dies (s : State) (f : Hub → Hub) : (s.modHub f).dies = s.dies := rfl
@[simp] theorem State.modHub_mem (s : State) (f : Hub → Hub) : (s.modHub f).mem = s.mem := rfl
@[simp] theorem State.modHub_marks (s : State) (f : Hub → Hub) : (s.modHub f).marks = s.marks := rfl
@[simp] theorem State.modHub_badCheck (s : State) (f : Hub → Hub) : (s.modHub f).badCheck = s.badCheck := rfl
@[simp] theorem State.modHub_lost (s : State) (f : Hub → Hub) : (s.modHub f).lost = s.lost := rfl
@[simp] theorem State.modHub_cleared (s : State) (f : Hub → Hub) : (s.modHub f).cleared = s.cleared := rfl
@[simp] theorem State.modHub_pw (s : State) (f : Hub → Hub) : (s.modHub f).pw = s.pw := rfl
@[simp] theorem State.modHub_issue (s : State) (f : Hub → Hub) : (s.modHub f).issue = s.issue := rfl
@[simp] theorem State.modHub_events (s : State) (f : Hub → Hub) : (s.modHub f).events = s.events := rfl
@[simp] theorem State.modHub_seqs (s : State) (f : Hub → Hub) : (s.modHub f).seqs = s.seqs := rfl
@[simp] theorem State.modHub_outbox (s : State) (f : Hub → Hub) : (s.modHub f).outbox = s.outbox := rfl
@[simp] theorem State.modHub_orphans (s : State) (f : Hub → Hub) : (s.modHub f).orphans = s.orphans := rfl
/-! `State.setHart` -/
@[simp] theorem State.setHart_cycle (s : State) (p i : Nat) (x : Hart) : (s.setHart p i x).cycle = s.cycle := rfl
@[simp] theorem State.setHart_agenda (s : State) (p i : Nat) (x : Hart) : (s.setHart p i x).agenda = s.agenda := rfl
@[simp] theorem State.setHart_arg (s : State) (p i : Nat) (x : Hart) : (s.setHart p i x).arg = s.arg := rfl
@[simp] theorem State.setHart_draw (s : State) (p i : Nat) (x : Hart) : (s.setHart p i x).draw = s.draw := rfl
@[simp] theorem State.setHart_nextId (s : State) (p i : Nat) (x : Hart) : (s.setHart p i x).nextId = s.nextId := rfl
@[simp] theorem State.setHart_dies (s : State) (p i : Nat) (x : Hart) : (s.setHart p i x).dies = s.dies := rfl
@[simp] theorem State.setHart_hub (s : State) (p i : Nat) (x : Hart) : (s.setHart p i x).hub = s.hub := rfl
@[simp] theorem State.setHart_mem (s : State) (p i : Nat) (x : Hart) : (s.setHart p i x).mem = s.mem := rfl
@[simp] theorem State.setHart_marks (s : State) (p i : Nat) (x : Hart) : (s.setHart p i x).marks = s.marks := rfl
@[simp] theorem State.setHart_badCheck (s : State) (p i : Nat) (x : Hart) : (s.setHart p i x).badCheck = s.badCheck := rfl
@[simp] theorem State.setHart_lost (s : State) (p i : Nat) (x : Hart) : (s.setHart p i x).lost = s.lost := rfl
@[simp] theorem State.setHart_cleared (s : State) (p i : Nat) (x : Hart) : (s.setHart p i x).cleared = s.cleared := rfl
@[simp] theorem State.setHart_pw (s : State) (p i : Nat) (x : Hart) : (s.setHart p i x).pw = s.pw := rfl
@[simp] theorem State.setHart_issue (s : State) (p i : Nat) (x : Hart) : (s.setHart p i x).issue = s.issue := rfl
@[simp] theorem State.setHart_events (s : State) (p i : Nat) (x : Hart) : (s.setHart p i x).events = s.events := rfl
@[simp] theorem State.setHart_seqs (s : State) (p i : Nat) (x : Hart) : (s.setHart p i x).seqs = s.seqs := rfl
@[simp] theorem State.setHart_outbox (s : State) (p i : Nat) (x : Hart) : (s.setHart p i x).outbox = s.outbox := rfl
@[simp] theorem State.setHart_orphans (s : State) (p i : Nat) (x : Hart) : (s.setHart p i x).orphans = s.orphans := rfl
/-! `State.setQueue` -/
@[simp] theorem State.setQueue_cycle (s : State) (p q : Nat) (x : Queue) : (s.setQueue p q x).cycle = s.cycle := rfl
@[simp] theorem State.setQueue_agenda (s : State) (p q : Nat) (x : Queue) : (s.setQueue p q x).agenda = s.agenda := rfl
@[simp] theorem State.setQueue_arg (s : State) (p q : Nat) (x : Queue) : (s.setQueue p q x).arg = s.arg := rfl
@[simp] theorem State.setQueue_draw (s : State) (p q : Nat) (x : Queue) : (s.setQueue p q x).draw = s.draw := rfl
@[simp] theorem State.setQueue_nextId (s : State) (p q : Nat) (x : Queue) : (s.setQueue p q x).nextId = s.nextId := rfl
@[simp] theorem State.setQueue_dies (s : State) (p q : Nat) (x : Queue) : (s.setQueue p q x).dies = s.dies := rfl
@[simp] theorem State.setQueue_hub (s : State) (p q : Nat) (x : Queue) : (s.setQueue p q x).hub = s.hub := rfl
@[simp] theorem State.setQueue_mem (s : State) (p q : Nat) (x : Queue) : (s.setQueue p q x).mem = s.mem := rfl
@[simp] theorem State.setQueue_marks (s : State) (p q : Nat) (x : Queue) : (s.setQueue p q x).marks = s.marks := rfl
@[simp] theorem State.setQueue_badCheck (s : State) (p q : Nat) (x : Queue) : (s.setQueue p q x).badCheck = s.badCheck := rfl
@[simp] theorem State.setQueue_lost (s : State) (p q : Nat) (x : Queue) : (s.setQueue p q x).lost = s.lost := rfl
@[simp] theorem State.setQueue_cleared (s : State) (p q : Nat) (x : Queue) : (s.setQueue p q x).cleared = s.cleared := rfl
@[simp] theorem State.setQueue_pw (s : State) (p q : Nat) (x : Queue) : (s.setQueue p q x).pw = s.pw := rfl
@[simp] theorem State.setQueue_issue (s : State) (p q : Nat) (x : Queue) : (s.setQueue p q x).issue = s.issue := rfl
@[simp] theorem State.setQueue_events (s : State) (p q : Nat) (x : Queue) : (s.setQueue p q x).events = s.events := rfl
@[simp] theorem State.setQueue_seqs (s : State) (p q : Nat) (x : Queue) : (s.setQueue p q x).seqs = s.seqs := rfl
@[simp] theorem State.setQueue_outbox (s : State) (p q : Nat) (x : Queue) : (s.setQueue p q x).outbox = s.outbox := rfl
@[simp] theorem State.setQueue_orphans (s : State) (p q : Nat) (x : Queue) : (s.setQueue p q x).orphans = s.orphans := rfl
/-! `State.modFifo` -/
@[simp] theorem State.modFifo_cycle (s : State) (p n : Nat) (f : Fifo → Fifo) : (s.modFifo p n f).cycle = s.cycle := rfl
@[simp] theorem State.modFifo_agenda (s : State) (p n : Nat) (f : Fifo → Fifo) : (s.modFifo p n f).agenda = s.agenda := rfl
@[simp] theorem State.modFifo_arg (s : State) (p n : Nat) (f : Fifo → Fifo) : (s.modFifo p n f).arg = s.arg := rfl
@[simp] theorem State.modFifo_draw (s : State) (p n : Nat) (f : Fifo → Fifo) : (s.modFifo p n f).draw = s.draw := rfl
@[simp] theorem State.modFifo_nextId (s : State) (p n : Nat) (f : Fifo → Fifo) : (s.modFifo p n f).nextId = s.nextId := rfl
@[simp] theorem State.modFifo_dies (s : State) (p n : Nat) (f : Fifo → Fifo) : (s.modFifo p n f).dies = s.dies := rfl
@[simp] theorem State.modFifo_hub (s : State) (p n : Nat) (f : Fifo → Fifo) : (s.modFifo p n f).hub = s.hub := rfl
@[simp] theorem State.modFifo_mem (s : State) (p n : Nat) (f : Fifo → Fifo) : (s.modFifo p n f).mem = s.mem := rfl
@[simp] theorem State.modFifo_marks (s : State) (p n : Nat) (f : Fifo → Fifo) : (s.modFifo p n f).marks = s.marks := rfl
@[simp] theorem State.modFifo_badCheck (s : State) (p n : Nat) (f : Fifo → Fifo) : (s.modFifo p n f).badCheck = s.badCheck := rfl
@[simp] theorem State.modFifo_lost (s : State) (p n : Nat) (f : Fifo → Fifo) : (s.modFifo p n f).lost = s.lost := rfl
@[simp] theorem State.modFifo_cleared (s : State) (p n : Nat) (f : Fifo → Fifo) : (s.modFifo p n f).cleared = s.cleared := rfl
@[simp] theorem State.modFifo_pw (s : State) (p n : Nat) (f : Fifo → Fifo) : (s.modFifo p n f).pw = s.pw := rfl
@[simp] theorem State.modFifo_issue (s : State) (p n : Nat) (f : Fifo → Fifo) : (s.modFifo p n f).issue = s.issue := rfl
@[simp] theorem State.modFifo_events (s : State) (p n : Nat) (f : Fifo → Fifo) : (s.modFifo p n f).events = s.events := rfl
@[simp] theorem State.modFifo_seqs (s : State) (p n : Nat) (f : Fifo → Fifo) : (s.modFifo p n f).seqs = s.seqs := rfl
@[simp] theorem State.modFifo_outbox (s : State) (p n : Nat) (f : Fifo → Fifo) : (s.modFifo p n f).outbox = s.outbox := rfl
@[simp] theorem State.modFifo_orphans (s : State) (p n : Nat) (f : Fifo → Fifo) : (s.modFifo p n f).orphans = s.orphans := rfl
/-! `State.setGang` -/
@[simp] theorem State.setGang_cycle (s : State) (d i : Nat) (r : Rec) : (s.setGang d i r).cycle = s.cycle := rfl
@[simp] theorem State.setGang_agenda (s : State) (d i : Nat) (r : Rec) : (s.setGang d i r).agenda = s.agenda := rfl
@[simp] theorem State.setGang_arg (s : State) (d i : Nat) (r : Rec) : (s.setGang d i r).arg = s.arg := rfl
@[simp] theorem State.setGang_draw (s : State) (d i : Nat) (r : Rec) : (s.setGang d i r).draw = s.draw := rfl
@[simp] theorem State.setGang_nextId (s : State) (d i : Nat) (r : Rec) : (s.setGang d i r).nextId = s.nextId := rfl
@[simp] theorem State.setGang_cores (s : State) (d i : Nat) (r : Rec) : (s.setGang d i r).cores = s.cores := rfl
@[simp] theorem State.setGang_hub (s : State) (d i : Nat) (r : Rec) : (s.setGang d i r).hub = s.hub := rfl
@[simp] theorem State.setGang_mem (s : State) (d i : Nat) (r : Rec) : (s.setGang d i r).mem = s.mem := rfl
@[simp] theorem State.setGang_marks (s : State) (d i : Nat) (r : Rec) : (s.setGang d i r).marks = s.marks := rfl
@[simp] theorem State.setGang_badCheck (s : State) (d i : Nat) (r : Rec) : (s.setGang d i r).badCheck = s.badCheck := rfl
@[simp] theorem State.setGang_lost (s : State) (d i : Nat) (r : Rec) : (s.setGang d i r).lost = s.lost := rfl
@[simp] theorem State.setGang_cleared (s : State) (d i : Nat) (r : Rec) : (s.setGang d i r).cleared = s.cleared := rfl
@[simp] theorem State.setGang_pw (s : State) (d i : Nat) (r : Rec) : (s.setGang d i r).pw = s.pw := rfl
@[simp] theorem State.setGang_issue (s : State) (d i : Nat) (r : Rec) : (s.setGang d i r).issue = s.issue := rfl
@[simp] theorem State.setGang_events (s : State) (d i : Nat) (r : Rec) : (s.setGang d i r).events = s.events := rfl
@[simp] theorem State.setGang_seqs (s : State) (d i : Nat) (r : Rec) : (s.setGang d i r).seqs = s.seqs := rfl
@[simp] theorem State.setGang_outbox (s : State) (d i : Nat) (r : Rec) : (s.setGang d i r).outbox = s.outbox := rfl
@[simp] theorem State.setGang_orphans (s : State) (d i : Nat) (r : Rec) : (s.setGang d i r).orphans = s.orphans := rfl
/-! `State.modGang` -/
@[simp] theorem State.modGang_cycle (s : State) (d i : Nat) (f : Rec → Rec) : (s.modGang d i f).cycle = s.cycle := rfl
@[simp] theorem State.modGang_agenda (s : State) (d i : Nat) (f : Rec → Rec) : (s.modGang d i f).agenda = s.agenda := rfl
@[simp] theorem State.modGang_arg (s : State) (d i : Nat) (f : Rec → Rec) : (s.modGang d i f).arg = s.arg := rfl
@[simp] theorem State.modGang_draw (s : State) (d i : Nat) (f : Rec → Rec) : (s.modGang d i f).draw = s.draw := rfl
@[simp] theorem State.modGang_nextId (s : State) (d i : Nat) (f : Rec → Rec) : (s.modGang d i f).nextId = s.nextId := rfl
@[simp] theorem State.modGang_cores (s : State) (d i : Nat) (f : Rec → Rec) : (s.modGang d i f).cores = s.cores := rfl
@[simp] theorem State.modGang_hub (s : State) (d i : Nat) (f : Rec → Rec) : (s.modGang d i f).hub = s.hub := rfl
@[simp] theorem State.modGang_mem (s : State) (d i : Nat) (f : Rec → Rec) : (s.modGang d i f).mem = s.mem := rfl
@[simp] theorem State.modGang_marks (s : State) (d i : Nat) (f : Rec → Rec) : (s.modGang d i f).marks = s.marks := rfl
@[simp] theorem State.modGang_badCheck (s : State) (d i : Nat) (f : Rec → Rec) : (s.modGang d i f).badCheck = s.badCheck := rfl
@[simp] theorem State.modGang_lost (s : State) (d i : Nat) (f : Rec → Rec) : (s.modGang d i f).lost = s.lost := rfl
@[simp] theorem State.modGang_cleared (s : State) (d i : Nat) (f : Rec → Rec) : (s.modGang d i f).cleared = s.cleared := rfl
@[simp] theorem State.modGang_pw (s : State) (d i : Nat) (f : Rec → Rec) : (s.modGang d i f).pw = s.pw := rfl
@[simp] theorem State.modGang_issue (s : State) (d i : Nat) (f : Rec → Rec) : (s.modGang d i f).issue = s.issue := rfl
@[simp] theorem State.modGang_events (s : State) (d i : Nat) (f : Rec → Rec) : (s.modGang d i f).events = s.events := rfl
@[simp] theorem State.modGang_seqs (s : State) (d i : Nat) (f : Rec → Rec) : (s.modGang d i f).seqs = s.seqs := rfl
@[simp] theorem State.modGang_outbox (s : State) (d i : Nat) (f : Rec → Rec) : (s.modGang d i f).outbox = s.outbox := rfl
@[simp] theorem State.modGang_orphans (s : State) (d i : Nat) (f : Rec → Rec) : (s.modGang d i f).orphans = s.orphans := rfl
/-! `State.stall` -/
@[simp] theorem State.stall_cycle (s : State) : (s.stall).cycle = s.cycle := rfl
@[simp] theorem State.stall_agenda (s : State) : (s.stall).agenda = s.agenda := rfl
@[simp] theorem State.stall_arg (s : State) : (s.stall).arg = s.arg := rfl
@[simp] theorem State.stall_draw (s : State) : (s.stall).draw = s.draw := rfl
@[simp] theorem State.stall_nextId (s : State) : (s.stall).nextId = s.nextId := rfl
@[simp] theorem State.stall_cores (s : State) : (s.stall).cores = s.cores := rfl
@[simp] theorem State.stall_dies (s : State) : (s.stall).dies = s.dies := rfl
@[simp] theorem State.stall_hub (s : State) : (s.stall).hub = s.hub := rfl
@[simp] theorem State.stall_mem (s : State) : (s.stall).mem = s.mem := rfl
@[simp] theorem State.stall_marks (s : State) : (s.stall).marks = s.marks := rfl
@[simp] theorem State.stall_badCheck (s : State) : (s.stall).badCheck = s.badCheck := rfl
@[simp] theorem State.stall_lost (s : State) : (s.stall).lost = s.lost := rfl
@[simp] theorem State.stall_cleared (s : State) : (s.stall).cleared = s.cleared := rfl
@[simp] theorem State.stall_pw (s : State) : (s.stall).pw = s.pw := rfl
@[simp] theorem State.stall_events (s : State) : (s.stall).events = s.events := rfl
@[simp] theorem State.stall_seqs (s : State) : (s.stall).seqs = s.seqs := rfl
@[simp] theorem State.stall_outbox (s : State) : (s.stall).outbox = s.outbox := rfl
@[simp] theorem State.stall_orphans (s : State) : (s.stall).orphans = s.orphans := rfl
/-! `State.late` -/
@[simp] theorem State.late_cycle (s : State) (c : Nat) : (s.late c).cycle = s.cycle := rfl
@[simp] theorem State.late_agenda (s : State) (c : Nat) : (s.late c).agenda = s.agenda := rfl
@[simp] theorem State.late_arg (s : State) (c : Nat) : (s.late c).arg = s.arg := rfl
@[simp] theorem State.late_draw (s : State) (c : Nat) : (s.late c).draw = s.draw := rfl
@[simp] theorem State.late_nextId (s : State) (c : Nat) : (s.late c).nextId = s.nextId := rfl
@[simp] theorem State.late_cores (s : State) (c : Nat) : (s.late c).cores = s.cores := rfl
@[simp] theorem State.late_dies (s : State) (c : Nat) : (s.late c).dies = s.dies := rfl
@[simp] theorem State.late_hub (s : State) (c : Nat) : (s.late c).hub = s.hub := rfl
@[simp] theorem State.late_mem (s : State) (c : Nat) : (s.late c).mem = s.mem := rfl
@[simp] theorem State.late_marks (s : State) (c : Nat) : (s.late c).marks = s.marks := rfl
@[simp] theorem State.late_badCheck (s : State) (c : Nat) : (s.late c).badCheck = s.badCheck := rfl
@[simp] theorem State.late_lost (s : State) (c : Nat) : (s.late c).lost = s.lost := rfl
@[simp] theorem State.late_cleared (s : State) (c : Nat) : (s.late c).cleared = s.cleared := rfl
@[simp] theorem State.late_pw (s : State) (c : Nat) : (s.late c).pw = s.pw := rfl
@[simp] theorem State.late_events (s : State) (c : Nat) : (s.late c).events = s.events := rfl
@[simp] theorem State.late_seqs (s : State) (c : Nat) : (s.late c).seqs = s.seqs := rfl
@[simp] theorem State.late_outbox (s : State) (c : Nat) : (s.late c).outbox = s.outbox := rfl
@[simp] theorem State.late_orphans (s : State) (c : Nat) : (s.late c).orphans = s.orphans := rfl
/-! `State.raise` -/
@[simp] theorem State.raise_cycle (s : State) (t : TrapReq) : (s.raise t).cycle = s.cycle := rfl
@[simp] theorem State.raise_agenda (s : State) (t : TrapReq) : (s.raise t).agenda = s.agenda := rfl
@[simp] theorem State.raise_arg (s : State) (t : TrapReq) : (s.raise t).arg = s.arg := rfl
@[simp] theorem State.raise_draw (s : State) (t : TrapReq) : (s.raise t).draw = s.draw := rfl
@[simp] theorem State.raise_nextId (s : State) (t : TrapReq) : (s.raise t).nextId = s.nextId := rfl
@[simp] theorem State.raise_cores (s : State) (t : TrapReq) : (s.raise t).cores = s.cores := rfl
@[simp] theorem State.raise_dies (s : State) (t : TrapReq) : (s.raise t).dies = s.dies := rfl
@[simp] theorem State.raise_hub (s : State) (t : TrapReq) : (s.raise t).hub = s.hub := rfl
@[simp] theorem State.raise_mem (s : State) (t : TrapReq) : (s.raise t).mem = s.mem := rfl
@[simp] theorem State.raise_marks (s : State) (t : TrapReq) : (s.raise t).marks = s.marks := rfl
@[simp] theorem State.raise_badCheck (s : State) (t : TrapReq) : (s.raise t).badCheck = s.badCheck := rfl
@[simp] theorem State.raise_lost (s : State) (t : TrapReq) : (s.raise t).lost = s.lost := rfl
@[simp] theorem State.raise_cleared (s : State) (t : TrapReq) : (s.raise t).cleared = s.cleared := rfl
@[simp] theorem State.raise_pw (s : State) (t : TrapReq) : (s.raise t).pw = s.pw := rfl
@[simp] theorem State.raise_events (s : State) (t : TrapReq) : (s.raise t).events = s.events := rfl
@[simp] theorem State.raise_seqs (s : State) (t : TrapReq) : (s.raise t).seqs = s.seqs := rfl
@[simp] theorem State.raise_outbox (s : State) (t : TrapReq) : (s.raise t).outbox = s.outbox := rfl
@[simp] theorem State.raise_orphans (s : State) (t : TrapReq) : (s.raise t).orphans = s.orphans := rfl
/-! `State.after` -/
@[simp] theorem State.after_cycle (s : State) (t : TrapReq) : (s.after t).cycle = s.cycle := rfl
@[simp] theorem State.after_agenda (s : State) (t : TrapReq) : (s.after t).agenda = s.agenda := rfl
@[simp] theorem State.after_arg (s : State) (t : TrapReq) : (s.after t).arg = s.arg := rfl
@[simp] theorem State.after_draw (s : State) (t : TrapReq) : (s.after t).draw = s.draw := rfl
@[simp] theorem State.after_nextId (s : State) (t : TrapReq) : (s.after t).nextId = s.nextId := rfl
@[simp] theorem State.after_cores (s : State) (t : TrapReq) : (s.after t).cores = s.cores := rfl
@[simp] theorem State.after_dies (s : State) (t : TrapReq) : (s.after t).dies = s.dies := rfl
@[simp] theorem State.after_hub (s : State) (t : TrapReq) : (s.after t).hub = s.hub := rfl
@[simp] theorem State.after_mem (s : State) (t : TrapReq) : (s.after t).mem = s.mem := rfl
@[simp] theorem State.after_marks (s : State) (t : TrapReq) : (s.after t).marks = s.marks := rfl
@[simp] theorem State.after_badCheck (s : State) (t : TrapReq) : (s.after t).badCheck = s.badCheck := rfl
@[simp] theorem State.after_lost (s : State) (t : TrapReq) : (s.after t).lost = s.lost := rfl
@[simp] theorem State.after_cleared (s : State) (t : TrapReq) : (s.after t).cleared = s.cleared := rfl
@[simp] theorem State.after_pw (s : State) (t : TrapReq) : (s.after t).pw = s.pw := rfl
@[simp] theorem State.after_events (s : State) (t : TrapReq) : (s.after t).events = s.events := rfl
@[simp] theorem State.after_seqs (s : State) (t : TrapReq) : (s.after t).seqs = s.seqs := rfl
@[simp] theorem State.after_outbox (s : State) (t : TrapReq) : (s.after t).outbox = s.outbox := rfl
@[simp] theorem State.after_orphans (s : State) (t : TrapReq) : (s.after t).orphans = s.orphans := rfl
/-! `State.illegal` -/
@[simp] theorem State.illegal_cycle (s : State) (a b : Nat) : (s.illegal a b).cycle = s.cycle := rfl
@[simp] theorem State.illegal_agenda (s : State) (a b : Nat) : (s.illegal a b).agenda = s.agenda := rfl
@[simp] theorem State.illegal_arg (s : State) (a b : Nat) : (s.illegal a b).arg = s.arg := rfl
@[simp] theorem State.illegal_draw (s : State) (a b : Nat) : (s.illegal a b).draw = s.draw := rfl
@[simp] theorem State.illegal_nextId (s : State) (a b : Nat) : (s.illegal a b).nextId = s.nextId := rfl
@[simp] theorem State.illegal_cores (s : State) (a b : Nat) : (s.illegal a b).cores = s.cores := rfl
@[simp] theorem State.illegal_dies (s : State) (a b : Nat) : (s.illegal a b).dies = s.dies := rfl
@[simp] theorem State.illegal_hub (s : State) (a b : Nat) : (s.illegal a b).hub = s.hub := rfl
@[simp] theorem State.illegal_mem (s : State) (a b : Nat) : (s.illegal a b).mem = s.mem := rfl
@[simp] theorem State.illegal_marks (s : State) (a b : Nat) : (s.illegal a b).marks = s.marks := rfl
@[simp] theorem State.illegal_badCheck (s : State) (a b : Nat) : (s.illegal a b).badCheck = s.badCheck := rfl
@[simp] theorem State.illegal_lost (s : State) (a b : Nat) : (s.illegal a b).lost = s.lost := rfl
@[simp] theorem State.illegal_cleared (s : State) (a b : Nat) : (s.illegal a b).cleared = s.cleared := rfl
@[simp] theorem State.illegal_pw (s : State) (a b : Nat) : (s.illegal a b).pw = s.pw := rfl
@[simp] theorem State.illegal_events (s : State) (a b : Nat) : (s.illegal a b).events = s.events := rfl
@[simp] theorem State.illegal_seqs (s : State) (a b : Nat) : (s.illegal a b).seqs = s.seqs := rfl
@[simp] theorem State.illegal_outbox (s : State) (a b : Nat) : (s.illegal a b).outbox = s.outbox := rfl
@[simp] theorem State.illegal_orphans (s : State) (a b : Nat) : (s.illegal a b).orphans = s.orphans := rfl
/-! `State.operand` -/
@[simp] theorem State.operand_cycle (s : State) (a : Nat) : (s.operand a).cycle = s.cycle := rfl
@[simp] theorem State.operand_agenda (s : State) (a : Nat) : (s.operand a).agenda = s.agenda := rfl
@[simp] theorem State.operand_arg (s : State) (a : Nat) : (s.operand a).arg = s.arg := rfl
@[simp] theorem State.operand_draw (s : State) (a : Nat) : (s.operand a).draw = s.draw := rfl
@[simp] theorem State.operand_nextId (s : State) (a : Nat) : (s.operand a).nextId = s.nextId := rfl
@[simp] theorem State.operand_cores (s : State) (a : Nat) : (s.operand a).cores = s.cores := rfl
@[simp] theorem State.operand_dies (s : State) (a : Nat) : (s.operand a).dies = s.dies := rfl
@[simp] theorem State.operand_hub (s : State) (a : Nat) : (s.operand a).hub = s.hub := rfl
@[simp] theorem State.operand_mem (s : State) (a : Nat) : (s.operand a).mem = s.mem := rfl
@[simp] theorem State.operand_marks (s : State) (a : Nat) : (s.operand a).marks = s.marks := rfl
@[simp] theorem State.operand_badCheck (s : State) (a : Nat) : (s.operand a).badCheck = s.badCheck := rfl
@[simp] theorem State.operand_lost (s : State) (a : Nat) : (s.operand a).lost = s.lost := rfl
@[simp] theorem State.operand_cleared (s : State) (a : Nat) : (s.operand a).cleared = s.cleared := rfl
@[simp] theorem State.operand_pw (s : State) (a : Nat) : (s.operand a).pw = s.pw := rfl
@[simp] theorem State.operand_events (s : State) (a : Nat) : (s.operand a).events = s.events := rfl
@[simp] theorem State.operand_seqs (s : State) (a : Nat) : (s.operand a).seqs = s.seqs := rfl
@[simp] theorem State.operand_outbox (s : State) (a : Nat) : (s.operand a).outbox = s.outbox := rfl
@[simp] theorem State.operand_orphans (s : State) (a : Nat) : (s.operand a).orphans = s.orphans := rfl
/-! `State.drawn` -/
@[simp] theorem State.drawn_cycle (s : State) : (s.drawn).cycle = s.cycle := rfl
@[simp] theorem State.drawn_agenda (s : State) : (s.drawn).agenda = s.agenda := rfl
@[simp] theorem State.drawn_arg (s : State) : (s.drawn).arg = s.arg := rfl
@[simp] theorem State.drawn_nextId (s : State) : (s.drawn).nextId = s.nextId := rfl
@[simp] theorem State.drawn_cores (s : State) : (s.drawn).cores = s.cores := rfl
@[simp] theorem State.drawn_dies (s : State) : (s.drawn).dies = s.dies := rfl
@[simp] theorem State.drawn_hub (s : State) : (s.drawn).hub = s.hub := rfl
@[simp] theorem State.drawn_mem (s : State) : (s.drawn).mem = s.mem := rfl
@[simp] theorem State.drawn_marks (s : State) : (s.drawn).marks = s.marks := rfl
@[simp] theorem State.drawn_badCheck (s : State) : (s.drawn).badCheck = s.badCheck := rfl
@[simp] theorem State.drawn_lost (s : State) : (s.drawn).lost = s.lost := rfl
@[simp] theorem State.drawn_cleared (s : State) : (s.drawn).cleared = s.cleared := rfl
@[simp] theorem State.drawn_pw (s : State) : (s.drawn).pw = s.pw := rfl
@[simp] theorem State.drawn_issue (s : State) : (s.drawn).issue = s.issue := rfl
@[simp] theorem State.drawn_events (s : State) : (s.drawn).events = s.events := rfl
@[simp] theorem State.drawn_seqs (s : State) : (s.drawn).seqs = s.seqs := rfl
@[simp] theorem State.drawn_outbox (s : State) : (s.drawn).outbox = s.outbox := rfl
@[simp] theorem State.drawn_orphans (s : State) : (s.drawn).orphans = s.orphans := rfl
/-! `State.event` -/
@[simp] theorem State.event_cycle (s : State) (a b c : Nat) : (s.event a b c).cycle = s.cycle := rfl
@[simp] theorem State.event_agenda (s : State) (a b c : Nat) : (s.event a b c).agenda = s.agenda := rfl
@[simp] theorem State.event_arg (s : State) (a b c : Nat) : (s.event a b c).arg = s.arg := rfl
@[simp] theorem State.event_draw (s : State) (a b c : Nat) : (s.event a b c).draw = s.draw := rfl
@[simp] theorem State.event_nextId (s : State) (a b c : Nat) : (s.event a b c).nextId = s.nextId := rfl
@[simp] theorem State.event_cores (s : State) (a b c : Nat) : (s.event a b c).cores = s.cores := rfl
@[simp] theorem State.event_dies (s : State) (a b c : Nat) : (s.event a b c).dies = s.dies := rfl
@[simp] theorem State.event_hub (s : State) (a b c : Nat) : (s.event a b c).hub = s.hub := rfl
@[simp] theorem State.event_mem (s : State) (a b c : Nat) : (s.event a b c).mem = s.mem := rfl
@[simp] theorem State.event_marks (s : State) (a b c : Nat) : (s.event a b c).marks = s.marks := rfl
@[simp] theorem State.event_badCheck (s : State) (a b c : Nat) : (s.event a b c).badCheck = s.badCheck := rfl
@[simp] theorem State.event_lost (s : State) (a b c : Nat) : (s.event a b c).lost = s.lost := rfl
@[simp] theorem State.event_cleared (s : State) (a b c : Nat) : (s.event a b c).cleared = s.cleared := rfl
@[simp] theorem State.event_pw (s : State) (a b c : Nat) : (s.event a b c).pw = s.pw := rfl
@[simp] theorem State.event_issue (s : State) (a b c : Nat) : (s.event a b c).issue = s.issue := rfl
@[simp] theorem State.event_outbox (s : State) (a b c : Nat) : (s.event a b c).outbox = s.outbox := rfl
@[simp] theorem State.event_orphans (s : State) (a b c : Nat) : (s.event a b c).orphans = s.orphans := rfl

/-! `State.modHart` -/
@[simp] theorem State.modHart_cycle (s : State) (p i : Nat) (f : Hart → Hart) : (s.modHart p i f).cycle = s.cycle := by unfold State.modHart; split <;> rfl
@[simp] theorem State.modHart_agenda (s : State) (p i : Nat) (f : Hart → Hart) : (s.modHart p i f).agenda = s.agenda := by unfold State.modHart; split <;> rfl
@[simp] theorem State.modHart_arg (s : State) (p i : Nat) (f : Hart → Hart) : (s.modHart p i f).arg = s.arg := by unfold State.modHart; split <;> rfl
@[simp] theorem State.modHart_draw (s : State) (p i : Nat) (f : Hart → Hart) : (s.modHart p i f).draw = s.draw := by unfold State.modHart; split <;> rfl
@[simp] theorem State.modHart_nextId (s : State) (p i : Nat) (f : Hart → Hart) : (s.modHart p i f).nextId = s.nextId := by unfold State.modHart; split <;> rfl
@[simp] theorem State.modHart_dies (s : State) (p i : Nat) (f : Hart → Hart) : (s.modHart p i f).dies = s.dies := by unfold State.modHart; split <;> rfl
@[simp] theorem State.modHart_hub (s : State) (p i : Nat) (f : Hart → Hart) : (s.modHart p i f).hub = s.hub := by unfold State.modHart; split <;> rfl
@[simp] theorem State.modHart_mem (s : State) (p i : Nat) (f : Hart → Hart) : (s.modHart p i f).mem = s.mem := by unfold State.modHart; split <;> rfl
@[simp] theorem State.modHart_marks (s : State) (p i : Nat) (f : Hart → Hart) : (s.modHart p i f).marks = s.marks := by unfold State.modHart; split <;> rfl
@[simp] theorem State.modHart_badCheck (s : State) (p i : Nat) (f : Hart → Hart) : (s.modHart p i f).badCheck = s.badCheck := by unfold State.modHart; split <;> rfl
@[simp] theorem State.modHart_lost (s : State) (p i : Nat) (f : Hart → Hart) : (s.modHart p i f).lost = s.lost := by unfold State.modHart; split <;> rfl
@[simp] theorem State.modHart_cleared (s : State) (p i : Nat) (f : Hart → Hart) : (s.modHart p i f).cleared = s.cleared := by unfold State.modHart; split <;> rfl
@[simp] theorem State.modHart_pw (s : State) (p i : Nat) (f : Hart → Hart) : (s.modHart p i f).pw = s.pw := by unfold State.modHart; split <;> rfl
@[simp] theorem State.modHart_issue (s : State) (p i : Nat) (f : Hart → Hart) : (s.modHart p i f).issue = s.issue := by unfold State.modHart; split <;> rfl
@[simp] theorem State.modHart_events (s : State) (p i : Nat) (f : Hart → Hart) : (s.modHart p i f).events = s.events := by unfold State.modHart; split <;> rfl
@[simp] theorem State.modHart_seqs (s : State) (p i : Nat) (f : Hart → Hart) : (s.modHart p i f).seqs = s.seqs := by unfold State.modHart; split <;> rfl
@[simp] theorem State.modHart_outbox (s : State) (p i : Nat) (f : Hart → Hart) : (s.modHart p i f).outbox = s.outbox := by unfold State.modHart; split <;> rfl
@[simp] theorem State.modHart_orphans (s : State) (p i : Nat) (f : Hart → Hart) : (s.modHart p i f).orphans = s.orphans := by unfold State.modHart; split <;> rfl
/-! `State.modCur` -/
@[simp] theorem State.modCur_cycle (s : State) (f : Hart → Hart) : (s.modCur f).cycle = s.cycle := by unfold State.modCur; simp
@[simp] theorem State.modCur_agenda (s : State) (f : Hart → Hart) : (s.modCur f).agenda = s.agenda := by unfold State.modCur; simp
@[simp] theorem State.modCur_arg (s : State) (f : Hart → Hart) : (s.modCur f).arg = s.arg := by unfold State.modCur; simp
@[simp] theorem State.modCur_draw (s : State) (f : Hart → Hart) : (s.modCur f).draw = s.draw := by unfold State.modCur; simp
@[simp] theorem State.modCur_nextId (s : State) (f : Hart → Hart) : (s.modCur f).nextId = s.nextId := by unfold State.modCur; simp
@[simp] theorem State.modCur_dies (s : State) (f : Hart → Hart) : (s.modCur f).dies = s.dies := by unfold State.modCur; simp
@[simp] theorem State.modCur_hub (s : State) (f : Hart → Hart) : (s.modCur f).hub = s.hub := by unfold State.modCur; simp
@[simp] theorem State.modCur_mem (s : State) (f : Hart → Hart) : (s.modCur f).mem = s.mem := by unfold State.modCur; simp
@[simp] theorem State.modCur_marks (s : State) (f : Hart → Hart) : (s.modCur f).marks = s.marks := by unfold State.modCur; simp
@[simp] theorem State.modCur_badCheck (s : State) (f : Hart → Hart) : (s.modCur f).badCheck = s.badCheck := by unfold State.modCur; simp
@[simp] theorem State.modCur_lost (s : State) (f : Hart → Hart) : (s.modCur f).lost = s.lost := by unfold State.modCur; simp
@[simp] theorem State.modCur_cleared (s : State) (f : Hart → Hart) : (s.modCur f).cleared = s.cleared := by unfold State.modCur; simp
@[simp] theorem State.modCur_pw (s : State) (f : Hart → Hart) : (s.modCur f).pw = s.pw := by unfold State.modCur; simp
@[simp] theorem State.modCur_issue (s : State) (f : Hart → Hart) : (s.modCur f).issue = s.issue := by unfold State.modCur; simp
@[simp] theorem State.modCur_events (s : State) (f : Hart → Hart) : (s.modCur f).events = s.events := by unfold State.modCur; simp
@[simp] theorem State.modCur_seqs (s : State) (f : Hart → Hart) : (s.modCur f).seqs = s.seqs := by unfold State.modCur; simp
@[simp] theorem State.modCur_outbox (s : State) (f : Hart → Hart) : (s.modCur f).outbox = s.outbox := by unfold State.modCur; simp
@[simp] theorem State.modCur_orphans (s : State) (f : Hart → Hart) : (s.modCur f).orphans = s.orphans := by unfold State.modCur; simp
/-! `State.wrG` -/
@[simp] theorem State.wrG_cycle (s : State) (n : Nat) (v : Word) : (s.wrG n v).cycle = s.cycle := by unfold State.wrG; simp
@[simp] theorem State.wrG_agenda (s : State) (n : Nat) (v : Word) : (s.wrG n v).agenda = s.agenda := by unfold State.wrG; simp
@[simp] theorem State.wrG_arg (s : State) (n : Nat) (v : Word) : (s.wrG n v).arg = s.arg := by unfold State.wrG; simp
@[simp] theorem State.wrG_draw (s : State) (n : Nat) (v : Word) : (s.wrG n v).draw = s.draw := by unfold State.wrG; simp
@[simp] theorem State.wrG_nextId (s : State) (n : Nat) (v : Word) : (s.wrG n v).nextId = s.nextId := by unfold State.wrG; simp
@[simp] theorem State.wrG_dies (s : State) (n : Nat) (v : Word) : (s.wrG n v).dies = s.dies := by unfold State.wrG; simp
@[simp] theorem State.wrG_hub (s : State) (n : Nat) (v : Word) : (s.wrG n v).hub = s.hub := by unfold State.wrG; simp
@[simp] theorem State.wrG_mem (s : State) (n : Nat) (v : Word) : (s.wrG n v).mem = s.mem := by unfold State.wrG; simp
@[simp] theorem State.wrG_marks (s : State) (n : Nat) (v : Word) : (s.wrG n v).marks = s.marks := by unfold State.wrG; simp
@[simp] theorem State.wrG_badCheck (s : State) (n : Nat) (v : Word) : (s.wrG n v).badCheck = s.badCheck := by unfold State.wrG; simp
@[simp] theorem State.wrG_lost (s : State) (n : Nat) (v : Word) : (s.wrG n v).lost = s.lost := by unfold State.wrG; simp
@[simp] theorem State.wrG_cleared (s : State) (n : Nat) (v : Word) : (s.wrG n v).cleared = s.cleared := by unfold State.wrG; simp
@[simp] theorem State.wrG_pw (s : State) (n : Nat) (v : Word) : (s.wrG n v).pw = s.pw := by unfold State.wrG; simp
@[simp] theorem State.wrG_issue (s : State) (n : Nat) (v : Word) : (s.wrG n v).issue = s.issue := by unfold State.wrG; simp
@[simp] theorem State.wrG_events (s : State) (n : Nat) (v : Word) : (s.wrG n v).events = s.events := by unfold State.wrG; simp
@[simp] theorem State.wrG_seqs (s : State) (n : Nat) (v : Word) : (s.wrG n v).seqs = s.seqs := by unfold State.wrG; simp
@[simp] theorem State.wrG_outbox (s : State) (n : Nat) (v : Word) : (s.wrG n v).outbox = s.outbox := by unfold State.wrG; simp
@[simp] theorem State.wrG_orphans (s : State) (n : Nat) (v : Word) : (s.wrG n v).orphans = s.orphans := by unfold State.wrG; simp
/-! `State.wrA` -/
@[simp] theorem State.wrA_cycle (s : State) (n : Nat) (v : VAddr) : (s.wrA n v).cycle = s.cycle := by unfold State.wrA; simp
@[simp] theorem State.wrA_agenda (s : State) (n : Nat) (v : VAddr) : (s.wrA n v).agenda = s.agenda := by unfold State.wrA; simp
@[simp] theorem State.wrA_arg (s : State) (n : Nat) (v : VAddr) : (s.wrA n v).arg = s.arg := by unfold State.wrA; simp
@[simp] theorem State.wrA_draw (s : State) (n : Nat) (v : VAddr) : (s.wrA n v).draw = s.draw := by unfold State.wrA; simp
@[simp] theorem State.wrA_nextId (s : State) (n : Nat) (v : VAddr) : (s.wrA n v).nextId = s.nextId := by unfold State.wrA; simp
@[simp] theorem State.wrA_dies (s : State) (n : Nat) (v : VAddr) : (s.wrA n v).dies = s.dies := by unfold State.wrA; simp
@[simp] theorem State.wrA_hub (s : State) (n : Nat) (v : VAddr) : (s.wrA n v).hub = s.hub := by unfold State.wrA; simp
@[simp] theorem State.wrA_mem (s : State) (n : Nat) (v : VAddr) : (s.wrA n v).mem = s.mem := by unfold State.wrA; simp
@[simp] theorem State.wrA_marks (s : State) (n : Nat) (v : VAddr) : (s.wrA n v).marks = s.marks := by unfold State.wrA; simp
@[simp] theorem State.wrA_badCheck (s : State) (n : Nat) (v : VAddr) : (s.wrA n v).badCheck = s.badCheck := by unfold State.wrA; simp
@[simp] theorem State.wrA_lost (s : State) (n : Nat) (v : VAddr) : (s.wrA n v).lost = s.lost := by unfold State.wrA; simp
@[simp] theorem State.wrA_cleared (s : State) (n : Nat) (v : VAddr) : (s.wrA n v).cleared = s.cleared := by unfold State.wrA; simp
@[simp] theorem State.wrA_pw (s : State) (n : Nat) (v : VAddr) : (s.wrA n v).pw = s.pw := by unfold State.wrA; simp
@[simp] theorem State.wrA_issue (s : State) (n : Nat) (v : VAddr) : (s.wrA n v).issue = s.issue := by unfold State.wrA; simp
@[simp] theorem State.wrA_events (s : State) (n : Nat) (v : VAddr) : (s.wrA n v).events = s.events := by unfold State.wrA; simp
@[simp] theorem State.wrA_seqs (s : State) (n : Nat) (v : VAddr) : (s.wrA n v).seqs = s.seqs := by unfold State.wrA; simp
@[simp] theorem State.wrA_outbox (s : State) (n : Nat) (v : VAddr) : (s.wrA n v).outbox = s.outbox := by unfold State.wrA; simp
@[simp] theorem State.wrA_orphans (s : State) (n : Nat) (v : VAddr) : (s.wrA n v).orphans = s.orphans := by unfold State.wrA; simp
/-! `State.wrK` -/
@[simp] theorem State.wrK_cycle (s : State) (n : Nat) (v : Mask) : (s.wrK n v).cycle = s.cycle := by unfold State.wrK; simp
@[simp] theorem State.wrK_agenda (s : State) (n : Nat) (v : Mask) : (s.wrK n v).agenda = s.agenda := by unfold State.wrK; simp
@[simp] theorem State.wrK_arg (s : State) (n : Nat) (v : Mask) : (s.wrK n v).arg = s.arg := by unfold State.wrK; simp
@[simp] theorem State.wrK_draw (s : State) (n : Nat) (v : Mask) : (s.wrK n v).draw = s.draw := by unfold State.wrK; simp
@[simp] theorem State.wrK_nextId (s : State) (n : Nat) (v : Mask) : (s.wrK n v).nextId = s.nextId := by unfold State.wrK; simp
@[simp] theorem State.wrK_dies (s : State) (n : Nat) (v : Mask) : (s.wrK n v).dies = s.dies := by unfold State.wrK; simp
@[simp] theorem State.wrK_hub (s : State) (n : Nat) (v : Mask) : (s.wrK n v).hub = s.hub := by unfold State.wrK; simp
@[simp] theorem State.wrK_mem (s : State) (n : Nat) (v : Mask) : (s.wrK n v).mem = s.mem := by unfold State.wrK; simp
@[simp] theorem State.wrK_marks (s : State) (n : Nat) (v : Mask) : (s.wrK n v).marks = s.marks := by unfold State.wrK; simp
@[simp] theorem State.wrK_badCheck (s : State) (n : Nat) (v : Mask) : (s.wrK n v).badCheck = s.badCheck := by unfold State.wrK; simp
@[simp] theorem State.wrK_lost (s : State) (n : Nat) (v : Mask) : (s.wrK n v).lost = s.lost := by unfold State.wrK; simp
@[simp] theorem State.wrK_cleared (s : State) (n : Nat) (v : Mask) : (s.wrK n v).cleared = s.cleared := by unfold State.wrK; simp
@[simp] theorem State.wrK_pw (s : State) (n : Nat) (v : Mask) : (s.wrK n v).pw = s.pw := by unfold State.wrK; simp
@[simp] theorem State.wrK_issue (s : State) (n : Nat) (v : Mask) : (s.wrK n v).issue = s.issue := by unfold State.wrK; simp
@[simp] theorem State.wrK_events (s : State) (n : Nat) (v : Mask) : (s.wrK n v).events = s.events := by unfold State.wrK; simp
@[simp] theorem State.wrK_seqs (s : State) (n : Nat) (v : Mask) : (s.wrK n v).seqs = s.seqs := by unfold State.wrK; simp
@[simp] theorem State.wrK_outbox (s : State) (n : Nat) (v : Mask) : (s.wrK n v).outbox = s.outbox := by unfold State.wrK; simp
@[simp] theorem State.wrK_orphans (s : State) (n : Nat) (v : Mask) : (s.wrK n v).orphans = s.orphans := by unfold State.wrK; simp
/-! `State.modCtrl` -/
@[simp] theorem State.modCtrl_cycle (s : State) (f : Ctrl → Ctrl) : (s.modCtrl f).cycle = s.cycle := by unfold State.modCtrl; simp
@[simp] theorem State.modCtrl_agenda (s : State) (f : Ctrl → Ctrl) : (s.modCtrl f).agenda = s.agenda := by unfold State.modCtrl; simp
@[simp] theorem State.modCtrl_arg (s : State) (f : Ctrl → Ctrl) : (s.modCtrl f).arg = s.arg := by unfold State.modCtrl; simp
@[simp] theorem State.modCtrl_draw (s : State) (f : Ctrl → Ctrl) : (s.modCtrl f).draw = s.draw := by unfold State.modCtrl; simp
@[simp] theorem State.modCtrl_nextId (s : State) (f : Ctrl → Ctrl) : (s.modCtrl f).nextId = s.nextId := by unfold State.modCtrl; simp
@[simp] theorem State.modCtrl_dies (s : State) (f : Ctrl → Ctrl) : (s.modCtrl f).dies = s.dies := by unfold State.modCtrl; simp
@[simp] theorem State.modCtrl_hub (s : State) (f : Ctrl → Ctrl) : (s.modCtrl f).hub = s.hub := by unfold State.modCtrl; simp
@[simp] theorem State.modCtrl_mem (s : State) (f : Ctrl → Ctrl) : (s.modCtrl f).mem = s.mem := by unfold State.modCtrl; simp
@[simp] theorem State.modCtrl_marks (s : State) (f : Ctrl → Ctrl) : (s.modCtrl f).marks = s.marks := by unfold State.modCtrl; simp
@[simp] theorem State.modCtrl_badCheck (s : State) (f : Ctrl → Ctrl) : (s.modCtrl f).badCheck = s.badCheck := by unfold State.modCtrl; simp
@[simp] theorem State.modCtrl_lost (s : State) (f : Ctrl → Ctrl) : (s.modCtrl f).lost = s.lost := by unfold State.modCtrl; simp
@[simp] theorem State.modCtrl_cleared (s : State) (f : Ctrl → Ctrl) : (s.modCtrl f).cleared = s.cleared := by unfold State.modCtrl; simp
@[simp] theorem State.modCtrl_pw (s : State) (f : Ctrl → Ctrl) : (s.modCtrl f).pw = s.pw := by unfold State.modCtrl; simp
@[simp] theorem State.modCtrl_issue (s : State) (f : Ctrl → Ctrl) : (s.modCtrl f).issue = s.issue := by unfold State.modCtrl; simp
@[simp] theorem State.modCtrl_events (s : State) (f : Ctrl → Ctrl) : (s.modCtrl f).events = s.events := by unfold State.modCtrl; simp
@[simp] theorem State.modCtrl_seqs (s : State) (f : Ctrl → Ctrl) : (s.modCtrl f).seqs = s.seqs := by unfold State.modCtrl; simp
@[simp] theorem State.modCtrl_outbox (s : State) (f : Ctrl → Ctrl) : (s.modCtrl f).outbox = s.outbox := by unfold State.modCtrl; simp
@[simp] theorem State.modCtrl_orphans (s : State) (f : Ctrl → Ctrl) : (s.modCtrl f).orphans = s.orphans := by unfold State.modCtrl; simp
/-! `State.pend` -/
@[simp] theorem State.pend_cycle (s : State) (w : Word) : (s.pend w).cycle = s.cycle := by unfold State.pend; simp
@[simp] theorem State.pend_agenda (s : State) (w : Word) : (s.pend w).agenda = s.agenda := by unfold State.pend; simp
@[simp] theorem State.pend_arg (s : State) (w : Word) : (s.pend w).arg = s.arg := by unfold State.pend; simp
@[simp] theorem State.pend_draw (s : State) (w : Word) : (s.pend w).draw = s.draw := by unfold State.pend; simp
@[simp] theorem State.pend_nextId (s : State) (w : Word) : (s.pend w).nextId = s.nextId := by unfold State.pend; simp
@[simp] theorem State.pend_dies (s : State) (w : Word) : (s.pend w).dies = s.dies := by unfold State.pend; simp
@[simp] theorem State.pend_hub (s : State) (w : Word) : (s.pend w).hub = s.hub := by unfold State.pend; simp
@[simp] theorem State.pend_mem (s : State) (w : Word) : (s.pend w).mem = s.mem := by unfold State.pend; simp
@[simp] theorem State.pend_marks (s : State) (w : Word) : (s.pend w).marks = s.marks := by unfold State.pend; simp
@[simp] theorem State.pend_badCheck (s : State) (w : Word) : (s.pend w).badCheck = s.badCheck := by unfold State.pend; simp
@[simp] theorem State.pend_lost (s : State) (w : Word) : (s.pend w).lost = s.lost := by unfold State.pend; simp
@[simp] theorem State.pend_cleared (s : State) (w : Word) : (s.pend w).cleared = s.cleared := by unfold State.pend; simp
@[simp] theorem State.pend_pw (s : State) (w : Word) : (s.pend w).pw = s.pw := by unfold State.pend; simp
@[simp] theorem State.pend_issue (s : State) (w : Word) : (s.pend w).issue = s.issue := by unfold State.pend; simp
@[simp] theorem State.pend_events (s : State) (w : Word) : (s.pend w).events = s.events := by unfold State.pend; simp
@[simp] theorem State.pend_seqs (s : State) (w : Word) : (s.pend w).seqs = s.seqs := by unfold State.pend; simp
@[simp] theorem State.pend_outbox (s : State) (w : Word) : (s.pend w).outbox = s.outbox := by unfold State.pend; simp
@[simp] theorem State.pend_orphans (s : State) (w : Word) : (s.pend w).orphans = s.orphans := by unfold State.pend; simp

/-! What an update reads back as. -/
@[simp] theorem State.core_setCore_same (s : State) (p : Nat) (c : Core) : (s.setCore p c).core p = c := by simp [State.core, State.setCore]
theorem State.core_setCore (s : State) (p q : Nat) (c : Core) : (s.setCore p c).core q = if q = p then c else s.core q := by
  simp [State.core, State.setCore, tget_tset]
@[simp] theorem State.core_modCore_same (s : State) (p : Nat) (f : Core → Core) : (s.modCore p f).core p = f (s.core p) := by simp [State.modCore]
theorem State.core_modCore (s : State) (p q : Nat) (f : Core → Core) : (s.modCore p f).core q = if q = p then f (s.core p) else s.core q := by
  simp [State.modCore, State.core_setCore]
@[simp] theorem State.die_setDie_same (s : State) (d : Nat) (x : Die) : (s.setDie d x).die d = x := by simp [State.die, State.setDie]
theorem State.die_setDie (s : State) (d e : Nat) (x : Die) : (s.setDie d x).die e = if e = d then x else s.die e := by
  simp [State.die, State.setDie, tget_tset]
@[simp] theorem State.die_modDie_same (s : State) (d : Nat) (f : Die → Die) : (s.modDie d f).die d = f (s.die d) := by simp [State.modDie]
theorem State.die_modDie (s : State) (d e : Nat) (f : Die → Die) : (s.modDie d f).die e = if e = d then f (s.die d) else s.die e := by
  simp [State.modDie, State.die_setDie]
@[simp] theorem State.hart?_setHart_same (s : State) (p i : Nat) (x : Hart) : (s.setHart p i x).hart? p i = some x := by
  simp [State.hart?, State.setHart]
theorem State.hart?_setHart (s : State) (p i q j : Nat) (x : Hart) :
    (s.setHart p i x).hart? q j = if q = p ∧ j = i then some x else s.hart? q j := by
  by_cases hq : q = p
  · subst hq; by_cases hj : j = i <;> simp [State.hart?, State.setHart, tget_tset, hj]
  · simp [State.hart?, State.setHart, State.core_modCore, hq]
theorem State.modHart_of (s : State) (p i : Nat) (f : Hart → Hart) (h : Hart) (e : s.hart? p i = some h) : s.modHart p i f = s.setHart p i (f h) := by
  simp [State.modHart, e]
theorem State.hart?_modHart_same (s : State) (p i : Nat) (f : Hart → Hart) (h : Hart) (e : s.hart? p i = some h) :
    (s.modHart p i f).hart? p i = some (f h) := by simp [State.modHart_of s p i f h e]
theorem State.modCur_of (s : State) (f : Hart → Hart) (h : Hart) (e : s.cur = some h) :
    s.modCur f = s.setHart s.issue.core s.issue.slot (f h) := State.modHart_of s _ _ f h e
/-- The hart in issue after a change of it. -/
theorem State.cur_modCur (s : State) (f : Hart → Hart) (h : Hart) (e : s.cur = some h) : (s.modCur f).cur = some (f h) := by
  rw [State.modCur_of s f h e]; simp [State.cur]
/-- A change of the hart in issue leaves every other hart as it was. -/
theorem State.hart?_modCur_other (s : State) (f : Hart → Hart) (p i : Nat) (n : ¬ (p = s.issue.core ∧ i = s.issue.slot)) :
    (s.modCur f).hart? p i = s.hart? p i := by
  unfold State.modCur State.modHart
  split
  · rfl
  · rw [State.hart?_setHart, if_neg n]
@[simp] theorem State.gang_setGang_same (s : State) (d i : Nat) (r : Rec) : (s.setGang d i r).gang d i = r := by simp [State.gang, State.setGang]
theorem State.gang_setGang (s : State) (d i e j : Nat) (r : Rec) :
    (s.setGang d i r).gang e j = if e = d ∧ j = i then r else s.gang e j := by
  by_cases he : e = d
  · subst he; by_cases hj : j = i <;> simp [State.gang, State.setGang, tget_tset, hj]
  · simp [State.gang, State.setGang, State.die_modDie, he]
@[simp] theorem State.queue_setQueue_same (s : State) (p q : Nat) (x : Queue) : (s.setQueue p q x).queue p q = x := by
  simp [State.queue, State.setQueue]

/-! Registers (R74). -/
@[simp] theorem readG_zero (r : Regs) : readG r 0 = 0 := rfl
@[simp] theorem readK_zero (r : Regs) : readK r 0 = BitVec.allOnes 256 := rfl
@[simp] theorem readG_writeG_same (r : Regs) {n : Nat} (v : Word) (h : n ≠ 0) : readG (writeG r n v) n = v := by simp [readG, writeG, h]
theorem readG_writeG_ne (r : Regs) {n m : Nat} (v : Word) (h : m ≠ n) : readG (writeG r n v) m = readG r m := by
  by_cases hm : m = 0 <;> by_cases hn : n = 0 <;> simp [readG, writeG, hm, hn, tget_tset, h]
@[simp] theorem writeG_zero (r : Regs) (v : Word) : writeG r 0 v = r := rfl
@[simp] theorem readA_writeA_same (r : Regs) (n : Nat) (v : VAddr) : readA (writeA r n v) n = v := by simp [readA, writeA]
theorem readA_writeA_ne (r : Regs) {n m : Nat} (v : VAddr) (h : m ≠ n) : readA (writeA r n v) m = readA r m := by
  simp [readA, writeA, tget_tset, h]
@[simp] theorem readK_writeK_same (r : Regs) {n : Nat} (v : Mask) (h : n ≠ 0) : readK (writeK r n v) n = v := by simp [readK, writeK, h]
theorem readK_writeK_ne (r : Regs) {n m : Nat} (v : Mask) (h : m ≠ n) : readK (writeK r n v) m = readK r m := by
  by_cases hm : m = 0 <;> by_cases hn : n = 0 <;> simp [readK, writeK, hm, hn, tget_tset, h]
@[simp] theorem readA_writeG (r : Regs) (n m : Nat) (v : Word) : readA (writeG r n v) m = readA r m := by unfold writeG; split <;> rfl
@[simp] theorem readK_writeG (r : Regs) (n m : Nat) (v : Word) : readK (writeG r n v) m = readK r m := by unfold writeG; split <;> rfl
@[simp] theorem readG_writeA (r : Regs) (n m : Nat) (v : VAddr) : readG (writeA r n v) m = readG r m := rfl
@[simp] theorem readK_writeA (r : Regs) (n m : Nat) (v : VAddr) : readK (writeA r n v) m = readK r m := rfl
@[simp] theorem readG_writeK (r : Regs) (n m : Nat) (v : Mask) : readG (writeK r n v) m = readG r m := by unfold writeK; split <;> rfl
@[simp] theorem readA_writeK (r : Regs) (n m : Nat) (v : Mask) : readA (writeK r n v) m = readA r m := by unfold writeK; split <;> rfl

end Sys2Proof.Machine
end

