-- ==== Sys2Proof/Laws/Ops.lean ====
section
/-! SUPPORT. What the shared operations can do: a meaning of a slot, stopping and ending a gang, taking a trap and leaving it, popping queues. -/
namespace Sys2Proof.Machine
open Sys2Proof

/-! Folds. -/
/-- What every step of a fold keeps, the fold keeps. -/
theorem foldl_keeps {α β : Type} (P : β → Prop) (f : β → α → β) (l : List α) (b : β) (h0 : P b) (h : ∀ b a, a ∈ l → P b → P (f b a)) : P (l.foldl f b) := by
  induction l generalizing b with
  | nil => exact h0
  | cons a l ih => exact ih _ (h b a (by simp) h0) (fun b a' m => h b a' (by simp [m]))

/-- A part of the state that no step of a fold changes, the fold does not change. -/
theorem foldl_same {α β γ : Type} (g : β → γ) (f : β → α → β) (l : List α) (b : β) (h : ∀ b a, a ∈ l → g (f b a) = g b) : g (l.foldl f b) = g b :=
  foldl_keeps (fun x => g x = g b) f l b rfl (fun x a m e => (h x a m).trans e)

/-! A meaning of a slot and of an event. -/
theorem onHart_of {s : State} {h : Hart} (k : Hart → State) (e : s.cur = some h) : onHart s k = .next (k h) := by simp [onHart, e]
theorem below_of {i n : Nat} (t : State) (h : i < n) : below i n t = .next t := by simp [below, h]
/-- A slot goes on only for a placed hart. -/
theorem onHart_next {s t : State} {k : Hart → State} (e : onHart s k = .next t) : ∃ h, s.cur = some h ∧ t = k h := by
  unfold onHart at e
  split at e
  · cases e
  · rename_i h hc; cases e; exact ⟨h, hc, rfl⟩
theorem below_next {i n : Nat} {t u : State} (e : below i n t = .next u) : i < n ∧ u = t := by
  unfold below at e
  split at e
  · cases e; exact ⟨‹_›, rfl⟩
  · cases e

/-! Harts. -/
theorem State.hart?_setHart_ne (s : State) (p i q j : Nat) (x : Hart) (n : ¬ (q = p ∧ j = i)) : (s.setHart p i x).hart? q j = s.hart? q j := by
  rw [State.hart?_setHart, if_neg n]
theorem State.hart?_modHart_ne (s : State) (p i q j : Nat) (f : Hart → Hart) (n : ¬ (q = p ∧ j = i)) : (s.modHart p i f).hart? q j = s.hart? q j := by
  unfold State.modHart
  split
  · rfl
  · exact State.hart?_setHart_ne _ _ _ _ _ _ n
/-- A change of a hart, seen from any hart. -/
theorem State.hart?_modHart (s : State) (p i q j : Nat) (f : Hart → Hart) :
    (s.modHart p i f).hart? q j = if q = p ∧ j = i then (s.hart? p i).map f else s.hart? q j := by
  by_cases n : q = p ∧ j = i
  · obtain ⟨rfl, rfl⟩ := n
    cases e : s.hart? q j with
    | none => simp [State.modHart, e]
    | some h => simp [State.hart?_modHart_same s q j f h e]
  · rw [if_neg n, State.hart?_modHart_ne _ _ _ _ _ _ n]

/-! Stopping and ending a gang (R349). -/
/-- Stopping a gang sets `stopped` in its harts; nothing else of the state changes. -/
theorem State.stopGang_frame (s : State) (d i : Nat) :
    (s.stopGang d i).mem = s.mem ∧ (s.stopGang d i).pw = s.pw ∧ (s.stopGang d i).dies = s.dies ∧ (s.stopGang d i).hub = s.hub ∧ (s.stopGang d i).marks = s.marks
    ∧ (s.stopGang d i).events = s.events ∧ (s.stopGang d i).cycle = s.cycle ∧ (s.stopGang d i).issue = s.issue := by
  unfold State.stopGang
  refine ⟨?_, ?_, ?_, ?_, ?_, ?_, ?_, ?_⟩ <;>
  · refine foldl_same _ _ _ _ (fun s q _ => ?_)
    refine foldl_same _ _ _ _ (fun s h _ => ?_)
    simp

/-- A hart after its gang, or another one, was stopped. -/
theorem State.hart?_stopGang (s : State) (d i p j : Nat) (h : Hart) (e : s.hart? p j = some h) :
    ∃ b : Bool, (s.stopGang d i).hart? p j = some { h with stopped := b } ∧ (h.stopped = true → b = true) := by
  unfold State.stopGang
  refine foldl_keeps (fun t => ∃ b : Bool, State.hart? t p j = some { h with stopped := b } ∧ (h.stopped = true → b = true)) _ _ _ ⟨h.stopped, e, id⟩ (fun t q _ ht => ?_)
  refine foldl_keeps (fun t => ∃ b : Bool, State.hart? t p j = some { h with stopped := b } ∧ (h.stopped = true → b = true)) _ _ _ ht (fun t k _ ⟨b, hb, hs⟩ => ?_)
  rw [State.hart?_modHart]
  split
  · rename_i m; obtain ⟨rfl, rfl⟩ := m; exact ⟨true, by rw [hb]; rfl, fun _ => rfl⟩
  · exact ⟨b, hb, hs⟩

/-- Ending a gang: its record is ENDING with the first status, and a save or restore of it is abandoned; its harts stop; memory, writes in flight and the hub stand. -/
theorem State.endGang_frame (s : State) (d i st : Nat) :
    (s.endGang d i st).mem = s.mem ∧ (s.endGang d i st).pw = s.pw ∧ (s.endGang d i st).hub = s.hub ∧ (s.endGang d i st).marks = s.marks ∧ (s.endGang d i st).events = s.events
    ∧ (s.endGang d i st).cycle = s.cycle ∧ (s.endGang d i st).issue = s.issue := by
  obtain ⟨a, b, _, c, e, f, g, k⟩ := s.stopGang_frame d i
  exact ⟨a, b, c, e, f, g, k⟩
theorem State.gang_endGang (s : State) (d i st : Nat) :
    (s.endGang d i st).gang d i =
      { s.gang d i with st := 7, endStatus := some ((s.gang d i).endStatus.getD st), save := { (s.gang d i).save with active := false } } := by
  have h : (s.stopGang d i).gang d i = s.gang d i := by unfold State.gang State.die; rw [(s.stopGang_frame d i).2.2.1]
  unfold State.endGang State.modGang
  simp [h]
theorem State.hart?_endGang (s : State) (d i st p j : Nat) (h : Hart) (e : s.hart? p j = some h) :
    ∃ b : Bool, (s.endGang d i st).hart? p j = some { h with stopped := b } ∧ (h.stopped = true → b = true) := s.hart?_stopGang d i p j h e

/-! Traps (R376 to R384). -/
/-- Exchanging the banks twice gives every register back; reading a banked register reads the other bank. -/
theorem Hart.readG_swapBank (h : Hart) (n : Nat) :
    readG h.swapBank.regs n = if 24 ≤ n ∧ n ≤ 31 then tget 0 h.bankG n else readG h.regs n := by
  by_cases h0 : n = 0
  · subst h0; simp
  · simp only [Hart.swapBank, readG, h0, if_false, bankedG, tsetMany, List.map, List.foldl, tget_tset]
    split_ifs <;> first | omega | simp_all
theorem Hart.readA_swapBank (h : Hart) (n : Nat) :
    readA h.swapBank.regs n = if n = 14 ∨ n = 15 then tget 0 h.bankA n else readA h.regs n := by
  simp only [Hart.swapBank, readA, bankedA, tsetMany, List.map, List.foldl, tget_tset]
  split_ifs <;> first | omega | simp_all
theorem Hart.bankG_swapBank (h : Hart) (n : Nat) (h1 : 24 ≤ n) (h2 : n ≤ 31) : tget 0 h.swapBank.bankG n = readG h.regs n := by
  have : n = 24 ∨ n = 25 ∨ n = 26 ∨ n = 27 ∨ n = 28 ∨ n = 29 ∨ n = 30 ∨ n = 31 := by omega
  rcases this with rfl | rfl | rfl | rfl | rfl | rfl | rfl | rfl <;> simp [Hart.swapBank, bankedG, tget, readG]
theorem Hart.bankA_swapBank (h : Hart) (n : Nat) (h1 : n = 14 ∨ n = 15) : tget 0 h.swapBank.bankA n = readA h.regs n := by
  rcases h1 with rfl | rfl <;> simp [Hart.swapBank, bankedA, tget, readA]

/-- A trap outside handler state enters the hart and changes nothing else. -/
theorem State.enterTrap_of (s : State) (p i : Nat) (h : Hart) (t : TrapReq) (e : s.hart? p i = some h) (n : h.handler = false) :
    s.enterTrap p i t = s.setHart p i (h.enter (s.die (p / 2)).trapvec t) := by simp [State.enterTrap, e, n]
/-- A double trap. -/
theorem State.enterTrap_double (s : State) (p i : Nat) (h : Hart) (t : TrapReq) (e : s.hart? p i = some h) (n : h.handler = true) :
    s.enterTrap p i t = ((s.setHart p i { h with stopped := true }).endGang h.die h.idx 2).event (srcService (p / 2)) 0x83 (p * 8 + i) := by
  simp [State.enterTrap, e, n, State.modHart_of s p i _ h e]
/-- Taking a trap changes no memory, no write in flight and no hub state. -/
theorem State.enterTrap_frame (s : State) (p i : Nat) (t : TrapReq) :
    (s.enterTrap p i t).mem = s.mem ∧ (s.enterTrap p i t).pw = s.pw ∧ (s.enterTrap p i t).hub = s.hub ∧ (s.enterTrap p i t).marks = s.marks
    ∧ (s.enterTrap p i t).cycle = s.cycle ∧ (s.enterTrap p i t).issue = s.issue := by
  unfold State.enterTrap
  split
  · exact ⟨rfl, rfl, rfl, rfl, rfl, rfl⟩
  · rename_i h _
    split
    · obtain ⟨a, b, c, d, _, e, f⟩ := State.endGang_frame (s.modHart p i (fun h => { h with stopped := true })) h.die h.idx 2
      simp only [State.event_mem, State.event_pw, State.event_hub, State.event_marks, State.event_cycle, State.event_issue]
      exact ⟨by rw [a]; simp, by rw [b]; simp, by rw [c]; simp, by rw [d]; simp, by rw [e]; simp, by rw [f]; simp⟩
    · exact ⟨rfl, rfl, rfl, rfl, rfl, rfl⟩
/-- Leaving handler state changes no memory, no write in flight and no hub state. -/
theorem State.leaveTrap_frame (s : State) (p i : Nat) :
    (s.leaveTrap p i).mem = s.mem ∧ (s.leaveTrap p i).pw = s.pw ∧ (s.leaveTrap p i).hub = s.hub ∧ (s.leaveTrap p i).events = s.events
    ∧ (s.leaveTrap p i).cycle = s.cycle ∧ (s.leaveTrap p i).issue = s.issue := by
  unfold State.leaveTrap
  split
  · exact ⟨rfl, rfl, rfl, rfl, rfl, rfl⟩
  · split
    · obtain ⟨a, b, c, _, d, e, f⟩ := State.endGang_frame s _ _ 2
      exact ⟨a, b, c, d, e, f⟩
    · exact ⟨rfl, rfl, rfl, rfl, rfl, rfl⟩
@[simp] theorem Hart.moveOn_regs (h : Hart) : h.moveOn.regs = h.regs := by unfold Hart.moveOn; split <;> rfl
@[simp] theorem Hart.moveOn_held (h : Hart) : h.moveOn.held = h.held := by unfold Hart.moveOn; split <;> rfl
@[simp] theorem Hart.moveOn_handler (h : Hart) : h.moveOn.handler = h.handler := by unfold Hart.moveOn; split <;> rfl
@[simp] theorem Hart.moveOn_trap (h : Hart) : h.moveOn.trap = h.trap := by unfold Hart.moveOn; split <;> rfl
@[simp] theorem Hart.moveOn_fresh (h : Hart) : h.moveOn.fresh = h.fresh := by unfold Hart.moveOn; split <;> rfl
@[simp] theorem Hart.moveOn_ctrl (h : Hart) : h.moveOn.ctrl = h.ctrl := by unfold Hart.moveOn; split <;> rfl
/-- What a return gives back, whichever way it goes on: the program's banks and held slots. -/
theorem Hart.leave_frame (h : Hart) :
    h.leave.regs = h.swapBank.regs ∧ h.leave.handler = false ∧ h.leave.held = h.heldAside ∧ h.leave.fresh = true ∧ h.leave.trap = h.trap ∧ h.leave.ctrl = h.ctrl := by
  unfold Hart.leave
  dsimp only
  split_ifs <;> try (exact ⟨rfl, rfl, rfl, rfl, rfl, rfl⟩)
  all_goals split <;> first | exact ⟨rfl, rfl, rfl, rfl, rfl, rfl⟩ | skip
  all_goals simp [Hart.swapBank]

/-! Queues. -/
/-- Popping queue heads changes only those queues. -/
theorem State.queue_setQueue (s : State) (p q r m : Nat) (x : Queue) : (s.setQueue p q x).queue r m = if r = p ∧ m = q then x else s.queue r m := by
  by_cases h : r = p
  · subst h; by_cases hm : m = q <;> simp [State.queue, State.setQueue, tget_tset, hm]
  · simp [State.queue, State.setQueue, State.core_modCore, h]

end Sys2Proof.Machine
end

