-- ==== Sys2Proof/Laws/Memory.lean ====
section
/-! SUPPORT. The canonical form of memory (Memory.wf) is kept: one lemma for each operation of the machine that answers a state, in the
order the operations are declared. A meaning, an event or a step is built of these. -/
namespace Sys2Proof.Machine
open Sys2Proof
set_option linter.all false

/-- A fold of steps that keep the form keeps it. -/
theorem foldl_memOk {α : Type} {f : State → α → State} {l : List α} {s : State} (h0 : Memory.wf s.mem = true) (h : ∀ s a, Memory.wf (State.mem s) = true → Memory.wf (f s a).mem = true) : Memory.wf (l.foldl f s).mem = true :=
  foldl_keeps (fun s => Memory.wf (State.mem s) = true) f l s h0 (fun s a _ => h s a)
theorem foldl_fst_memOk {α β : Type} {f : State × β → α → State × β} {l : List α} {p : State × β} (h0 : Memory.wf p.1.mem = true)
    (h : ∀ p a, Memory.wf (State.mem p.1) = true → Memory.wf (f p a).1.mem = true) : Memory.wf (l.foldl f p).1.mem = true :=
  foldl_keeps (fun p => Memory.wf (State.mem p.1) = true) f l p h0 (fun s a _ => h s a)
theorem ite_memOk {c : Prop} [Decidable c] {s t : State} (hs : Memory.wf s.mem = true) (ht : Memory.wf t.mem = true) : Memory.wf (State.mem (if c then s else t)) = true := by
  split <;> assumption
/-- The state a taken-up packet or its trap leaves has canonical memory. -/
def Opened.MemOk : Opened → Prop
  | .none_ => True
  | .go t => Memory.wf t.mem = true
  | .trap t => Memory.wf t.mem = true
/-- An answer of `vecNext` whose memory keeps its form. -/
def VNext.MemOk : VNext → Prop
  | .over => True
  | .waits t => Memory.wf t.mem = true
  | .next t _ => Memory.wf t.mem = true
theorem VNext.ite_memOk {c : Prop} [Decidable c] {s t : VNext} (hs : VNext.MemOk s) (ht : VNext.MemOk t) : VNext.MemOk (if c then s else t) := by
  split <;> assumption
theorem Opened.none_memOk : Opened.MemOk .none_ := trivial
theorem Opened.go_memOk {t : State} (h : Memory.wf t.mem = true) : Opened.MemOk (.go t) := h
theorem Opened.trap_memOk {t : State} (h : Memory.wf t.mem = true) : Opened.MemOk (.trap t) := h
theorem Opened.ite_memOk {c : Prop} [Decidable c] {s t : Opened} (hs : Opened.MemOk s) (ht : Opened.MemOk t) : Opened.MemOk (if c then s else t) := by
  split <;> assumption
theorem memOk_fst {α : Type} {p : State × α} {t : State} {r : α} (e : p = (t, r)) (h : Memory.wf p.1.mem = true) : Memory.wf t.mem = true := by rw [e] at h; exact h

theorem State.setCore_memOk (s : State) (p : Nat) (c : Core) (hs : Memory.wf (State.mem s) = true) : Memory.wf (State.mem (State.setCore s p c)) = true := by
  unfold State.setCore
  repeat' with_reducible (first | assumption | refine memOk_fst (by assumption) ?_ | apply foldl_memOk | apply foldl_fst_memOk | dsimp only | split | intro)

theorem State.modCore_memOk (s : State) (p : Nat) (f : Core → Core) (hs : Memory.wf (State.mem s) = true) : Memory.wf (State.mem (State.modCore s p f)) = true := by
  unfold State.modCore
  repeat' with_reducible (first | assumption | refine memOk_fst (by assumption) ?_ | apply State.setCore_memOk | apply foldl_memOk | apply foldl_fst_memOk | dsimp only | split | intro)

theorem State.setDie_memOk (s : State) (d : Nat) (x : Die) (hs : Memory.wf (State.mem s) = true) : Memory.wf (State.mem (State.setDie s d x)) = true := by
  unfold State.setDie
  repeat' with_reducible (first | assumption | refine memOk_fst (by assumption) ?_ | apply State.modCore_memOk | apply foldl_memOk | apply foldl_fst_memOk | dsimp only | split | intro)

theorem State.modDie_memOk (s : State) (d : Nat) (f : Die → Die) (hs : Memory.wf (State.mem s) = true) : Memory.wf (State.mem (State.modDie s d f)) = true := by
  unfold State.modDie
  repeat' with_reducible (first | assumption | refine memOk_fst (by assumption) ?_ | apply State.modCore_memOk | apply State.setDie_memOk | apply foldl_memOk | apply foldl_fst_memOk | dsimp only | split | intro)

theorem State.modHub_memOk (s : State) (f : Hub → Hub) (hs : Memory.wf (State.mem s) = true) : Memory.wf (State.mem (State.modHub s f)) = true := by
  unfold State.modHub
  repeat' with_reducible (first | assumption | refine memOk_fst (by assumption) ?_ | apply State.modCore_memOk | apply foldl_memOk | apply foldl_fst_memOk | dsimp only | split | intro)

theorem State.setHart_memOk (s : State) (p h : Nat) (x : Hart) (hs : Memory.wf (State.mem s) = true) : Memory.wf (State.mem (State.setHart s p h x)) = true := by
  unfold State.setHart
  repeat' with_reducible (first | assumption | refine memOk_fst (by assumption) ?_ | apply State.modCore_memOk | apply foldl_memOk | apply foldl_fst_memOk | dsimp only | split | intro)

theorem State.modHart_memOk (s : State) (p h : Nat) (f : Hart → Hart) (hs : Memory.wf (State.mem s) = true) : Memory.wf (State.mem (State.modHart s p h f)) = true := by
  unfold State.modHart
  repeat' with_reducible (first | assumption | refine memOk_fst (by assumption) ?_ | apply State.setHart_memOk | apply foldl_memOk | apply foldl_fst_memOk | dsimp only | split | intro)

theorem State.modCur_memOk (s : State) (f : Hart → Hart) (hs : Memory.wf (State.mem s) = true) : Memory.wf (State.mem (State.modCur s f)) = true := by
  unfold State.modCur
  repeat' with_reducible (first | assumption | refine memOk_fst (by assumption) ?_ | apply State.modHart_memOk | apply foldl_memOk | apply foldl_fst_memOk | dsimp only | split | intro)

theorem State.wrG_memOk (s : State) (n : Nat) (v : Word) (hs : Memory.wf (State.mem s) = true) : Memory.wf (State.mem (State.wrG s n v)) = true := by
  unfold State.wrG
  repeat' with_reducible (first | assumption | refine memOk_fst (by assumption) ?_ | apply State.modCur_memOk | apply foldl_memOk | apply foldl_fst_memOk | dsimp only | split | intro)

theorem State.wrA_memOk (s : State) (n : Nat) (v : VAddr) (hs : Memory.wf (State.mem s) = true) : Memory.wf (State.mem (State.wrA s n v)) = true := by
  unfold State.wrA
  repeat' with_reducible (first | assumption | refine memOk_fst (by assumption) ?_ | apply State.modCur_memOk | apply foldl_memOk | apply foldl_fst_memOk | dsimp only | split | intro)

theorem State.wrK_memOk (s : State) (n : Nat) (v : Mask) (hs : Memory.wf (State.mem s) = true) : Memory.wf (State.mem (State.wrK s n v)) = true := by
  unfold State.wrK
  repeat' with_reducible (first | assumption | refine memOk_fst (by assumption) ?_ | apply State.modCur_memOk | apply foldl_memOk | apply foldl_fst_memOk | dsimp only | split | intro)

theorem State.modCtrl_memOk (s : State) (f : Ctrl → Ctrl) (hs : Memory.wf (State.mem s) = true) : Memory.wf (State.mem (State.modCtrl s f)) = true := by
  unfold State.modCtrl
  repeat' with_reducible (first | assumption | refine memOk_fst (by assumption) ?_ | apply State.modCur_memOk | apply foldl_memOk | apply foldl_fst_memOk | dsimp only | split | intro)

theorem State.stall_memOk (s : State) (hs : Memory.wf (State.mem s) = true) : Memory.wf (State.mem (State.stall s)) = true := by
  unfold State.stall
  repeat' with_reducible (first | assumption | refine memOk_fst (by assumption) ?_ | apply State.modCur_memOk | apply foldl_memOk | apply foldl_fst_memOk | dsimp only | split | intro)

theorem State.late_memOk (s : State) (c : Nat) (hs : Memory.wf (State.mem s) = true) : Memory.wf (State.mem (State.late s c)) = true := by
  unfold State.late
  repeat' with_reducible (first | assumption | refine memOk_fst (by assumption) ?_ | apply State.modCur_memOk | apply foldl_memOk | apply foldl_fst_memOk | dsimp only | split | intro)

theorem State.raise_memOk (s : State) (t : TrapReq) (hs : Memory.wf (State.mem s) = true) : Memory.wf (State.mem (State.raise s t)) = true := by
  unfold State.raise
  repeat' with_reducible (first | assumption | refine memOk_fst (by assumption) ?_ | apply State.modCur_memOk | apply foldl_memOk | apply foldl_fst_memOk | dsimp only | split | intro)

theorem State.after_memOk (s : State) (t : TrapReq) (hs : Memory.wf (State.mem s) = true) : Memory.wf (State.mem (State.after s t)) = true := by
  unfold State.after
  repeat' with_reducible (first | assumption | refine memOk_fst (by assumption) ?_ | apply State.modCur_memOk | apply State.raise_memOk | apply foldl_memOk | apply foldl_fst_memOk | dsimp only | split | intro)

theorem State.pend_memOk (s : State) (w : Word) (hs : Memory.wf (State.mem s) = true) : Memory.wf (State.mem (State.pend s w)) = true := by
  unfold State.pend
  repeat' with_reducible (first | assumption | refine memOk_fst (by assumption) ?_ | apply State.modCur_memOk | apply State.raise_memOk | apply State.after_memOk | apply foldl_memOk | apply foldl_fst_memOk | dsimp only | split | intro)

theorem State.pendServed_memOk (s : State) (w : Word) (hs : Memory.wf (State.mem s) = true) : Memory.wf (State.mem (State.pendServed s w)) = true := by
  unfold State.pendServed
  repeat' with_reducible (first | assumption | refine memOk_fst (by assumption) ?_ | apply State.modCur_memOk | apply State.raise_memOk | apply State.after_memOk | apply State.pend_memOk | apply foldl_memOk | apply foldl_fst_memOk | dsimp only | split | intro)

theorem State.illegal_memOk (s : State) (sub cls : Nat) (hs : Memory.wf (State.mem s) = true) : Memory.wf (State.mem (State.illegal s sub cls)) = true := by
  unfold State.illegal
  repeat' with_reducible (first | assumption | refine memOk_fst (by assumption) ?_ | apply State.raise_memOk | apply foldl_memOk | apply foldl_fst_memOk | dsimp only | split | intro)

theorem State.operand_memOk (s : State) (sub : Nat) (hs : Memory.wf (State.mem s) = true) : Memory.wf (State.mem (State.operand s sub)) = true := by
  unfold State.operand
  repeat' with_reducible (first | assumption | refine memOk_fst (by assumption) ?_ | apply State.raise_memOk | apply foldl_memOk | apply foldl_fst_memOk | dsimp only | split | intro)

theorem State.drawn_memOk (s : State) (hs : Memory.wf (State.mem s) = true) : Memory.wf (State.mem (State.drawn s)) = true := by
  unfold State.drawn
  repeat' with_reducible (first | assumption | refine memOk_fst (by assumption) ?_ | apply foldl_memOk | apply foldl_fst_memOk | dsimp only | split | intro)

theorem State.event_memOk (s : State) (src what arg : Nat) (hs : Memory.wf (State.mem s) = true) : Memory.wf (State.mem (State.event s src what arg)) = true := by
  unfold State.event
  repeat' with_reducible (first | assumption | refine memOk_fst (by assumption) ?_ | apply foldl_memOk | apply foldl_fst_memOk | dsimp only | split | intro)

theorem State.setGang_memOk (s : State) (d i : Nat) (r : Rec) (hs : Memory.wf (State.mem s) = true) : Memory.wf (State.mem (State.setGang s d i r)) = true := by
  unfold State.setGang
  repeat' with_reducible (first | assumption | refine memOk_fst (by assumption) ?_ | apply State.modDie_memOk | apply foldl_memOk | apply foldl_fst_memOk | dsimp only | split | intro)

theorem State.modGang_memOk (s : State) (d i : Nat) (f : Rec → Rec) (hs : Memory.wf (State.mem s) = true) : Memory.wf (State.mem (State.modGang s d i f)) = true := by
  unfold State.modGang
  repeat' with_reducible (first | assumption | refine memOk_fst (by assumption) ?_ | apply State.setGang_memOk | apply foldl_memOk | apply foldl_fst_memOk | dsimp only | split | intro)

theorem State.stopGang_memOk (s : State) (d i : Nat) (hs : Memory.wf (State.mem s) = true) : Memory.wf (State.mem (State.stopGang s d i)) = true := by
  unfold State.stopGang
  repeat' with_reducible (first | assumption | refine memOk_fst (by assumption) ?_ | apply State.modHart_memOk | apply foldl_memOk | apply foldl_fst_memOk | dsimp only | split | intro)

theorem State.endGang_memOk (s : State) (d i status : Nat) (hs : Memory.wf (State.mem s) = true) : Memory.wf (State.mem (State.endGang s d i status)) = true := by
  unfold State.endGang
  repeat' with_reducible (first | assumption | refine memOk_fst (by assumption) ?_ | apply State.modGang_memOk | apply State.stopGang_memOk | apply foldl_memOk | apply foldl_fst_memOk | dsimp only | split | intro)

theorem State.setMark_memOk (s : State) (g : Nat) (b : Bool) (hs : Memory.wf (State.mem s) = true) : Memory.wf (State.mem (State.setMark s g b)) = true := by
  unfold State.setMark
  repeat' with_reducible (first | assumption | refine memOk_fst (by assumption) ?_ | apply State.modDie_memOk | apply foldl_memOk | apply foldl_fst_memOk | dsimp only | split | intro)

theorem State.verify_memOk (s : State) (gs : List Nat) (hs : Memory.wf (State.mem s) = true) : Memory.wf (State.mem (State.verify s gs)) = true := by
  unfold State.verify
  repeat' with_reducible (first | assumption | refine memOk_fst (by assumption) ?_ | apply State.modDie_memOk | apply State.setMark_memOk | apply foldl_memOk | apply foldl_fst_memOk | dsimp only | split | intro)

theorem State.breakLinks_memOk (s : State) (keep : Option (Nat × Nat)) (gs : List Nat) (hs : Memory.wf (State.mem s) = true) : Memory.wf (State.mem (State.breakLinks s keep gs)) = true := by
  unfold State.breakLinks
  repeat' with_reducible (first | assumption | refine memOk_fst (by assumption) ?_ | apply foldl_memOk | apply foldl_fst_memOk | dsimp only | split | intro)

theorem State.commit_memOk (s : State) (bs : List (Nat × Byte)) (mark : Bool) (keep : Option (Nat × Nat)) (part : List (Nat × Byte)) (cov : List (Nat × Byte × Byte)) (hs : Memory.wf s.mem = true) :
    Memory.wf (State.mem (s.commit bs mark keep part cov)) = true := memWf_memSetMany bs hs (fun p _ => Nat.zero_le _)

theorem State.send_memOk (s : State) (bs : List (Nat × Byte)) (n : Nat) (mark remote : Bool) (hs : Memory.wf (State.mem s) = true) : Memory.wf (State.mem (State.send s bs n mark remote)) = true := by
  unfold State.send
  repeat' with_reducible (first | assumption | refine memOk_fst (by assumption) ?_ | apply State.modCur_memOk | apply foldl_memOk | apply foldl_fst_memOk | dsimp only | split | intro)

theorem State.sendHome_memOk (s : State) (bs : List (Nat × Byte)) (n : Nat) (mark : Bool) (hs : Memory.wf (State.mem s) = true) : Memory.wf (State.mem (State.sendHome s bs n mark)) = true := by
  unfold State.sendHome
  repeat' with_reducible (first | assumption | refine memOk_fst (by assumption) ?_ | apply State.modCur_memOk | apply State.commit_memOk | apply foldl_memOk | apply foldl_fst_memOk | dsimp only | split | intro)

theorem State.setQueue_memOk (s : State) (p q : Nat) (x : Queue) (hs : Memory.wf (State.mem s) = true) : Memory.wf (State.mem (State.setQueue s p q x)) = true := by
  unfold State.setQueue
  repeat' with_reducible (first | assumption | refine memOk_fst (by assumption) ?_ | apply State.modCore_memOk | apply foldl_memOk | apply foldl_fst_memOk | dsimp only | split | intro)

theorem State.modFifo_memOk (s : State) (p n : Nat) (f : Fifo → Fifo) (hs : Memory.wf (State.mem s) = true) : Memory.wf (State.mem (State.modFifo s p n f)) = true := by
  unfold State.modFifo
  repeat' with_reducible (first | assumption | refine memOk_fst (by assumption) ?_ | apply State.modCore_memOk | apply foldl_memOk | apply foldl_fst_memOk | dsimp only | split | intro)

theorem State.pushRec_memOk (s : State) (p : Nat) (r : List Byte) (hs : Memory.wf s.mem = true) {t : State} (e : s.pushRec p r = some t) : Memory.wf t.mem = true := by
  unfold State.pushRec at e; dsimp only at e; split at e <;> cases e; exact hs

theorem State.pushRecs_memOk (s : State) (p : Nat) (l : List (List Byte)) (hs : Memory.wf s.mem = true) : Memory.wf (State.mem (s.pushRecs p l).1) = true := by
  induction l generalizing s with
  | nil => exact hs
  | cons r l ih =>
    unfold State.pushRecs
    split
    · exact hs
    · exact ih _ (State.pushRec_memOk s p r hs ‹_›)

theorem State.enterTrap_memOk (s : State) (p i : Nat) (t : TrapReq) (hs : Memory.wf (State.mem s) = true) : Memory.wf (State.mem (State.enterTrap s p i t)) = true := by
  unfold State.enterTrap
  repeat' with_reducible (first | assumption | refine memOk_fst (by assumption) ?_ | apply State.setHart_memOk | apply State.modHart_memOk | apply State.event_memOk | apply State.endGang_memOk | apply foldl_memOk | apply foldl_fst_memOk | dsimp only | split | intro)

theorem State.leaveTrap_memOk (s : State) (p i : Nat) (hs : Memory.wf (State.mem s) = true) : Memory.wf (State.mem (State.leaveTrap s p i)) = true := by
  unfold State.leaveTrap
  repeat' with_reducible (first | assumption | refine memOk_fst (by assumption) ?_ | apply State.setHart_memOk | apply State.endGang_memOk | apply foldl_memOk | apply foldl_fst_memOk | dsimp only | split | intro)

theorem State.addTlb_memOk (s : State) (w : Who) (t : Tlb) (hs : Memory.wf (State.mem s) = true) : Memory.wf (State.mem (State.addTlb s w t)) = true := by
  unfold State.addTlb
  repeat' with_reducible (first | assumption | refine memOk_fst (by assumption) ?_ | apply State.modCore_memOk | apply State.modHub_memOk | apply foldl_memOk | apply foldl_fst_memOk | dsimp only | split | intro)

theorem State.keepTlb_memOk (s : State) (b : Nat) (keep : Tlb → Bool) (hs : Memory.wf (State.mem s) = true) : Memory.wf (State.mem (State.keepTlb s b keep)) = true := by
  unfold State.keepTlb
  repeat' with_reducible (first | assumption | refine memOk_fst (by assumption) ?_ | apply State.modCore_memOk | apply State.modHub_memOk | apply foldl_memOk | apply foldl_fst_memOk | dsimp only | split | intro)

theorem State.touch_memOk (s : State) (k e : Nat) (d : Bool) (hs : Memory.wf (State.mem s) = true) : Memory.wf (State.mem (State.touch s k e d)) = true := by
  unfold State.touch
  repeat' with_reducible (first | assumption | refine memOk_fst (by assumption) ?_ | apply State.commit_memOk | apply foldl_memOk | apply foldl_fst_memOk | dsimp only | split | intro)

theorem State.look_memOk (s : State) (d pa : Nat) (hs : Memory.wf (State.mem s) = true) : Memory.wf (State.mem (State.look s d pa)) = true := by
  unfold State.look
  repeat' with_reducible (first | assumption | refine memOk_fst (by assumption) ?_ | apply State.verify_memOk | apply foldl_memOk | apply foldl_fst_memOk | dsimp only | split | intro)

theorem State.walk_memOk (s : State) (d va pa pl n : Nat) (hs : Memory.wf s.mem = true) : Memory.wf (State.mem (s.walk d va pa pl n).1) = true := by
  induction n generalizing s pa pl with
  | zero =>
    unfold State.walk
    have h1 := State.look_memOk s d (pa + 8 * vaIndex va 0) hs
    generalize s.look d (pa + 8 * vaIndex va 0) = t at h1
    dsimp only
    split <;> exact h1
  | succ n ih =>
    unfold State.walk
    have h1 := State.look_memOk s d (pa + 8 * vaIndex va (n + 1)) hs
    generalize s.look d (pa + 8 * vaIndex va (n + 1)) = t at h1
    dsimp only
    split
    · exact h1
    · split
      · exact h1
      · exact ih _ _ _ (State.touch_memOk _ _ _ _ h1)

theorem State.seeCtx_memOk (s : State) (d n : Nat) (hs : Memory.wf (State.mem s) = true) : Memory.wf (State.mem (State.seeCtx s d n)) = true := by
  unfold State.seeCtx
  repeat' with_reducible (first | assumption | refine memOk_fst (by assumption) ?_ | apply State.look_memOk | apply foldl_memOk | apply foldl_fst_memOk | dsimp only | split | intro)

theorem State.seeFolio_memOk (s : State) (fol : Nat) (hs : Memory.wf (State.mem s) = true) : Memory.wf (State.mem (State.seeFolio s fol)) = true := by
  unfold State.seeFolio
  repeat' with_reducible (first | assumption | refine memOk_fst (by assumption) ?_ | apply State.look_memOk | apply foldl_memOk | apply foldl_fst_memOk | dsimp only | split | intro)

theorem State.store_memOk (s : State) (k n x : Nat) (hs : Memory.wf (State.mem s) = true) : Memory.wf (State.mem (State.store s k n x)) = true := by
  unfold State.store
  repeat' with_reducible (first | assumption | refine memOk_fst (by assumption) ?_ | apply State.commit_memOk | apply foldl_memOk | apply foldl_fst_memOk | dsimp only | split | intro)

theorem State.folioDrop_memOk (s : State) (ks : List Nat) (hs : Memory.wf (State.mem s) = true) : Memory.wf (State.mem (State.folioDrop s ks)) = true := by
  unfold State.folioDrop
  repeat' with_reducible (first | assumption | refine memOk_fst (by assumption) ?_ | apply foldl_memOk | apply foldl_fst_memOk | dsimp only | split | intro)

theorem State.drop_memOk (s : State) (f : Folio) (b : Nat) (hs : Memory.wf (State.mem s) = true) : Memory.wf (State.mem (State.drop s f b)) = true := by
  unfold State.drop
  repeat' with_reducible (first | assumption | refine memOk_fst (by assumption) ?_ | apply State.verify_memOk | apply State.store_memOk | apply State.folioDrop_memOk | apply foldl_memOk | apply foldl_fst_memOk | dsimp only | split | intro)

theorem State.popFree_memOk (s : State) (f : Folio) (hs : Memory.wf s.mem = true) {n : Nat} {t : State} (e : s.popFree f = some (n, t)) : Memory.wf t.mem = true := by
  unfold State.popFree at e; dsimp only at e; split at e
  · cases e
  · split at e <;> cases e; exact State.store_memOk _ _ _ _ (State.verify_memOk _ _ hs)

theorem State.copyBlock_memOk (s : State) (src dst : Nat) (hs : Memory.wf (State.mem s) = true) : Memory.wf (State.mem (State.copyBlock s src dst)) = true := by
  unfold State.copyBlock
  repeat' with_reducible (first | assumption | refine memOk_fst (by assumption) ?_ | apply State.verify_memOk | apply State.commit_memOk | apply foldl_memOk | apply foldl_fst_memOk | dsimp only | split | intro)

theorem State.folioBlock_memOk (s : State) (fol seg va : Nat) (acc : Acc) (hs : Memory.wf (State.mem s) = true) : Memory.wf (State.mem (State.folioBlock s fol seg va acc).1) = true := by
  unfold State.folioBlock
  repeat' with_reducible (first | assumption | refine memOk_fst (by assumption) ?_ | apply State.verify_memOk | apply State.seeFolio_memOk | apply State.store_memOk | apply State.folioDrop_memOk | apply State.drop_memOk | refine State.popFree_memOk _ _ ?_ (by assumption) | apply State.copyBlock_memOk | apply foldl_memOk | apply foldl_fst_memOk | dsimp only | split | intro)

theorem State.lockIlv_memOk (s : State) (w : Who) (loc : Loc) (hs : Memory.wf (State.mem s) = true) : Memory.wf (State.mem (State.lockIlv s w loc)) = true := by
  unfold State.lockIlv
  repeat' with_reducible (first | assumption | refine memOk_fst (by assumption) ?_ | apply State.modHub_memOk | apply foldl_memOk | apply foldl_fst_memOk | dsimp only | split | intro)

theorem State.arrive_memOk (s : State) (w : Who) (pa attr l : Nat) (dev8 p : Bool) (hs : Memory.wf (State.mem s) = true) : Memory.wf (State.mem (State.arrive s w pa attr l dev8 p).1) = true := by
  unfold State.arrive
  repeat' with_reducible (first | assumption | refine memOk_fst (by assumption) ?_ | apply State.lockIlv_memOk | apply foldl_memOk | apply foldl_fst_memOk | dsimp only | split | intro)

theorem State.walkAll_memOk (s : State) (w : Who) (va : Nat) (acc : Acc) (dev8 : Bool) (hs : Memory.wf (State.mem s) = true) : Memory.wf (State.mem (State.walkAll s w va acc dev8).1) = true := by
  unfold State.walkAll
  repeat' with_reducible (first | assumption | refine memOk_fst (by assumption) ?_ | apply State.drawn_memOk | apply State.addTlb_memOk | apply State.touch_memOk | apply State.walk_memOk | apply State.seeCtx_memOk | apply State.folioBlock_memOk | apply State.arrive_memOk | apply foldl_memOk | apply foldl_fst_memOk | dsimp only | split | intro)

theorem State.xlate_memOk (s : State) (w : Who) (va : VAddr) (acc : Acc) (dev8 : Bool) (hs : Memory.wf (State.mem s) = true) : Memory.wf (State.mem (State.xlate s w va acc dev8).1) = true := by
  unfold State.xlate
  repeat' with_reducible (first | assumption | refine memOk_fst (by assumption) ?_ | apply State.arrive_memOk | apply State.walkAll_memOk | apply foldl_memOk | apply foldl_fst_memOk | dsimp only | split | intro)

theorem State.xlateSpan_memOk (s : State) (w : Who) (va : VAddr) (n : Nat) (acc : Acc) (dev8 : Bool) (hs : Memory.wf s.mem = true) :
    Memory.wf (State.mem (s.xlateSpan w va n acc dev8).1) = true := by
  unfold State.xlateSpan
  generalize pieces va n = l
  induction l generalizing s with
  | nil => exact hs
  | cons q l ih =>
    unfold State.xlateSpan.go
    split
    · exact hs
    · split
      · exact hs
      · split
        · exact memOk_fst ‹_› (State.xlate_memOk s w q.1 acc dev8 hs)
        · have ht := memOk_fst ‹_› (State.xlate_memOk s w q.1 acc dev8 hs)
          split
          · exact memOk_fst ‹_› (ih _ ht)
          · exact memOk_fst ‹_› (ih _ ht)

theorem State.setRing_memOk (s : State) (d i : Nat) (r : Rec) (hs : Memory.wf (State.mem s) = true) : Memory.wf (State.mem (State.setRing s d i r)) = true := by
  unfold State.setRing
  repeat' with_reducible (first | assumption | refine memOk_fst (by assumption) ?_ | apply State.modDie_memOk | apply State.setGang_memOk | apply foldl_memOk | apply foldl_fst_memOk | dsimp only | split | intro)

theorem State.setRecAt_memOk (s : State) (d : Nat) (a : RecAt) (r : Rec) (hs : Memory.wf (State.mem s) = true) : Memory.wf (State.mem (State.setRecAt s d a r)) = true := by
  unfold State.setRecAt
  repeat' with_reducible (first | assumption | refine memOk_fst (by assumption) ?_ | apply State.setGang_memOk | apply State.setRing_memOk | apply foldl_memOk | apply foldl_fst_memOk | dsimp only | split | intro)

theorem State.seeNote_memOk (s : State) (d : Nat) (r : Rec) (hs : Memory.wf (State.mem s) = true) : Memory.wf (State.mem (State.seeNote s d r)) = true := by
  unfold State.seeNote
  repeat' with_reducible (first | assumption | refine memOk_fst (by assumption) ?_ | apply State.verify_memOk | apply foldl_memOk | apply foldl_fst_memOk | dsimp only | split | intro)

theorem State.notify_memOk (s : State) (d slot word : Nat) (hs : Memory.wf (State.mem s) = true) : Memory.wf (State.mem (State.notify s d slot word)) = true := by
  unfold State.notify
  repeat' with_reducible (first | assumption | refine memOk_fst (by assumption) ?_ | apply State.modDie_memOk | apply State.seeNote_memOk | apply foldl_memOk | apply foldl_fst_memOk | dsimp only | split | intro)

theorem State.zeroRange_memOk (s : State) (k n : Nat) (hs : Memory.wf s.mem = true) : Memory.wf (State.mem (s.zeroRange k n)) = true := by
  unfold State.zeroRange; dsimp only; exact memWf_filter _ hs

theorem State.takeCore_memOk (s : State) (r : Rec) (core g spbase : Nat) (hs : Memory.wf (State.mem s) = true) : Memory.wf (State.mem (State.takeCore s r core g spbase).1) = true := by
  unfold State.takeCore
  repeat' with_reducible (first | assumption | refine memOk_fst (by assumption) ?_ | apply State.modCore_memOk | apply foldl_memOk | apply foldl_fst_memOk | dsimp only | split | intro)

theorem State.place_memOk (s : State) (d i : Nat) (cores : List Nat) (g : Nat) (hs : Memory.wf (State.mem s) = true) : Memory.wf (State.mem (State.place s d i cores g)) = true := by
  unfold State.place
  repeat' with_reducible (first | assumption | refine memOk_fst (by assumption) ?_ | apply State.modCore_memOk | apply State.modHub_memOk | apply State.setHart_memOk | apply State.setGang_memOk | apply State.zeroRange_memOk | apply State.takeCore_memOk | apply foldl_memOk | apply foldl_fst_memOk | dsimp only | split | intro)

theorem State.suspend_memOk (s : State) (d i : Nat) (hs : Memory.wf (State.mem s) = true) : Memory.wf (State.mem (State.suspend s d i)) = true := by
  unfold State.suspend
  repeat' with_reducible (first | assumption | refine memOk_fst (by assumption) ?_ | apply State.modGang_memOk | apply State.stopGang_memOk | apply foldl_memOk | apply foldl_fst_memOk | dsimp only | split | intro)

theorem State.markGroups_memOk (s : State) (d i n : Nat) (hs : Memory.wf (State.mem s) = true) : Memory.wf (State.mem (State.markGroups s d i n)) = true := by
  unfold State.markGroups
  repeat' with_reducible (first | assumption | refine memOk_fst (by assumption) ?_ | apply State.modCore_memOk | apply State.modGang_memOk | apply State.drop_memOk | apply foldl_memOk | apply foldl_fst_memOk | dsimp only | split | intro)

theorem State.reclaimFrom_memOk (s : State) (h : Rec) (cores : List Nat) (d i : Nat) (hs : Memory.wf (State.mem s) = true) : Memory.wf (State.mem (State.reclaimFrom s h cores d i)) = true := by
  unfold State.reclaimFrom
  repeat' with_reducible (first | assumption | refine memOk_fst (by assumption) ?_ | apply State.place_memOk | apply State.suspend_memOk | apply State.markGroups_memOk | apply foldl_memOk | apply foldl_fst_memOk | dsimp only | split | intro)

theorem State.reclaim_memOk (s : State) (d : Nat) (hs : Memory.wf (State.mem s) = true) : Memory.wf (State.mem (State.reclaim s d)) = true := by
  unfold State.reclaim
  repeat' with_reducible (first | assumption | refine memOk_fst (by assumption) ?_ | apply State.place_memOk | apply State.reclaimFrom_memOk | apply foldl_memOk | apply foldl_fst_memOk | dsimp only | split | intro)

theorem State.placeBoot_memOk (s : State) (d entry : Nat) (hs : Memory.wf (State.mem s) = true) : Memory.wf (State.mem (State.placeBoot s d entry)) = true := by
  unfold State.placeBoot
  repeat' with_reducible (first | assumption | refine memOk_fst (by assumption) ?_ | apply State.setGang_memOk | apply State.place_memOk | apply foldl_memOk | apply foldl_fst_memOk | dsimp only | split | intro)

theorem State.writeBoot_memOk (s : State) (d : Nat) (w : Word) (hs : Memory.wf (State.mem s) = true) : Memory.wf (State.mem (State.writeBoot s d w)) = true := by
  unfold State.writeBoot
  repeat' with_reducible (first | assumption | refine memOk_fst (by assumption) ?_ | apply State.modDie_memOk | apply State.placeBoot_memOk | apply foldl_memOk | apply foldl_fst_memOk | dsimp only | split | intro)

theorem State.writeSched_memOk (s : State) (d : Nat) (w : Word) (hs : Memory.wf (State.mem s) = true) : Memory.wf (State.mem (State.writeSched s d w)) = true := by
  unfold State.writeSched
  repeat' with_reducible (first | assumption | refine memOk_fst (by assumption) ?_ | apply State.modDie_memOk | apply State.seeNote_memOk | apply foldl_memOk | apply foldl_fst_memOk | dsimp only | split | intro)

theorem State.gangRuns_memOk (s : State) (h : Hart) (hs : Memory.wf (State.mem s) = true) : Memory.wf (State.mem (State.gangRuns s h)) = true := by
  unfold State.gangRuns
  repeat' with_reducible (first | assumption | refine memOk_fst (by assumption) ?_ | apply State.modDie_memOk | apply State.modGang_memOk | apply State.endGang_memOk | apply foldl_memOk | apply foldl_fst_memOk | dsimp only | split | intro)

theorem State.turn_memOk (s : State) (d who kind bit : Nat) (hs : Memory.wf s.mem = true) {t : State} (e : s.turn d who kind bit = some t) : Memory.wf t.mem = true := by
  have h (a b : Bool) (x : Die) (h : (if a then none else if b then some (s.setDie d x) else none) = some t) : Memory.wf t.mem = true := by
    cases a <;> cases b <;> cases h; exact hs
  exact h _ _ _ e

theorem State.dropSem_memOk (s : State) (r : Rec) (hs : Memory.wf (State.mem s) = true) : Memory.wf (State.mem (State.dropSem s r)) = true := by
  unfold State.dropSem
  repeat' with_reducible (first | assumption | refine memOk_fst (by assumption) ?_ | apply State.modDie_memOk | apply foldl_memOk | apply foldl_fst_memOk | dsimp only | split | intro)

theorem State.endWord_memOk (s : State) (d : Nat) (r : Rec) (status : Nat) (hs : Memory.wf (State.mem s) = true) : Memory.wf (State.mem (State.endWord s d r status)) = true := by
  unfold State.endWord
  repeat' with_reducible (first | assumption | refine memOk_fst (by assumption) ?_ | apply State.event_memOk | apply State.commit_memOk | apply State.store_memOk | apply State.xlateSpan_memOk | apply foldl_memOk | apply foldl_fst_memOk | dsimp only | split | intro)

theorem State.releaseCore_memOk (s : State) (r : Rec) (q : Place) (hs : Memory.wf (State.mem s) = true) : Memory.wf (State.mem (State.releaseCore s r q)) = true := by
  unfold State.releaseCore
  repeat' with_reducible (first | assumption | refine memOk_fst (by assumption) ?_ | apply State.modCore_memOk | apply foldl_memOk | apply foldl_fst_memOk | dsimp only | split | intro)

theorem State.ringBytes_memOk (s : State) (d j : Nat) (r : Rec) (hs : Memory.wf (State.mem s) = true) : Memory.wf (State.mem (State.ringBytes s d j r).1) = true := by
  unfold State.ringBytes
  repeat' with_reducible (first | assumption | refine memOk_fst (by assumption) ?_ | apply State.verify_memOk | apply State.xlateSpan_memOk | apply foldl_memOk | apply foldl_fst_memOk | dsimp only | split | intro)

theorem State.refillFrom_memOk (s : State) (d i : Nat) (l : List (Nat × Rec)) (hs : Memory.wf s.mem = true) : Memory.wf (State.mem (s.refillFrom d i l)) = true := by
  induction l generalizing s with
  | nil => exact hs
  | cons q l ih =>
    unfold State.refillFrom
    dsimp only
    have h1 := State.ringBytes_memOk s d q.1 q.2 hs
    generalize s.ringBytes d q.1 q.2 = z at h1
    split
    · exact State.seeNote_memOk _ _ _ h1
    · split
      · exact h1
      · exact ih _ (State.endWord_memOk _ _ _ _ h1)

theorem State.refill_memOk (s : State) (d i : Nat) (hs : Memory.wf (State.mem s) = true) : Memory.wf (State.mem (State.refill s d i)) = true := by
  unfold State.refill
  repeat' with_reducible (first | assumption | refine memOk_fst (by assumption) ?_ | apply State.refillFrom_memOk | apply foldl_memOk | apply foldl_fst_memOk | dsimp only | split | intro)

theorem State.freeRec_memOk (s : State) (d i : Nat) (hs : Memory.wf (State.mem s) = true) : Memory.wf (State.mem (State.freeRec s d i)) = true := by
  unfold State.freeRec
  repeat' with_reducible (first | assumption | refine memOk_fst (by assumption) ?_ | apply State.setGang_memOk | apply State.setRing_memOk | apply State.refill_memOk | apply foldl_memOk | apply foldl_fst_memOk | dsimp only | split | intro)

theorem State.modLink_memOk (s : State) (n : Nat) (f : Link → Link) (hs : Memory.wf (State.mem s) = true) : Memory.wf (State.mem (State.modLink s n f)) = true := by
  unfold State.modLink
  repeat' with_reducible (first | assumption | refine memOk_fst (by assumption) ?_ | apply State.modDie_memOk | apply State.event_memOk | apply foldl_memOk | apply foldl_fst_memOk | dsimp only | split | intro)

theorem State.rotate_memOk (s : State) (n errors : Nat) (hs : Memory.wf (State.mem s) = true) : Memory.wf (State.mem (State.rotate s n errors)) = true := by
  unfold State.rotate
  repeat' with_reducible (first | assumption | refine memOk_fst (by assumption) ?_ | apply State.event_memOk | apply State.modLink_memOk | apply foldl_memOk | apply foldl_fst_memOk | dsimp only | split | intro)

theorem State.flitError_memOk (s : State) (n lane : Nat) (hs : Memory.wf (State.mem s) = true) : Memory.wf (State.mem (State.flitError s n lane)) = true := by
  unfold State.flitError
  repeat' with_reducible (first | assumption | refine memOk_fst (by assumption) ?_ | apply State.event_memOk | apply State.modLink_memOk | apply foldl_memOk | apply foldl_fst_memOk | dsimp only | split | intro)

theorem State.loseReqs_memOk (s : State) (hs : Memory.wf (State.mem s) = true) : Memory.wf (State.mem (State.loseReqs s)) = true := by
  unfold State.loseReqs
  repeat' with_reducible (first | assumption | refine memOk_fst (by assumption) ?_ | apply foldl_memOk | apply foldl_fst_memOk | dsimp only | split | intro)

theorem State.linkFails_memOk (s : State) (n : Nat) (hs : Memory.wf (State.mem s) = true) : Memory.wf (State.mem (State.linkFails s n)) = true := by
  unfold State.linkFails
  repeat' with_reducible (first | assumption | refine memOk_fst (by assumption) ?_ | apply State.event_memOk | apply State.modLink_memOk | apply State.loseReqs_memOk | apply foldl_memOk | apply foldl_fst_memOk | dsimp only | split | intro)

theorem State.retrained_memOk (s : State) (n peer : Nat) (hs : Memory.wf (State.mem s) = true) : Memory.wf (State.mem (State.retrained s n peer)) = true := by
  unfold State.retrained
  repeat' with_reducible (first | assumption | refine memOk_fst (by assumption) ?_ | apply State.event_memOk | apply State.modLink_memOk | apply foldl_memOk | apply foldl_fst_memOk | dsimp only | split | intro)

theorem State.crWrite_memOk (s : State) (n : Nat) (hi : Bool) (v : Word) (hs : Memory.wf (State.mem s) = true) : Memory.wf (State.mem (State.crWrite s n hi v)) = true := by
  unfold State.crWrite
  repeat' with_reducible (first | assumption | refine memOk_fst (by assumption) ?_ | apply State.modCore_memOk | apply State.modDie_memOk | apply State.modCur_memOk | apply State.modCtrl_memOk | apply foldl_memOk | apply foldl_fst_memOk | dsimp only | split | intro)

theorem State.areaPut_memOk (s : State) (d : Nat) (va : VAddr) (l : List (Nat × List Byte)) (hs : Memory.wf s.mem = true) :
    Memory.wf (State.mem (s.areaPut d va l).1) = true := by
  induction l generalizing s with
  | nil => exact hs
  | cons q l ih =>
    unfold State.areaPut
    split
    · exact memOk_fst ‹_› (State.xlateSpan_memOk _ _ _ _ _ _ hs)
    · split
      · exact memOk_fst ‹_› (State.xlateSpan_memOk _ _ _ _ _ _ hs)
      · exact ih _ (State.commit_memOk _ _ _ _ _ _ (memOk_fst ‹_› (State.xlateSpan_memOk _ _ _ _ _ _ hs)))

theorem State.areaGet_memOk (s : State) (d : Nat) (va : VAddr) (o n : Nat) (hs : Memory.wf (State.mem s) = true) : Memory.wf (State.mem (State.areaGet s d va o n).1) = true := by
  unfold State.areaGet
  repeat' with_reducible (first | assumption | refine memOk_fst (by assumption) ?_ | apply State.drawn_memOk | apply State.verify_memOk | apply State.xlateSpan_memOk | apply foldl_memOk | apply foldl_fst_memOk | dsimp only | split | intro)

theorem State.areaFault_memOk (s : State) (d i : Nat) (x : VAddr × XFault) (hs : Memory.wf (State.mem s) = true) : Memory.wf (State.mem (State.areaFault s d i x)) = true := by
  unfold State.areaFault
  repeat' with_reducible (first | assumption | refine memOk_fst (by assumption) ?_ | apply State.modDie_memOk | apply State.modGang_memOk | apply foldl_memOk | apply foldl_fst_memOk | dsimp only | split | intro)

theorem State.passGroups_memOk (s : State) (d i : Nat) (q : Place) (hs : Memory.wf (State.mem s) = true) : Memory.wf (State.mem (State.passGroups s d i q)) = true := by
  unfold State.passGroups
  repeat' with_reducible (first | assumption | refine memOk_fst (by assumption) ?_ | apply State.modCore_memOk | apply State.modGang_memOk | apply foldl_memOk | apply foldl_fst_memOk | dsimp only | split | intro)

theorem State.saveDone_memOk (s : State) (d i : Nat) (hs : Memory.wf (State.mem s) = true) : Memory.wf (State.mem (State.saveDone s d i)) = true := by
  unfold State.saveDone
  repeat' with_reducible (first | assumption | refine memOk_fst (by assumption) ?_ | apply State.setGang_memOk | apply State.releaseCore_memOk | apply foldl_memOk | apply foldl_fst_memOk | dsimp only | split | intro)

theorem State.saveStep_memOk (s : State) (d i : Nat) (hs : Memory.wf (State.mem s) = true) : Memory.wf (State.mem (State.saveStep s d i)) = true := by
  unfold State.saveStep
  repeat' with_reducible (first | assumption | refine memOk_fst (by assumption) ?_ | apply State.modCore_memOk | apply State.drawn_memOk | apply State.setGang_memOk | apply State.areaPut_memOk | apply State.areaFault_memOk | apply State.passGroups_memOk | apply State.saveDone_memOk | apply foldl_memOk | apply foldl_fst_memOk | dsimp only | split | intro)

theorem State.areaRead_memOk (s : State) (d : Nat) (va : VAddr) (o n : Nat) (hs : Memory.wf s.mem = true) :
    Memory.wf (State.mem (s.areaRead d va o n).1) = true := by
  induction n generalizing s o with
  | zero => exact hs
  | succ n ih =>
    unfold State.areaRead
    split
    · exact memOk_fst ‹_› (State.areaGet_memOk _ _ _ _ _ hs)
    · rename_i t l e
      have ht := memOk_fst e (State.areaGet_memOk _ _ _ _ _ hs)
      split <;> exact memOk_fst ‹_› (ih t (o + 1024) ht)

theorem State.restoreBandAt_memOk (s : State) (va : VAddr) (d m b : Nat) (q : Place) (hs : Memory.wf s.mem = true) :
    Memory.wf (State.mem (s.restoreBandAt va d m b q).1) = true := by
  unfold State.restoreBandAt
  split
  · exact memOk_fst ‹_› (State.areaGet_memOk _ _ _ _ _ hs)
  · rename_i t hd e
    have ht := memOk_fst e (State.areaGet_memOk _ _ _ _ _ hs)
    extract_lets +lift hb gs s0
    have h0 : Memory.wf s0.mem = true := ht
    clear_value s0
    split
    · exact h0
    · split
      · exact memOk_fst ‹_› (State.areaGet_memOk _ _ _ _ _ h0)
      · rename_i u l e
        have hu := memOk_fst e (State.areaGet_memOk _ _ _ _ _ h0)
        split
        · exact memOk_fst ‹_› (State.areaRead_memOk _ _ _ _ _ hu)
        · rename_i v po e
          dsimp only
          with_reducible apply State.modCore_memOk
          exact memOk_fst e (State.areaRead_memOk _ _ _ _ _ hu)

theorem State.restoreBand_memOk (s : State) (d i c m b : Nat) (q : Place) (hs : Memory.wf (State.mem s) = true) : Memory.wf (State.mem (State.restoreBand s d i c m b q).1) = true := by
  unfold State.restoreBand
  repeat' with_reducible (first | assumption | refine memOk_fst (by assumption) ?_ | apply State.restoreBandAt_memOk | apply foldl_memOk | apply foldl_fst_memOk | dsimp only | split | intro)

theorem State.coloRecs_memOk (s : State) (d : Nat) (va : VAddr) (l : List Nat) (hs : Memory.wf s.mem = true) : Memory.wf (State.mem (s.coloRecs d va l).1) = true := by
  induction l generalizing s with
  | nil => exact hs
  | cons o l ih =>
    unfold State.coloRecs
    split
    · exact memOk_fst ‹_› (State.areaGet_memOk _ _ _ _ _ hs)
    · have ht := memOk_fst ‹_› (State.areaGet_memOk _ _ _ _ _ hs)
      split <;> exact memOk_fst ‹_› (ih _ ht)

theorem State.putColo_memOk (s : State) (d i c m : Nat) (q : Place) (recs : List (Option (BitVec 256))) (hs : Memory.wf (State.mem s) = true) : Memory.wf (State.mem (State.putColo s d i c m q recs)) = true := by
  unfold State.putColo
  repeat' with_reducible (first | assumption | refine memOk_fst (by assumption) ?_ | apply State.modCore_memOk | apply State.modGang_memOk | apply foldl_memOk | apply foldl_fst_memOk | dsimp only | split | intro)

theorem restoredColo_memOk (r : State × Except (VAddr × XFault) (List (Option (BitVec 256)))) (d i c m : Nat) (q : Place) (hs : Memory.wf r.1.mem = true) :
    Memory.wf (State.mem (restoredColo r d i c m q).1) = true := by
  unfold restoredColo
  split
  · exact hs
  · exact State.putColo_memOk _ _ _ _ _ _ _ hs

theorem State.restoreColo_memOk (s : State) (d i c m : Nat) (q : Place) (hs : Memory.wf s.mem = true) : Memory.wf (State.mem (s.restoreColo d i c m q).1) = true := by
  exact restoredColo_memOk _ _ _ _ _ _ (State.coloRecs_memOk _ _ _ _ hs)

theorem bandAnswer_memOk (r : State × Option (VAddr × XFault)) (hs : Memory.wf r.1.mem = true) : Memory.wf (State.mem (bandAnswer r).1) = true := by
  unfold bandAnswer
  split <;> exact hs

theorem State.restoreBands_memOk (s : State) (d i c m : Nat) (q : Place) (hs : Memory.wf (State.mem s) = true) : Memory.wf (State.mem (State.restoreBands s d i c m q).1) = true := by
  unfold State.restoreBands
  repeat' with_reducible (first | assumption | refine memOk_fst (by assumption) ?_ | apply State.restoreBand_memOk | apply foldl_memOk | apply foldl_fst_memOk | dsimp only | split | intro)

theorem restoredBands_memOk (r : State × Option (VAddr × XFault)) (d i c m : Nat) (q : Place) (hs : Memory.wf r.1.mem = true) :
    Memory.wf (State.mem (restoredBands r d i c m q).1) = true := by
  unfold restoredBands
  split
  · exact hs
  · exact State.restoreColo_memOk _ _ _ _ _ _ hs

theorem State.restoreGroup_memOk (s : State) (d i c m : Nat) (q : Place) (hs : Memory.wf (State.mem s) = true) : Memory.wf (State.mem (State.restoreGroup s d i c m q).1) = true := by
  unfold State.restoreGroup
  repeat' with_reducible (first | assumption | refine memOk_fst (by assumption) ?_ | apply State.restoreBands_memOk | apply restoredBands_memOk | apply foldl_memOk | apply foldl_fst_memOk | dsimp only | split | intro)

theorem restoredHarts_memOk (r : State × Except (VAddr × XFault) (List (Byte × Bool))) (size : Nat) (q : Place) (go : Hart → List Byte → Hart) (hs : Memory.wf r.1.mem = true) :
    Memory.wf (State.mem (restoredHarts r size q go).1) = true := by
  unfold restoredHarts
  split
  · exact hs
  · exact foldl_memOk hs (fun s a h => State.modHart_memOk _ _ _ _ h)

theorem State.restoreHarts_memOk (s : State) (d i c off size : Nat) (q : Place) (go : Hart → List Byte → Hart) (hs : Memory.wf s.mem = true) :
    Memory.wf (State.mem (s.restoreHarts d i c off size q go).1) = true := by
  unfold State.restoreHarts
  exact restoredHarts_memOk _ _ _ _ (State.areaRead_memOk _ _ _ _ _ hs)

theorem restoredTags_memOk (r : State × Except (VAddr × XFault) (List (Byte × Bool))) (d i c claim : Nat) (q : Place) (hs : Memory.wf r.1.mem = true) :
    Memory.wf (State.mem (restoredTags r d i c claim q).1) = true := by
  unfold restoredTags
  split
  · exact hs
  · exact foldl_memOk (State.modGang_memOk _ _ _ _ (State.modCore_memOk _ _ _ hs)) (fun s a h => h)

theorem State.restoreTags_memOk (s : State) (d i c : Nat) (va : VAddr) (claim : Nat) (q : Place) (hs : Memory.wf s.mem = true) :
    Memory.wf (State.mem (s.restoreTags d i c va claim q).1) = true := by
  unfold State.restoreTags
  exact restoredTags_memOk _ _ _ _ _ _ (State.areaRead_memOk _ _ _ _ _ hs)

theorem State.restoreQueues_memOk (s : State) (d : Nat) (va : VAddr) (claim : Nat) (forms : Tbl (Nat × List Nat)) (q : Place) (hs : Memory.wf (State.mem s) = true) : Memory.wf (State.mem (State.restoreQueues s d va claim forms q).1) = true := by
  unfold State.restoreQueues
  repeat' with_reducible (first | assumption | refine memOk_fst (by assumption) ?_ | apply State.setQueue_memOk | apply State.areaRead_memOk | apply foldl_memOk | apply foldl_fst_memOk | dsimp only | split | intro)

theorem restoredColos_memOk (r : State × Except (VAddr × XFault) (List (Byte × Bool))) (d i c nm g : Nat) (q : Place) (hs : Memory.wf r.1.mem = true) :
    Memory.wf (State.mem (restoredColos r d i c nm g q).1) = true := by
  unfold restoredColos
  split
  · exact hs
  · rename_i t l
    have ht : ∀ k : Colo, Memory.wf (State.mem (if nm = 0 then t.modGang d i (fun r => { r with colo := tset r.colo q.core k }) else t)) = true := by
      intro k; split <;> exact hs
    dsimp only
    split
    · exact bandAnswer_memOk _ (State.restoreColo_memOk _ _ _ _ _ _ (ht _))
    · exact ht _

theorem State.restoreColos_memOk (s : State) (d i c : Nat) (va : VAddr) (nm g : Nat) (q : Place) (hs : Memory.wf s.mem = true) :
    Memory.wf (State.mem (s.restoreColos d i c va nm g q).1) = true := by
  unfold State.restoreColos
  exact restoredColos_memOk _ _ _ _ _ _ _ (State.areaGet_memOk _ _ _ _ _ hs)

theorem restoredRecs_memOk (r : State × Except (VAddr × XFault) (List (Byte × Bool))) (n : Nat) (q : Place) (hs : Memory.wf r.1.mem = true) :
    Memory.wf (State.mem (restoredRecs r n q).1) = true := by
  unfold restoredRecs
  split <;> exact hs

theorem recsAfter_memOk (r : State × Except (VAddr × XFault) (List (Byte × Bool))) (d : Nat) (va : VAddr) (q : Place) (hs : Memory.wf r.1.mem = true) :
    Memory.wf (State.mem (recsAfter r d va q).1) = true := by
  unfold recsAfter
  split
  · exact hs
  · exact restoredRecs_memOk _ _ _ (State.areaRead_memOk _ _ _ _ _ hs)

theorem State.restoreRecs_memOk (s : State) (d : Nat) (va : VAddr) (q : Place) (hs : Memory.wf s.mem = true) :
    Memory.wf (State.mem (s.restoreRecs d va q).1) = true := by
  unfold State.restoreRecs
  exact recsAfter_memOk _ _ _ _ (State.areaGet_memOk _ _ _ _ _ hs)

theorem State.restoreUnit_memOk (s : State) (d i : Nat) (v : SaveSt) (q : Place) (hs : Memory.wf s.mem = true) :
    Memory.wf (State.mem (s.restoreUnit d i v q).1) = true := by
  unfold State.restoreUnit
  dsimp only
  split
  · exact State.restoreTags_memOk _ _ _ _ _ _ _ hs
  · exact State.restoreHarts_memOk _ _ _ _ _ _ _ _ hs
  · exact State.restoreHarts_memOk _ _ _ _ _ _ _ _ hs
  · exact State.restoreHarts_memOk _ _ _ _ _ _ _ _ hs
  · exact State.restoreHarts_memOk _ _ _ _ _ _ _ _ hs
  · exact State.restoreQueues_memOk _ _ _ _ _ _ hs
  · split
    · exact hs
    · exact bandAnswer_memOk _ (State.restoreBand_memOk _ _ _ _ _ _ _ hs)
  · exact State.restoreColos_memOk _ _ _ _ _ _ _ _ hs
  · exact State.restoreRecs_memOk _ _ _ _ hs
  · exact hs

theorem State.restoreDone_memOk (s : State) (d i : Nat) (hs : Memory.wf (State.mem s) = true) : Memory.wf (State.mem (State.restoreDone s d i)) = true := by
  unfold State.restoreDone
  repeat' with_reducible (first | assumption | refine memOk_fst (by assumption) ?_ | apply State.modHart_memOk | apply State.modGang_memOk | apply foldl_memOk | apply foldl_fst_memOk | dsimp only | split | intro)

theorem State.restoreStep_memOk (s : State) (d i : Nat) (hs : Memory.wf (State.mem s) = true) : Memory.wf (State.mem (State.restoreStep s d i)) = true := by
  unfold State.restoreStep
  repeat' with_reducible (first | assumption | refine memOk_fst (by assumption) ?_ | apply State.modGang_memOk | apply State.endGang_memOk | apply State.areaFault_memOk | apply State.restoreUnit_memOk | apply State.restoreDone_memOk | apply foldl_memOk | apply foldl_fst_memOk | dsimp only | split | intro)

theorem State.startSave_memOk (s : State) (d i : Nat) (hs : Memory.wf (State.mem s) = true) : Memory.wf (State.mem (State.startSave s d i)) = true := by
  unfold State.startSave
  repeat' with_reducible (first | assumption | refine memOk_fst (by assumption) ?_ | apply State.modCore_memOk | apply State.modHart_memOk | apply State.modGang_memOk | apply State.dropSem_memOk | apply foldl_memOk | apply foldl_fst_memOk | dsimp only | split | intro)

theorem State.saveUnit_memOk (s : State) (d i : Nat) (hs : Memory.wf (State.mem s) = true) : Memory.wf (State.mem (State.saveUnit s d i)) = true := by
  unfold State.saveUnit
  repeat' with_reducible (first | assumption | refine memOk_fst (by assumption) ?_ | apply State.modGang_memOk | apply State.saveStep_memOk | apply State.restoreStep_memOk | apply State.startSave_memOk | apply foldl_memOk | apply foldl_fst_memOk | dsimp only | split | intro)

theorem State.writeSaveStat_memOk (s : State) (d : Nat) (w : Word) (hs : Memory.wf (State.mem s) = true) : Memory.wf (State.mem (State.writeSaveStat s d w)) = true := by
  unfold State.writeSaveStat
  repeat' with_reducible (first | assumption | refine memOk_fst (by assumption) ?_ | apply State.modDie_memOk | apply foldl_memOk | apply foldl_fst_memOk | dsimp only | split | intro)

theorem State.resume_memOk (s : State) (d i : Nat) (hs : Memory.wf (State.mem s) = true) : Memory.wf (State.mem (State.resume s d i)) = true := by
  unfold State.resume
  repeat' with_reducible (first | assumption | refine memOk_fst (by assumption) ?_ | apply State.modCore_memOk | apply State.setHart_memOk | apply State.setGang_memOk | apply State.takeCore_memOk | apply foldl_memOk | apply foldl_fst_memOk | dsimp only | split | intro)

theorem State.growCore_memOk (s : State) (d i c : Nat) (new : List Nat) (q : Place) (hs : Memory.wf (State.mem s) = true) : Memory.wf (State.mem (State.growCore s d i c new q).1) = true := by
  unfold State.growCore
  repeat' with_reducible (first | assumption | refine memOk_fst (by assumption) ?_ | apply State.setCore_memOk | apply State.modGang_memOk | apply foldl_memOk | apply foldl_fst_memOk | dsimp only | split | intro)

theorem restoredOne_memOk (r : State × Option (VAddr × XFault)) (d i : Nat) (hs : Memory.wf r.1.mem = true) : Memory.wf (State.mem (restoredOne r d i).1) = true := by
  unfold restoredOne
  split <;> exact hs

theorem State.growRestore_memOk (s : State) (d i : Nat) (l : List (Nat × Nat)) (hs : Memory.wf s.mem = true) : Memory.wf (State.mem (s.growRestore d i l).1) = true := by
  unfold State.growRestore
  refine foldl_fst_memOk hs (fun p a h => ?_)
  split
  · exact restoredOne_memOk _ _ _ (State.restoreGroup_memOk _ _ _ _ _ _ h)
  · exact h

theorem State.grant_memOk (s : State) (h : Hart) (n : Nat) (hs : Memory.wf (State.mem s) = true) : Memory.wf (State.mem (State.grant s h n)) = true := by
  unfold State.grant
  repeat' with_reducible (first | assumption | refine memOk_fst (by assumption) ?_ | apply State.modGang_memOk | apply State.growCore_memOk | apply foldl_memOk | apply foldl_fst_memOk | dsimp only | split | intro)

theorem State.grow_memOk (s : State) (p : Nat) (h : Hart) (req : Nat) (hs : Memory.wf s.mem = true) : Memory.wf (State.mem (s.grow p h req).1) = true := by
  unfold State.grow
  refine State.growRestore_memOk _ _ _ _ ?_
  split
  · exact hs
  · exact State.grant_memOk _ _ _ hs

theorem State.growKept_memOk (s : State) (p : Nat) (h : Hart) (req : Nat) (hs : Memory.wf s.mem = true) : Memory.wf (State.mem (s.growKept p h req)) = true := by
  have H := State.grow_memOk s p h req hs
  unfold State.growKept
  split
  · exact memOk_fst ‹_› H
  · have ht := memOk_fst ‹_› H
    split
    · exact ht
    · exact State.modGang_memOk _ _ _ _ (State.modDie_memOk _ _ _ ht)

theorem State.releasePending_memOk (s : State) (d i : Nat) (hs : Memory.wf (State.mem s) = true) : Memory.wf (State.mem (State.releasePending s d i)) = true := by
  unfold State.releasePending
  repeat' with_reducible (first | assumption | refine memOk_fst (by assumption) ?_ | apply State.pend_memOk | apply State.modGang_memOk | apply State.place_memOk | apply foldl_memOk | apply foldl_fst_memOk | dsimp only | split | intro)

theorem State.modWit_memOk (s : State) (d : Nat) (f : Wit → Wit) (hs : Memory.wf (State.mem s) = true) : Memory.wf (State.mem (State.modWit s d f)) = true := by
  unfold State.modWit
  repeat' with_reducible (first | assumption | refine memOk_fst (by assumption) ?_ | apply State.modDie_memOk | apply State.modHub_memOk | apply foldl_memOk | apply foldl_fst_memOk | dsimp only | split | intro)

theorem State.roundStart_memOk (s : State) (hs : Memory.wf (State.mem s) = true) : Memory.wf (State.mem (State.roundStart s)) = true := by
  unfold State.roundStart
  repeat' with_reducible (first | assumption | refine memOk_fst (by assumption) ?_ | apply State.modHub_memOk | apply State.send_memOk | apply foldl_memOk | apply foldl_fst_memOk | dsimp only | split | intro)

theorem State.hear_memOk (s : State) (w : Nat) (b : List Byte) (hs : Memory.wf (State.mem s) = true) : Memory.wf (State.mem (State.hear s w b)) = true := by
  unfold State.hear
  repeat' with_reducible (first | assumption | refine memOk_fst (by assumption) ?_ | apply State.late_memOk | apply State.modWit_memOk | apply foldl_memOk | apply foldl_fst_memOk | dsimp only | split | intro)

theorem State.endOn_memOk (s : State) (f d : Nat) (hs : Memory.wf (State.mem s) = true) : Memory.wf (State.mem (State.endOn s f d)) = true := by
  unfold State.endOn
  repeat' with_reducible (first | assumption | refine memOk_fst (by assumption) ?_ | apply State.endGang_memOk | apply foldl_memOk | apply foldl_fst_memOk | dsimp only | split | intro)

theorem State.testLeaves_memOk (s : State) (p : Nat) (hs : Memory.wf (State.mem s) = true) : Memory.wf (State.mem (State.testLeaves s p)) = true := by
  unfold State.testLeaves
  repeat' with_reducible (first | assumption | refine memOk_fst (by assumption) ?_ | apply State.modCore_memOk | apply State.zeroRange_memOk | apply foldl_memOk | apply foldl_fst_memOk | dsimp only | split | intro)

theorem State.discard_memOk (s : State) (d : Nat) (hs : Memory.wf (State.mem s) = true) : Memory.wf (State.mem (State.discard s d)) = true :=
  State.modWit_memOk s d _ hs

theorem State.stopDie_memOk (s : State) (f : Nat) (hs : Memory.wf (State.mem s) = true) : Memory.wf (State.mem (State.stopDie s f)) = true := by
  unfold State.stopDie
  repeat' with_reducible (first | assumption | refine memOk_fst (by assumption) ?_ | apply State.modCore_memOk | apply State.modDie_memOk | apply State.modWit_memOk | apply State.testLeaves_memOk | apply foldl_memOk | apply foldl_fst_memOk | dsimp only | split | intro)

theorem State.selfFence_memOk (s : State) (f : Nat) (hs : Memory.wf (State.mem s) = true) : Memory.wf (State.mem (State.selfFence s f)) = true := by
  unfold State.selfFence
  repeat' with_reducible (first | assumption | refine memOk_fst (by assumption) ?_ | apply State.modWit_memOk | apply State.stopDie_memOk | apply foldl_memOk | apply foldl_fst_memOk | dsimp only | split | intro)

theorem State.fence_memOk (s : State) (f guardian n : Nat) (hs : Memory.wf (State.mem s) = true) : Memory.wf (State.mem (State.fence s f guardian n)) = true := by
  unfold State.fence
  repeat' with_reducible (first | assumption | refine memOk_fst (by assumption) ?_ | apply State.modHub_memOk | apply State.late_memOk | apply State.event_memOk | apply State.endOn_memOk | apply State.discard_memOk | apply State.stopDie_memOk | apply foldl_memOk | apply foldl_fst_memOk | dsimp only | split | intro)

theorem State.readmit_memOk (s : State) (f n : Nat) (hs : Memory.wf (State.mem s) = true) : Memory.wf (State.mem (State.readmit s f n)) = true := by
  unfold State.readmit
  repeat' with_reducible (first | assumption | refine memOk_fst (by assumption) ?_ | apply State.modDie_memOk | apply State.modHub_memOk | apply State.event_memOk | apply foldl_memOk | apply foldl_fst_memOk | dsimp only | split | intro)

theorem State.reroute_memOk (s : State) (old : Hub) (out : List Nat) (hs : Memory.wf (State.mem s) = true) : Memory.wf (State.mem (State.reroute s old out)) = true := by
  unfold State.reroute
  repeat' with_reducible (first | assumption | refine memOk_fst (by assumption) ?_ | apply State.modHub_memOk | apply State.modHart_memOk | apply foldl_memOk | apply foldl_fst_memOk | dsimp only | split | intro)

theorem State.roundEnd_memOk (s : State) (hs : Memory.wf (State.mem s) = true) : Memory.wf (State.mem (State.roundEnd s)) = true := by
  unfold State.roundEnd
  repeat' with_reducible (first | assumption | refine memOk_fst (by assumption) ?_ | apply State.modHub_memOk | apply State.pend_memOk | apply State.loseReqs_memOk | apply State.modWit_memOk | apply State.selfFence_memOk | apply State.fence_memOk | apply State.readmit_memOk | apply State.reroute_memOk | apply foldl_memOk | apply foldl_fst_memOk | dsimp only | split | intro)

theorem State.testEnds_memOk (s : State) (p : Nat) (res : Word) (fail : Bool) (hs : Memory.wf (State.mem s) = true) : Memory.wf (State.mem (State.testEnds s p res fail)) = true := by
  unfold State.testEnds
  repeat' with_reducible (first | assumption | refine memOk_fst (by assumption) ?_ | apply State.modCore_memOk | apply State.modHub_memOk | apply State.modHart_memOk | apply State.pend_memOk | apply State.event_memOk | apply State.testLeaves_memOk | apply foldl_memOk | apply foldl_fst_memOk | dsimp only | split | intro)

theorem State.hopFailure_memOk (s : State) (d src g : Nat) (hs : Memory.wf (State.mem s) = true) : Memory.wf (State.mem (State.hopFailure s d src g)) = true := by
  unfold State.hopFailure
  repeat' with_reducible (first | assumption | refine memOk_fst (by assumption) ?_ | apply State.modDie_memOk | apply State.modWit_memOk | apply foldl_memOk | apply foldl_fst_memOk | dsimp only | split | intro)

theorem State.checkFailure_memOk (s : State) (hs : Memory.wf (State.mem s) = true) : Memory.wf (State.mem (State.checkFailure s)) = true := by
  unfold State.checkFailure
  repeat' with_reducible (first | assumption | refine memOk_fst (by assumption) ?_ | apply State.hopFailure_memOk | apply foldl_memOk | apply foldl_fst_memOk | dsimp only | split | intro)

theorem State.put_memOk (s : State) (kind dest status : Nat) (data : List Byte) (hs : Memory.wf (State.mem s) = true) : Memory.wf (State.mem (State.put s kind dest status data)) = true := by
  unfold State.put
  repeat' with_reducible (first | assumption | refine memOk_fst (by assumption) ?_ | apply State.modHub_memOk | apply State.after_memOk | apply foldl_memOk | apply foldl_fst_memOk | dsimp only | split | intro)

theorem State.answer_memOk (s : State) (qp status : Nat) (data : List Byte) (hs : Memory.wf (State.mem s) = true) : Memory.wf (State.mem (State.answer s qp status data)) = true := by
  unfold State.answer
  repeat' with_reducible (first | assumption | refine memOk_fst (by assumption) ?_ | apply State.modHub_memOk | apply State.put_memOk | apply foldl_memOk | apply foldl_fst_memOk | dsimp only | split | intro)

theorem State.sendHeld_memOk (s : State) (hs : Memory.wf (State.mem s) = true) : Memory.wf (State.mem (State.sendHeld s)) = true := by
  unfold State.sendHeld
  repeat' with_reducible (first | assumption | refine memOk_fst (by assumption) ?_ | apply State.modHub_memOk | apply foldl_memOk | apply foldl_fst_memOk | dsimp only | split | intro)

theorem State.modQp_memOk (s : State) (n : Nat) (f : QPair → QPair) (hs : Memory.wf (State.mem s) = true) : Memory.wf (State.mem (State.modQp s n f)) = true := by
  unfold State.modQp
  repeat' with_reducible (first | assumption | refine memOk_fst (by assumption) ?_ | apply State.modHub_memOk | apply foldl_memOk | apply foldl_fst_memOk | dsimp only | split | intro)

theorem State.refuseAccess_memOk (s : State) (qp : Nat) (hs : Memory.wf (State.mem s) = true) : Memory.wf (State.mem (State.refuseAccess s qp)) = true := by
  unfold State.refuseAccess
  repeat' with_reducible (first | assumption | refine memOk_fst (by assumption) ?_ | apply State.modHub_memOk | apply State.answer_memOk | apply State.modQp_memOk | apply foldl_memOk | apply foldl_fst_memOk | dsimp only | split | intro)

theorem State.refuseOp_memOk (s : State) (qp : Nat) (hs : Memory.wf (State.mem s) = true) : Memory.wf (State.mem (State.refuseOp s qp)) = true := by
  unfold State.refuseOp
  repeat' with_reducible (first | assumption | refine memOk_fst (by assumption) ?_ | apply State.modHub_memOk | apply State.answer_memOk | apply State.modQp_memOk | apply foldl_memOk | apply foldl_fst_memOk | dsimp only | split | intro)

theorem State.refuseInvalid_memOk (s : State) (qp : Nat) (hs : Memory.wf (State.mem s) = true) : Memory.wf (State.mem (State.refuseInvalid s qp)) = true := by
  unfold State.refuseInvalid
  repeat' with_reducible (first | assumption | refine memOk_fst (by assumption) ?_ | apply State.modHub_memOk | apply State.answer_memOk | apply foldl_memOk | apply foldl_fst_memOk | dsimp only | split | intro)

theorem State.portBytes_memOk (s : State) (w : Who) (acc : Acc) (k : Nat) (va : VAddr) (n : Nat) (hs : Memory.wf s.mem = true) :
    Memory.wf (State.mem (s.portBytes w acc k va n).1) = true := by
  induction k generalizing s va n with
  | zero => exact hs
  | succ k ih =>
    unfold State.portBytes
    split
    · exact hs
    · split
      · exact memOk_fst ‹_› (State.xlateSpan_memOk _ _ _ _ _ _ hs)
      · rename_i t l e
        have ht := memOk_fst e (State.xlateSpan_memOk _ _ _ _ _ _ hs)
        split <;> exact memOk_fst ‹_› (ih t _ _ ht)

theorem State.portSpan_memOk (s : State) (rkey : BitVec 32) (off n : Nat) (acc : Acc) (hs : Memory.wf (State.mem s) = true) : Memory.wf (State.mem (State.portSpan s rkey off n acc).1) = true := by
  unfold State.portSpan
  repeat' with_reducible (first | assumption | refine memOk_fst (by assumption) ?_ | apply State.portBytes_memOk | apply foldl_memOk | apply foldl_fst_memOk | dsimp only | split | intro)

theorem State.portPut_memOk (s : State) (l : List XOk) (b : List Byte) (hs : Memory.wf (State.mem s) = true) : Memory.wf (State.mem (State.portPut s l b)) = true := by
  unfold State.portPut
  repeat' with_reducible (first | assumption | refine memOk_fst (by assumption) ?_ | apply State.commit_memOk | apply foldl_memOk | apply foldl_fst_memOk | dsimp only | split | intro)

theorem State.hostGo_memOk (s : State) (qp : Nat) (m : HostMsg) (l : List XOk) (hs : Memory.wf (State.mem s) = true) : Memory.wf (State.mem (State.hostGo s qp m l).1) = true := by
  unfold State.hostGo
  repeat' with_reducible (first | assumption | refine memOk_fst (by assumption) ?_ | apply State.drawn_memOk | apply State.verify_memOk | apply State.breakLinks_memOk | apply State.answer_memOk | apply State.refuseOp_memOk | apply State.refuseInvalid_memOk | apply State.portPut_memOk | apply foldl_memOk | apply foldl_fst_memOk | dsimp only | split | intro)

theorem State.hostDo_memOk (s : State) (qp : Nat) (m : HostMsg) (hs : Memory.wf (State.mem s) = true) : Memory.wf (State.mem (State.hostDo s qp m).1) = true := by
  unfold State.hostDo
  repeat' with_reducible (first | assumption | refine memOk_fst (by assumption) ?_ | apply State.refuseAccess_memOk | apply State.refuseInvalid_memOk | apply State.portSpan_memOk | apply State.hostGo_memOk | apply foldl_memOk | apply foldl_fst_memOk | dsimp only | split | intro)

theorem State.serveQp_memOk (qp k : Nat) (s : State) (hs : Memory.wf s.mem = true) : Memory.wf (State.mem (State.serveQp qp k s)) = true := by
  induction k generalizing s with
  | zero => exact hs
  | succ k ih =>
    unfold State.serveQp
    split
    · exact hs
    · split
      · exact ih _ (State.modQp_memOk _ _ _ (memOk_fst ‹_› (State.hostDo_memOk _ _ _ hs)))
      · exact State.modQp_memOk _ _ _ (memOk_fst ‹_› (State.hostDo_memOk _ _ _ hs))

theorem State.portRound_memOk (s : State) (hs : Memory.wf s.mem = true) : Memory.wf (State.mem s.portRound) = true := by
  unfold State.portRound
  refine State.sendHeld_memOk _ (foldl_memOk hs (fun t a h => ?_))
  split
  · exact h
  · exact State.serveQp_memOk _ _ _ h

theorem State.ptp_memOk (s : State) (amount : Int) (hs : Memory.wf (State.mem s) = true) : Memory.wf (State.mem (State.ptp s amount)) = true := by
  unfold State.ptp
  repeat' with_reducible (first | assumption | refine memOk_fst (by assumption) ?_ | apply State.modHub_memOk | apply foldl_memOk | apply foldl_fst_memOk | dsimp only | split | intro)

theorem State.modEvac_memOk (s : State) (f : Evac → Evac) (hs : Memory.wf (State.mem s) = true) : Memory.wf (State.mem (State.modEvac s f)) = true := by
  unfold State.modEvac
  repeat' with_reducible (first | assumption | refine memOk_fst (by assumption) ?_ | apply State.modHub_memOk | apply foldl_memOk | apply foldl_fst_memOk | dsimp only | split | intro)

theorem State.service_memOk (s : State) (v : Nat) (hs : Memory.wf (State.mem s) = true) : Memory.wf (State.mem (State.service s v)) = true := by
  unfold State.service
  repeat' with_reducible (first | assumption | refine memOk_fst (by assumption) ?_ | apply State.modHub_memOk | apply foldl_memOk | apply foldl_fst_memOk | dsimp only | split | intro)

theorem State.freezeAll_memOk (s : State) (b : Bool) (hs : Memory.wf (State.mem s) = true) : Memory.wf (State.mem (State.freezeAll s b)) = true := by
  unfold State.freezeAll
  repeat' with_reducible (first | assumption | refine memOk_fst (by assumption) ?_ | apply State.writeSched_memOk | apply foldl_memOk | apply foldl_fst_memOk | dsimp only | split | intro)

theorem State.evacGo_memOk (s : State) (hs : Memory.wf (State.mem s) = true) : Memory.wf (State.mem (State.evacGo s)) = true := by
  unfold State.evacGo
  repeat' with_reducible (first | assumption | refine memOk_fst (by assumption) ?_ | apply State.modEvac_memOk | apply State.freezeAll_memOk | apply foldl_memOk | apply foldl_fst_memOk | dsimp only | split | intro)

theorem State.evacAbort_memOk (s : State) (hs : Memory.wf (State.mem s) = true) : Memory.wf (State.mem (State.evacAbort s)) = true := by
  unfold State.evacAbort
  repeat' with_reducible (first | assumption | refine memOk_fst (by assumption) ?_ | apply State.modEvac_memOk | apply State.service_memOk | apply State.freezeAll_memOk | apply foldl_memOk | apply foldl_fst_memOk | dsimp only | split | intro)

theorem State.writeEvac_memOk (s : State) (w : Word) (hs : Memory.wf (State.mem s) = true) : Memory.wf (State.mem (State.writeEvac s w)) = true := by
  unfold State.writeEvac
  repeat' with_reducible (first | assumption | refine memOk_fst (by assumption) ?_ | apply State.modEvac_memOk | apply State.evacGo_memOk | apply State.evacAbort_memOk | apply foldl_memOk | apply foldl_fst_memOk | dsimp only | split | intro)

theorem State.evacFail_memOk (s : State) (err : Nat) (hs : Memory.wf (State.mem s) = true) : Memory.wf (State.mem (State.evacFail s err)) = true := by
  unfold State.evacFail
  repeat' with_reducible (first | assumption | refine memOk_fst (by assumption) ?_ | apply State.modEvac_memOk | apply State.service_memOk | apply foldl_memOk | apply foldl_fst_memOk | dsimp only | split | intro)

theorem State.suspendAll_memOk (s : State) (hs : Memory.wf (State.mem s) = true) : Memory.wf (State.mem (State.suspendAll s)) = true := by
  unfold State.suspendAll
  repeat' with_reducible (first | assumption | refine memOk_fst (by assumption) ?_ | apply State.suspend_memOk | apply State.testEnds_memOk | apply foldl_memOk | apply foldl_fst_memOk | dsimp only | split | intro)

theorem State.abortTests_memOk (s : State) (hs : Memory.wf (State.mem s) = true) : Memory.wf (State.mem (State.abortTests s)) = true := by
  unfold State.abortTests
  repeat' with_reducible (first | assumption | refine memOk_fst (by assumption) ?_ | apply State.testEnds_memOk | apply foldl_memOk | apply foldl_fst_memOk | dsimp only | split | intro)

theorem State.writeLocal_memOk (s : State) (a : Nat) (b : List Byte) (hs : Memory.wf (State.mem s) = true) : Memory.wf (State.mem (State.writeLocal s a b)) = true := by
  unfold State.writeLocal
  repeat' with_reducible (first | assumption | refine memOk_fst (by assumption) ?_ | apply State.commit_memOk | apply foldl_memOk | apply foldl_fst_memOk | dsimp only | split | intro)

theorem State.writeImage_memOk (s : State) (hs : Memory.wf (State.mem s) = true) : Memory.wf (State.mem (State.writeImage s)) = true := by
  unfold State.writeImage
  repeat' with_reducible (first | assumption | refine memOk_fst (by assumption) ?_ | apply State.writeLocal_memOk | apply foldl_memOk | apply foldl_fst_memOk | dsimp only | split | intro)

theorem State.copyOut_memOk (s : State) (hs : Memory.wf (State.mem s) = true) : Memory.wf (State.mem (State.copyOut s)) = true := by
  unfold State.copyOut
  repeat' with_reducible (first | assumption | refine memOk_fst (by assumption) ?_ | apply State.verify_memOk | apply State.put_memOk | apply foldl_memOk | apply foldl_fst_memOk | dsimp only | split | intro)

theorem State.adopt_memOk (s : State) (hs : Memory.wf (State.mem s) = true) : Memory.wf (State.mem (State.adopt s)) = true := by
  unfold State.adopt
  repeat' with_reducible (first | assumption | refine memOk_fst (by assumption) ?_ | apply State.put_memOk | apply State.modEvac_memOk | apply foldl_memOk | apply foldl_fst_memOk | dsimp only | split | intro)

theorem State.writeRx_memOk (s : State) (w : Word) (hs : Memory.wf (State.mem s) = true) : Memory.wf (State.mem (State.writeRx s w)) = true := by
  unfold State.writeRx
  repeat' with_reducible (first | assumption | refine memOk_fst (by assumption) ?_ | apply State.modEvac_memOk | apply State.adopt_memOk | apply foldl_memOk | apply foldl_fst_memOk | dsimp only | split | intro)

theorem State.adoptDie_memOk (s : State) (d rimg : Nat) (hs : Memory.wf (State.mem s) = true) : Memory.wf (State.mem (State.adoptDie s d rimg)) = true := by
  unfold State.adoptDie
  repeat' with_reducible (first | assumption | refine memOk_fst (by assumption) ?_ | apply State.modDie_memOk | apply foldl_memOk | apply foldl_fst_memOk | dsimp only | split | intro)

theorem State.adoptRing_memOk (s : State) (d : Nat) (hs : Memory.wf (State.mem s) = true) : Memory.wf (State.mem (State.adoptRing s d)) = true := by
  unfold State.adoptRing
  repeat' with_reducible (first | assumption | refine memOk_fst (by assumption) ?_ | apply State.modDie_memOk | apply State.drop_memOk | apply State.xlateSpan_memOk | apply foldl_memOk | apply foldl_fst_memOk | dsimp only | split | intro)

theorem State.takeOver_memOk (s : State) (hs : Memory.wf (State.mem s) = true) : Memory.wf (State.mem (State.takeOver s)) = true := by
  unfold State.takeOver
  repeat' with_reducible (first | assumption | refine memOk_fst (by assumption) ?_ | apply State.modHub_memOk | apply State.keepTlb_memOk | apply State.modEvac_memOk | apply State.freezeAll_memOk | apply State.adoptDie_memOk | apply State.adoptRing_memOk | apply foldl_memOk | apply foldl_fst_memOk | dsimp only | split | intro)

theorem State.claimed_memOk (s : State) (grant : Bool) (hs : Memory.wf (State.mem s) = true) : Memory.wf (State.mem (State.claimed s grant)) = true := by
  unfold State.claimed
  repeat' with_reducible (first | assumption | refine memOk_fst (by assumption) ?_ | apply State.grant_memOk | apply State.modEvac_memOk | apply State.takeOver_memOk | apply foldl_memOk | apply foldl_fst_memOk | dsimp only | split | intro)

theorem State.restart_memOk (s : State) (powered : Bool) : Memory.wf (State.mem (s.restart powered)) = true := rfl

theorem State.bootHalt_memOk (s : State) (stage cause : Nat) (hs : Memory.wf (State.mem s) = true) : Memory.wf (State.mem (State.bootHalt s stage cause)) = true := by
  unfold State.bootHalt
  repeat' with_reducible (first | assumption | refine memOk_fst (by assumption) ?_ | apply State.modHub_memOk | apply foldl_memOk | apply foldl_fst_memOk | dsimp only | split | intro)

theorem State.bootFirmware_memOk (s : State) (hs : Memory.wf (State.mem s) = true) : Memory.wf (State.mem (State.bootFirmware s)) = true := by
  unfold State.bootFirmware State.bootHalt
  repeat' with_reducible (first | assumption | apply State.modHub_memOk | apply State.drawn_memOk | dsimp only | split)

theorem State.boot_memOk (s : State) (hs : Memory.wf (State.mem s) = true) : Memory.wf (State.mem (State.boot s)) = true := by
  unfold State.boot State.bootHalt
  repeat' with_reducible (first | assumption | apply State.bootFirmware_memOk | refine memOk_fst (by assumption) ?_ | apply State.modHub_memOk | apply State.drop_memOk | apply foldl_memOk | apply foldl_fst_memOk | dsimp only | split | intro)

theorem State.board_memOk (s : State) (hs : Memory.wf (State.mem s) = true) : Memory.wf (State.mem (State.board s)) = true := by
  unfold State.board
  repeat' with_reducible (first | assumption | refine memOk_fst (by assumption) ?_ | apply State.modHub_memOk | apply foldl_memOk | apply foldl_fst_memOk | dsimp only | split | intro)

theorem State.measureMap_memOk (s : State) (hs : Memory.wf (State.mem s) = true) : Memory.wf (State.mem (State.measureMap s)) = true := by
  unfold State.measureMap
  repeat' with_reducible (first | assumption | refine memOk_fst (by assumption) ?_ | apply State.modHub_memOk | apply foldl_memOk | apply foldl_fst_memOk | dsimp only | split | intro)

theorem State.measure_memOk (s : State) (n : Nat) (digest : List Byte) (hs : Memory.wf (State.mem s) = true) : Memory.wf (State.mem (State.measure s n digest)) = true := by
  unfold State.measure
  repeat' with_reducible (first | assumption | refine memOk_fst (by assumption) ?_ | apply State.modHub_memOk | apply foldl_memOk | apply foldl_fst_memOk | dsimp only | split | intro)

theorem State.spdm_memOk (s : State) (code : Nat) (pre : List Byte) (hs : Memory.wf (State.mem s) = true) : Memory.wf (State.mem (State.spdm s code pre)) = true := by
  unfold State.spdm
  repeat' with_reducible (first | assumption | refine memOk_fst (by assumption) ?_ | apply State.drawn_memOk | apply State.put_memOk | apply State.answer_memOk | apply foldl_memOk | apply foldl_fst_memOk | dsimp only | split | intro)

theorem State.xltInv_memOk (s : State) (b : Nat) (w : Word) (hs : Memory.wf (State.mem s) = true) : Memory.wf (State.mem (State.xltInv s b w)) = true := by
  unfold State.xltInv
  repeat' with_reducible (first | assumption | refine memOk_fst (by assumption) ?_ | apply State.modDie_memOk | apply State.modHub_memOk | apply State.keepTlb_memOk | apply foldl_memOk | apply foldl_fst_memOk | dsimp only | split | intro)

theorem State.invDone_memOk (s : State) (b : Nat) (hs : Memory.wf (State.mem s) = true) : Memory.wf (State.mem (State.invDone s b)) = true := by
  unfold State.invDone
  repeat' with_reducible (first | assumption | refine memOk_fst (by assumption) ?_ | apply State.modCore_memOk | apply State.modDie_memOk | apply State.modHub_memOk | apply foldl_memOk | apply foldl_fst_memOk | dsimp only | split | intro)

theorem State.writeIlv_memOk (s : State) (w : Word) (hs : Memory.wf (State.mem s) = true) : Memory.wf (State.mem (State.writeIlv s w)) = true := by
  unfold State.writeIlv
  repeat' with_reducible (first | assumption | refine memOk_fst (by assumption) ?_ | apply State.modHub_memOk | apply foldl_memOk | apply foldl_fst_memOk | dsimp only | split | intro)

theorem State.writeCtxbase_memOk (s : State) (b : Nat) (w : Word) (hs : Memory.wf (State.mem s) = true) : Memory.wf (State.mem (State.writeCtxbase s b w)) = true := by
  unfold State.writeCtxbase
  repeat' with_reducible (first | assumption | refine memOk_fst (by assumption) ?_ | apply State.modDie_memOk | apply State.modHub_memOk | apply State.measureMap_memOk | apply foldl_memOk | apply foldl_fst_memOk | dsimp only | split | intro)

theorem State.writeDie_memOk (s : State) (d off : Nat) (w : Word) (hs : Memory.wf (State.mem s) = true) : Memory.wf (State.mem (State.writeDie s d off w)) = true := by
  unfold State.writeDie
  repeat' with_reducible (first | assumption | refine memOk_fst (by assumption) ?_ | apply State.modDie_memOk | apply State.writeBoot_memOk | apply State.writeSched_memOk | apply State.writeSaveStat_memOk | apply State.modWit_memOk | apply State.xltInv_memOk | apply State.writeCtxbase_memOk | apply foldl_memOk | apply foldl_fst_memOk | dsimp only | split | intro)

theorem State.writeHub_memOk (s : State) (off : Nat) (w : Word) (hs : Memory.wf (State.mem s) = true) : Memory.wf (State.mem (State.writeHub s off w)) = true := by
  unfold State.writeHub
  repeat' with_reducible (first | assumption | refine memOk_fst (by assumption) ?_ | apply State.modHub_memOk | apply State.commit_memOk | apply State.modWit_memOk | apply State.writeEvac_memOk | apply State.writeRx_memOk | apply State.xltInv_memOk | apply State.writeIlv_memOk | apply State.writeCtxbase_memOk | apply foldl_memOk | apply foldl_fst_memOk | dsimp only | split | intro)

theorem State.regWrite_memOk (s : State) (b off : Nat) (w : Word) (hs : Memory.wf (State.mem s) = true) : Memory.wf (State.mem (State.regWrite s b off w)) = true := by
  unfold State.regWrite
  repeat' with_reducible (first | assumption | refine memOk_fst (by assumption) ?_ | apply State.writeDie_memOk | apply State.writeHub_memOk | apply foldl_memOk | apply foldl_fst_memOk | dsimp only | split | intro)

theorem State.bcastWrite_memOk (s : State) (off : Nat) (w : Word) (hs : Memory.wf (State.mem s) = true) : Memory.wf (State.mem (State.bcastWrite s off w)) = true := by
  unfold State.bcastWrite
  repeat' with_reducible (first | assumption | refine memOk_fst (by assumption) ?_ | apply State.writeDie_memOk | apply foldl_memOk | apply foldl_fst_memOk | dsimp only | split | intro)

theorem State.ctlWrite_memOk (s : State) (a : Nat) (b : List Byte) (hs : Memory.wf (State.mem s) = true) : Memory.wf (State.mem (State.ctlWrite s a b)) = true := by
  unfold State.ctlWrite
  repeat' with_reducible (first | assumption | refine memOk_fst (by assumption) ?_ | apply State.put_memOk | apply State.writeLocal_memOk | apply State.boot_memOk | apply State.measure_memOk | apply State.regWrite_memOk | apply State.bcastWrite_memOk | apply foldl_memOk | apply foldl_fst_memOk | dsimp only | split | intro)

theorem State.noteSeen_memOk (s : State) (ks : List Nat) (hs : Memory.wf (State.mem s) = true) : Memory.wf (State.mem (State.noteSeen s ks)) = true := by
  unfold State.noteSeen
  repeat' with_reducible (first | assumption | refine memOk_fst (by assumption) ?_ | apply State.modCur_memOk | apply foldl_memOk | apply foldl_fst_memOk | dsimp only | split | intro)

theorem State.noteWrites_memOk (s s0 : State) (dev acq : Bool) (hs : Memory.wf (State.mem s) = true) (hs0 : Memory.wf (State.mem s0) = true) : Memory.wf (State.mem (State.noteWrites s s0 dev acq)) = true := by
  unfold State.noteWrites
  repeat' with_reducible (first | assumption | refine memOk_fst (by assumption) ?_ | apply State.modCur_memOk | apply foldl_memOk | apply foldl_fst_memOk | dsimp only | split | intro)

theorem State.bump_memOk (s : State) (h : Hart) (f : LM) (extra : Nat) (hs : Memory.wf s.mem = true) : Memory.wf (State.mem (s.bump h f extra)) = true := by
  unfold State.bump; split
  · exact State.wrA_memOk _ _ _ hs
  · exact hs

theorem State.memTrap_memOk (s : State) (cause : Nat) (va : VAddr) (acc : Acc) (n level : Nat) (unk : Bool) (hs : Memory.wf (State.mem s) = true) : Memory.wf (State.mem (State.memTrap s cause va acc n level unk)) = true := by
  unfold State.memTrap
  repeat' with_reducible (first | assumption | refine memOk_fst (by assumption) ?_ | apply State.raise_memOk | apply foldl_memOk | apply foldl_fst_memOk | dsimp only | split | intro)

theorem State.markSent_memOk (s : State) (n : Nat) (o : Option XOk) (hs : Memory.wf (State.mem s) = true) : Memory.wf (State.mem (State.markSent s n o)) = true := by
  unfold State.markSent
  repeat' with_reducible (first | assumption | refine memOk_fst (by assumption) ?_ | apply foldl_memOk | apply foldl_fst_memOk | dsimp only | split | intro)

theorem State.scalar_memOk (s : State) (h : Hart) (va : VAddr) (n : Nat) (acc : Acc) (k : State → List XOk → List Byte → State) (hs : Memory.wf s.mem = true)
    (hk : ∀ t l b, Memory.wf (State.mem t) = true → Memory.wf (State.mem (k t l b)) = true) : Memory.wf (State.mem (s.scalar h va n acc k)) = true := by
  unfold State.scalar
  repeat' with_reducible (first | assumption | apply hk | refine memOk_fst (by assumption) ?_ | apply State.markSent_memOk | apply State.xlateSpan_memOk | apply State.memTrap_memOk | apply State.stall_memOk | apply State.modCur_memOk | dsimp only | split | intro)

theorem State.sendAll_memOk (s : State) (bs : List (Nat × Byte)) (marked : Nat → Bool) (hs : Memory.wf (State.mem s) = true) : Memory.wf (State.mem (State.sendAll s bs marked)) = true := by
  unfold State.sendAll
  repeat' with_reducible (first | assumption | refine memOk_fst (by assumption) ?_ | apply State.modCur_memOk | apply State.send_memOk | apply foldl_memOk | apply foldl_fst_memOk | dsimp only | split | intro)

theorem State.breakAway_memOk (s : State) (l : List XOk) (hs : Memory.wf (State.mem s) = true) : Memory.wf (State.mem (State.breakAway s l)) = true := by
  unfold State.breakAway
  repeat' with_reducible (first | assumption | refine memOk_fst (by assumption) ?_ | apply State.breakLinks_memOk | apply foldl_memOk | apply foldl_fst_memOk | dsimp only | split | intro)

theorem State.putBytes_memOk (s : State) (l : List XOk) (bs : List Byte) (hs : Memory.wf (State.mem s) = true) : Memory.wf (State.mem (State.putBytes s l bs)) = true := by
  unfold State.putBytes
  repeat' with_reducible (first | assumption | refine memOk_fst (by assumption) ?_ | apply State.send_memOk | apply State.regWrite_memOk | apply State.bcastWrite_memOk | apply State.sendAll_memOk | apply State.breakAway_memOk | apply foldl_memOk | apply foldl_fst_memOk | dsimp only | split | intro)

theorem State.uncountOf_memOk (s : State) (hart : Option (Nat × Nat)) (lo hi n : Nat) (hs : Memory.wf (State.mem s) = true) : Memory.wf (State.mem (State.uncountOf s hart lo hi n)) = true := by
  unfold State.uncountOf
  repeat' with_reducible (first | assumption | refine memOk_fst (by assumption) ?_ | apply State.modHart_memOk | apply State.modGang_memOk | apply foldl_memOk | apply foldl_fst_memOk | dsimp only | split | intro)

theorem State.homeMoment_memOk (s : State) (id : Nat) (hs : Memory.wf s.mem = true) : Memory.wf (State.mem (s.homeMoment id)) = true := by
  unfold State.homeMoment
  split
  · exact hs
  · rename_i w _
    split
    · exact hs
    · exact State.uncountOf_memOk _ _ _ _ _ (State.commit_memOk s (s.landing w) w.mark none w.keep w.cov hs)

theorem State.writeFails_memOk (s : State) (d src id : Nat) (hs : Memory.wf (State.mem s) = true) : Memory.wf (State.mem (State.writeFails s d src id)) = true := by
  unfold State.writeFails
  repeat' with_reducible (first | assumption | refine memOk_fst (by assumption) ?_ | apply State.hopFailure_memOk | apply foldl_memOk | apply foldl_fst_memOk | dsimp only | split | intro)

theorem State.peerPut_memOk (s : State) (bs : List (Nat × Byte)) (mark : Bool) (hs : Memory.wf (State.mem s) = true) : Memory.wf (State.mem (State.peerPut s bs mark)) = true := by
  unfold State.peerPut
  repeat' with_reducible (first | assumption | refine memOk_fst (by assumption) ?_ | apply State.verify_memOk | apply State.breakLinks_memOk | apply State.commit_memOk | apply State.put_memOk | apply State.ctlWrite_memOk | apply State.homeMoment_memOk | apply State.writeFails_memOk | apply foldl_memOk | apply foldl_fst_memOk | dsimp only | split | intro)

theorem State.peerWrite_memOk (s : State) (hs : Memory.wf (State.mem s) = true) : Memory.wf (State.mem (State.peerWrite s)) = true := by
  unfold State.peerWrite
  repeat' with_reducible (first | assumption | refine memOk_fst (by assumption) ?_ | apply State.verify_memOk | apply State.breakLinks_memOk | apply State.commit_memOk | apply State.put_memOk | apply State.ctlWrite_memOk | apply State.homeMoment_memOk | apply State.writeFails_memOk | apply State.peerPut_memOk | apply foldl_memOk | apply foldl_fst_memOk | dsimp only | split | intro)

theorem State.peerRmw_memOk (s : State) (k n : Nat) (hs : Memory.wf (State.mem s) = true) : Memory.wf (State.mem (State.peerRmw s k n)) = true := by
  unfold State.peerRmw
  repeat' with_reducible (first | assumption | refine memOk_fst (by assumption) ?_ | apply State.verify_memOk | apply State.breakLinks_memOk | apply State.put_memOk | apply State.homeMoment_memOk | apply State.writeFails_memOk | apply State.peerPut_memOk | apply State.peerWrite_memOk | apply foldl_memOk | apply foldl_fst_memOk | dsimp only | split | intro)

theorem State.peerRequest_memOk (s : State) (hs : Memory.wf (State.mem s) = true) : Memory.wf (State.mem (State.peerRequest s)) = true := by
  unfold State.peerRequest
  repeat' with_reducible (first | assumption | refine memOk_fst (by assumption) ?_ | apply State.put_memOk | apply State.homeMoment_memOk | apply State.writeFails_memOk | apply State.peerWrite_memOk | apply State.peerRmw_memOk | apply foldl_memOk | apply foldl_fst_memOk | dsimp only | split | intro)

theorem State.domainMoment_memOk (s : State) (id : Nat) (hs : Memory.wf (State.mem s) = true) : Memory.wf (State.mem (State.domainMoment s id)) = true := by
  unfold State.domainMoment
  repeat' with_reducible (first | assumption | refine memOk_fst (by assumption) ?_ | apply State.after_memOk | apply State.uncountOf_memOk | apply foldl_memOk | apply foldl_fst_memOk | dsimp only | split | intro)

theorem State.systemMoment_memOk (s : State) (id : Nat) (hs : Memory.wf (State.mem s) = true) : Memory.wf (State.mem (State.systemMoment s id)) = true := by
  unfold State.systemMoment
  repeat' with_reducible (first | assumption | refine memOk_fst (by assumption) ?_ | apply State.uncountOf_memOk | apply foldl_memOk | apply foldl_fst_memOk | dsimp only | split | intro)

theorem State.vxlate_memOk (s : State) (w : Who) (va : VAddr) (n : Nat) (acc : Acc) (hs : Memory.wf (State.mem s) = true) : Memory.wf (State.mem (State.vxlate s w va n acc).1) = true := by
  unfold State.vxlate
  repeat' with_reducible (first | assumption | refine memOk_fst (by assumption) ?_ | apply State.drawn_memOk | apply State.xlateSpan_memOk | apply foldl_memOk | apply foldl_fst_memOk | dsimp only | split | intro)

theorem State.plan_memOk (w : Who) (acc : Acc) (ord : Bool) (align : Nat) (l : List El) (s : State) (skip : Nat) (hs : Memory.wf s.mem = true) :
    Memory.wf (State.mem (State.plan w acc ord align l s skip).1) = true := by
  induction l generalizing s skip with
  | nil => exact hs
  | cons x l ih =>
    unfold State.plan
    split
    · exact ih _ _ hs
    · have hq : Memory.wf (State.mem (if x.va.toNat % align ≠ 0 then ((s, .error (x.va, { cause := 0x21 })) : State × Except (VAddr × XFault) (List XOk))
          else s.vxlate w x.va x.nb acc).1) = true := by
        split
        · exact hs
        · exact State.vxlate_memOk _ _ _ _ _ hs
      dsimp only
      split
      · exact ih _ _ hq
      · split
        · exact hq
        · exact ih _ _ hq

theorem State.readDone_memOk (s : State) (items : List Item) (hs : Memory.wf (State.mem s) = true) : Memory.wf (State.mem (State.readDone s items)) = true := by
  unfold State.readDone
  repeat' with_reducible (first | assumption | refine memOk_fst (by assumption) ?_ | apply State.stall_memOk | apply State.drawn_memOk | apply State.event_memOk | apply State.verify_memOk | apply State.noteSeen_memOk | apply foldl_memOk | apply foldl_fst_memOk | dsimp only | split | intro)

theorem State.farAsk_memOk (s : State) (h : Hart) (l : List XOk) (hs : Memory.wf s.mem = true) {t : State} (e : s.farAsk h l = some t) : Memory.wf t.mem = true := by
  unfold State.farAsk at e
  dsimp only at e
  split at e
  · exact Option.some.inj e ▸ State.stall_memOk _ hs
  · cases e

theorem State.vFault_memOk (s : State) (h : Hart) (j : VJob) (acc : Acc) (items : List Item) (left : List (Nat × Nat)) (hs : Memory.wf (State.mem s) = true) : Memory.wf (State.mem (State.vFault s h j acc items left)) = true := by
  unfold State.vFault
  repeat' with_reducible (first | assumption | refine memOk_fst (by assumption) ?_ | apply State.modCur_memOk | apply State.after_memOk | apply State.pushRecs_memOk | apply foldl_memOk | apply foldl_fst_memOk | dsimp only | split | intro)

theorem State.deliver_memOk (s : State) (q : Nat) (proto : Entry) (fN : Nat) (fill : Nat → Entry → Entry) (fail : Bool) (hs : Memory.wf (State.mem s) = true) : Memory.wf (State.mem (State.deliver s q proto fN fill fail)) = true := by
  unfold State.deliver
  repeat' with_reducible (first | assumption | refine memOk_fst (by assumption) ?_ | apply State.modCur_memOk | apply State.setQueue_memOk | apply foldl_memOk | apply foldl_fst_memOk | dsimp only | split | intro)

theorem State.deq_memOk (s : State) (q n : Nat) (hs : Memory.wf (State.mem s) = true) : Memory.wf (State.mem (State.deq s q n)) = true := by
  unfold State.deq
  repeat' with_reducible (first | assumption | refine memOk_fst (by assumption) ?_ | apply State.setQueue_memOk | apply foldl_memOk | apply foldl_fst_memOk | dsimp only | split | intro)

theorem State.keepReads_memOk (s s0 : State) (h : Hart) (q : Nat) (together : Bool) (raws : List VRaw) (hs : Memory.wf (State.mem s) = true) (hs0 : Memory.wf (State.mem s0) = true) : Memory.wf (State.mem (State.keepReads s s0 h q together raws)) = true := by
  unfold State.keepReads
  repeat' with_reducible (first | assumption | refine memOk_fst (by assumption) ?_ | apply State.modCur_memOk | apply foldl_memOk | apply foldl_fst_memOk | dsimp only | split | intro)

theorem vloadGo_memOk (form : VForm) (code : Nat) (gll : Bool) (f : LM) (h : Hart) (j : VJob) (idx : List Int) (s : State) (hs : Memory.wf s.mem = true) :
    Memory.wf (State.mem (vloadGo form code gll f h j idx s)) = true := by
  unfold vloadGo
  extract_lets p m lm mx q acc els
  have h1 := State.plan_memOk (s.who p h) acc f.ord 1 els s 0 hs
  revert h1
  generalize State.plan (s.who p h) acc f.ord 1 els s 0 = pl
  obtain ⟨s1, items⟩ := pl
  intro h1
  clear_value p m lm mx q acc els
  dsimp only at h1 ⊢
  refine ite_memOk (State.stall_memOk _ hs) ?_
  split
  · exact State.farAsk_memOk _ _ _ h1 ‹_›
  · generalize hd : State.readDone _ items = s2
    have h2 : Memory.wf s2.mem = true := hd ▸ State.readDone_memOk _ _ (State.deliver_memOk _ _ _ _ _ _ h1)
    clear hd
    repeat' with_reducible (first | exact h2 | exact h1 | apply State.vFault_memOk | apply State.wrA_memOk | apply State.bump_memOk | apply State.deq_memOk | apply State.keepReads_memOk | apply State.modCur_memOk | apply ite_memOk)

theorem State.sendPuts_memOk (s : State) (l : List Put) (home : Bool) (hs : Memory.wf (State.mem s) = true) : Memory.wf (State.mem (State.sendPuts s l home)) = true := by
  unfold State.sendPuts
  repeat' with_reducible (first | assumption | refine memOk_fst (by assumption) ?_ | apply State.sendHome_memOk | apply State.sendAll_memOk | apply foldl_memOk | apply foldl_fst_memOk | dsimp only | split | intro)

theorem State.sendAway_memOk (s : State) (l : List XOk) (hs : Memory.wf (State.mem s) = true) : Memory.wf (State.mem (State.sendAway s l)) = true := by
  unfold State.sendAway
  repeat' with_reducible (first | assumption | refine memOk_fst (by assumption) ?_ | apply State.send_memOk | apply State.breakAway_memOk | apply foldl_memOk | apply foldl_fst_memOk | dsimp only | split | intro)

theorem State.sendAfter_memOk (s : State) (l : List Put) (away : List XOk) (rel : Bool) (sc : Nat) (prev : List Nat) (before : List Put) (hs : Memory.wf s.mem = true) :
    Memory.wf (State.mem (s.sendAfter l away rel sc prev before).1) = true := by
  exact State.sendAway_memOk _ _ (State.sendPuts_memOk _ _ _ hs)

theorem State.sendEls_memOk (s : State) (f : LM) (home : Bool) (els : List (List Put × List XOk)) (hs : Memory.wf s.mem = true) : Memory.wf (State.mem (s.sendEls f home els)) = true := by
  unfold State.sendEls
  split
  · exact foldl_keeps (fun (t : (State × List Nat) × List Put) => Memory.wf (State.mem t.1.1) = true) _ els _ hs (fun t a _ h => State.sendAfter_memOk _ _ _ _ _ _ _ h)
  · exact State.sendAway_memOk _ _ (State.sendPuts_memOk _ _ _ hs)

theorem vstoreGo_memOk (form : VForm) (scc : Bool) (f : LM) (h : Hart) (j : VJob) (es : List Entry) (idx : List Int) (s : State) (hs : Memory.wf s.mem = true) :
    Memory.wf (State.mem (vstoreGo form scc f h j es idx s)) = true := by
  unfold vstoreGo
  extract_lets p m sm mx acc seed els
  have h1 := State.plan_memOk (s.who p h) acc f.ord 1 els s 0 hs
  revert h1
  generalize State.plan (s.who p h) acc f.ord 1 els s 0 = pl
  obtain ⟨s1, items⟩ := pl
  intro h1
  clear_value p m sm mx acc seed els
  dsimp only at h1 ⊢
  refine ite_memOk (State.stall_memOk _ hs) ?_
  split
  · exact State.farAsk_memOk _ _ _ h1 ‹_›
  · generalize hp : State.sendEls s1 f scc _ = s2
    have h2 : Memory.wf s2.mem = true := hp ▸ State.sendEls_memOk _ _ _ _ h1
    clear hp
    repeat' with_reducible (first | exact h2 | exact h1 | assumption | apply ite_memOk | apply State.noteWrites_memOk | apply State.drawn_memOk | apply State.wrA_memOk | apply State.bump_memOk | apply State.wrK_memOk | apply State.deq_memOk | apply State.vFault_memOk | split | intro)

theorem State.vecNext_memOk (s : State) (f : LM) (h : Hart) (reads : Bool) (align : Nat) (j : VJob) (v : VPend) (hs : Memory.wf s.mem = true) :
    VNext.MemOk (s.vecNext f h reads align j v) := by
  unfold State.vecNext
  split
  · trivial
  · rename_i x _
    have h1 := State.plan_memOk (s.who s.issue.core h) .atomic true align [x] s 0 hs
    revert h1
    generalize State.plan (s.who s.issue.core h) .atomic true align [x] s 0 = pl
    obtain ⟨s1, items⟩ := pl
    intro h1
    dsimp only at h1 ⊢
    split
    · trivial
    · refine VNext.ite_memOk (State.stall_memOk _ hs) ?_
      split
      · exact State.farAsk_memOk _ _ _ h1 ‹_›
      · exact h1

theorem State.vecOver_memOk (s : State) (hs : Memory.wf (State.mem s) = true) : Memory.wf (State.mem (State.vecOver s)) = true := by
  unfold State.vecOver
  repeat' with_reducible (first | assumption | refine memOk_fst (by assumption) ?_ | apply State.modCur_memOk | apply foldl_memOk | apply foldl_fst_memOk | dsimp only | split | intro)

theorem sccEnd_memOk (f : LM) (h : Hart) (j : VJob) (v : VPend) (items : List Item) (s : State) (hs : Memory.wf (State.mem s) = true) : Memory.wf (State.mem (sccEnd f h j v items s)) = true := by
  unfold sccEnd
  repeat' with_reducible (first | assumption | refine memOk_fst (by assumption) ?_ | apply State.modCur_memOk | apply State.wrK_memOk | apply State.drawn_memOk | apply State.noteWrites_memOk | apply State.bump_memOk | apply State.vFault_memOk | apply State.deq_memOk | apply State.sendEls_memOk | apply State.vecNext_memOk | apply State.vecOver_memOk | apply foldl_memOk | apply foldl_fst_memOk | dsimp only | split | intro)

theorem sccStep_memOk (f : LM) (h : Hart) (j : VJob) (v : VPend) (s : State) (hs : Memory.wf s.mem = true) : Memory.wf (State.mem (sccStep f h j v s)) = true := by
  have H := State.vecNext_memOk s f h false 1 j v hs
  unfold sccStep
  split
  · rename_i e; rw [e] at H; exact H
  · exact sccEnd_memOk _ _ _ _ _ _ hs
  · rename_i e; rw [e] at H
    have h1 := H
    split
    · exact sccEnd_memOk _ _ _ _ _ _ h1
    · extract_lets wins l s2 s3 v1
      have h2 : Memory.wf s2.mem = true := ite_memOk (State.noteWrites_memOk _ _ _ _ (State.sendEls_memOk _ _ _ _ h1) h1) h1
      have h3 : Memory.wf s3.mem = true := ite_memOk h2 (State.drawn_memOk _ h2)
      split
      · exact State.modCur_memOk _ _ h3
      · exact sccEnd_memOk _ _ _ _ _ _ h3

theorem sccGoesOn_memOk (f : LM) (s : State) (h : Hart) (v : VPend) (hs : Memory.wf (State.mem s) = true) : Memory.wf (State.mem (sccGoesOn f s h v)) = true := by
  unfold sccGoesOn
  repeat' with_reducible (first | assumption | refine memOk_fst (by assumption) ?_ | apply sccStep_memOk | apply foldl_memOk | apply foldl_fst_memOk | dsimp only | split | intro)

theorem State.vamoOne_memOk (s : State) (l : List XOk) (x : Nat) (pois : Bool) (op : Nat → Nat → Nat) (hs : Memory.wf (State.mem s) = true) : Memory.wf (State.mem (State.vamoOne s l x pois op).1) = true := by
  unfold State.vamoOne
  repeat' with_reducible (first | assumption | refine memOk_fst (by assumption) ?_ | apply State.drawn_memOk | apply State.send_memOk | apply State.sendHome_memOk | apply State.breakAway_memOk | apply foldl_memOk | apply foldl_fst_memOk | dsimp only | split | intro)

theorem vamoOrder_memOk (ord : Bool) (s : State) (items : List Item) (hs : Memory.wf (State.mem s) = true) : Memory.wf (State.mem (vamoOrder ord s items).1) = true := by
  unfold vamoOrder
  repeat' with_reducible (first | assumption | refine memOk_fst (by assumption) ?_ | apply foldl_memOk | apply foldl_fst_memOk | dsimp only | split | intro)

theorem vamoEnd_memOk (f : LM) (h : Hart) (j : VJob) (v : VPend) (items : List Item) (s : State) (hs : Memory.wf (State.mem s) = true) : Memory.wf (State.mem (vamoEnd f h j v items s)) = true := by
  unfold vamoEnd
  repeat' with_reducible (first | assumption | refine memOk_fst (by assumption) ?_ | apply State.modCur_memOk | apply State.setQueue_memOk | apply State.noteWrites_memOk | apply State.readDone_memOk | apply State.vFault_memOk | apply State.deliver_memOk | apply State.deq_memOk | apply State.vecNext_memOk | apply State.vecOver_memOk | apply State.vamoOne_memOk | apply foldl_memOk | apply foldl_fst_memOk | dsimp only | split | intro)

theorem vamoStep_memOk (f : LM) (h : Hart) (j : VJob) (op : Nat → Nat → Nat) (v : VPend) (s : State) (hs : Memory.wf s.mem = true) : Memory.wf (State.mem (vamoStep f h j op v s)) = true := by
  have H := State.vecNext_memOk s f h true 4 j v hs
  unfold vamoStep
  split
  · rename_i e; rw [e] at H; exact H
  · exact vamoEnd_memOk _ _ _ _ _ _ hs
  · rename_i e; rw [e] at H
    have h1 := H
    split
    · exact vamoEnd_memOk _ _ _ _ _ _ h1
    · extract_lets x r s2 v1
      have hr : Memory.wf r.1.mem = true := State.vamoOne_memOk _ _ _ _ _ (State.readDone_memOk _ _ h1)
      have h2 : Memory.wf s2.mem = true := State.noteWrites_memOk _ _ _ _ hr h1
      split
      · exact State.modCur_memOk _ _ h2
      · exact vamoEnd_memOk _ _ _ _ _ _ h2

theorem vamoBegin_memOk (f : LM) (code : Nat) (h : Hart) (j : VJob) (op : Nat → Nat → Nat) (v : VPend) (s : State) (hs : Memory.wf s.mem = true) :
    Memory.wf (State.mem (vamoBegin f code h j op v s)) = true := by
  have H := State.vecNext_memOk s f h true 4 j v hs
  unfold vamoBegin
  split
  · rename_i e; rw [e] at H; exact H
  · dsimp only
    split
    · exact vamoStep_memOk _ _ _ _ _ _ (State.modCur_memOk _ _ (State.deliver_memOk _ _ _ _ _ _ hs))
    · exact vamoStep_memOk _ _ _ _ _ _ hs

theorem vamoGo_memOk (f : LM) (code : Nat) (h : Hart) (j : VJob) (en : Entry) (idx : List Int) (op : Nat → Nat → Nat) (s : State) (hs : Memory.wf (State.mem s) = true) : Memory.wf (State.mem (vamoGo f code h j en idx op s)) = true := by
  unfold vamoGo
  repeat' with_reducible (first | assumption | refine memOk_fst (by assumption) ?_ | apply State.stall_memOk | apply State.noteWrites_memOk | apply State.plan_memOk | apply State.readDone_memOk | refine State.farAsk_memOk _ _ _ ?_ (by assumption) | apply State.vFault_memOk | apply State.deliver_memOk | apply State.deq_memOk | apply State.vamoOne_memOk | apply vamoOrder_memOk | apply foldl_memOk | apply foldl_fst_memOk | dsimp only | split | intro)

theorem State.popAll_memOk (s : State) (p : Nat) (qs : List Nat) (hs : Memory.wf (State.mem s) = true) : Memory.wf (State.mem (State.popAll s p qs)) = true := by
  unfold State.popAll
  repeat' with_reducible (first | assumption | refine memOk_fst (by assumption) ?_ | apply State.setQueue_memOk | apply foldl_memOk | apply foldl_fst_memOk | dsimp only | split | intro)

theorem vTake_memOk (sp : VSpec) (s : State) (x : VCtx) (t : Tag) (qs groups : List Nat) (dq : Option Nat) (hs : Memory.wf (State.mem s) = true) : Memory.wf (State.mem (vTake sp s x t qs groups dq)) = true := by
  unfold vTake
  repeat' with_reducible (first | assumption | refine memOk_fst (by assumption) ?_ | apply State.modCore_memOk | apply State.after_memOk | apply State.setQueue_memOk | apply State.popAll_memOk | apply foldl_memOk | apply foldl_fst_memOk | dsimp only | split | intro)

theorem vDrive_memOk (sp : VSpec) (s0 : State) (h : Hart) (hs0 : Memory.wf (State.mem s0) = true) : Memory.wf (State.mem (vDrive sp s0 h)) = true := by
  unfold vDrive
  repeat' with_reducible (first | assumption | refine memOk_fst (by assumption) ?_ | apply State.stall_memOk | apply State.late_memOk | apply State.operand_memOk | apply vTake_memOk | apply foldl_memOk | apply foldl_fst_memOk | dsimp only | split | intro)

theorem State.setColo_memOk (s : State) (p : Nat) (h : Hart) (k : Colo) (hs : Memory.wf (State.mem s) = true) : Memory.wf (State.mem (State.setColo s p h k)) = true := by
  unfold State.setColo
  repeat' with_reducible (first | assumption | refine memOk_fst (by assumption) ?_ | apply State.modGang_memOk | apply foldl_memOk | apply foldl_fst_memOk | dsimp only | split | intro)

theorem State.carrelFault_memOk (s : State) (sub : Nat) (hs : Memory.wf (State.mem s) = true) : Memory.wf (State.mem (State.carrelFault s sub)) = true := by
  unfold State.carrelFault
  repeat' with_reducible (first | assumption | refine memOk_fst (by assumption) ?_ | apply State.modCur_memOk | apply State.raise_memOk | apply foldl_memOk | apply foldl_fst_memOk | dsimp only | split | intro)

theorem State.modCarrel_memOk (s : State) (g : Carrel → Carrel) (hs : Memory.wf (State.mem s) = true) : Memory.wf (State.mem (State.modCarrel s g)) = true := by
  unfold State.modCarrel
  repeat' with_reducible (first | assumption | refine memOk_fst (by assumption) ?_ | apply State.modCur_memOk | apply foldl_memOk | apply foldl_fst_memOk | dsimp only | split | intro)

theorem State.settle_memOk (s : State) (p i : Nat) (hs : Memory.wf (State.mem s) = true) : Memory.wf (State.mem (State.settle s p i)) = true := by
  unfold State.settle
  repeat' with_reducible (first | assumption | refine memOk_fst (by assumption) ?_ | apply State.setHart_memOk | apply State.modHart_memOk | apply State.pend_memOk | apply State.enterTrap_memOk | apply foldl_memOk | apply foldl_fst_memOk | dsimp only | split | intro)

theorem State.unstall_memOk (s : State) (p i : Nat) (hs : Memory.wf (State.mem s) = true) : Memory.wf (State.mem (State.unstall s p i)) = true := by
  unfold State.unstall
  repeat' with_reducible (first | assumption | refine memOk_fst (by assumption) ?_ | apply State.modHart_memOk | apply State.pushRecs_memOk | apply State.enterTrap_memOk | apply State.settle_memOk | apply foldl_memOk | apply foldl_fst_memOk | dsimp only | split | intro)

theorem State.correctError_memOk (s : State) (p g : Nat) (hs : Memory.wf (State.mem s) = true) : Memory.wf (State.mem (State.correctError s p g)) = true := by
  unfold State.correctError
  repeat' with_reducible (first | assumption | refine memOk_fst (by assumption) ?_ | apply State.modCore_memOk | apply State.event_memOk | apply foldl_memOk | apply foldl_fst_memOk | dsimp only | split | intro)

theorem State.correctedNow_memOk (s : State) (p : Nat) (hs : Memory.wf (State.mem s) = true) : Memory.wf (State.mem (State.correctedNow s p)) = true := by
  unfold State.correctedNow
  repeat' with_reducible (first | assumption | refine memOk_fst (by assumption) ?_ | apply State.correctError_memOk | apply foldl_memOk | apply foldl_fst_memOk | dsimp only | split | intro)

theorem State.unfly_memOk (s : State) (p id : Nat) (hs : Memory.wf (State.mem s) = true) : Memory.wf (State.mem (State.unfly s p id)) = true := by
  unfold State.unfly
  repeat' with_reducible (first | assumption | refine memOk_fst (by assumption) ?_ | apply State.modCore_memOk | apply foldl_memOk | apply foldl_fst_memOk | dsimp only | split | intro)

theorem State.vWriteback_memOk (s : State) (p id : Nat) (hs : Memory.wf (State.mem s) = true) : Memory.wf (State.mem (State.vWriteback s p id)) = true := by
  unfold State.vWriteback
  repeat' with_reducible (first | assumption | refine memOk_fst (by assumption) ?_ | apply State.modCore_memOk | apply State.modHart_memOk | apply State.setQueue_memOk | apply State.settle_memOk | apply State.correctedNow_memOk | apply State.unfly_memOk | apply foldl_memOk | apply foldl_fst_memOk | dsimp only | split | intro)

theorem State.updateWriteback_memOk (s : State) (p id : Nat) (hs : Memory.wf (State.mem s) = true) : Memory.wf (State.mem (State.updateWriteback s p id)) = true := by
  unfold State.updateWriteback
  repeat' with_reducible (first | assumption | refine memOk_fst (by assumption) ?_ | apply State.setCore_memOk | apply State.setColo_memOk | apply State.settle_memOk | apply State.correctedNow_memOk | apply State.unfly_memOk | apply foldl_memOk | apply foldl_fst_memOk | dsimp only | split | intro)

theorem State.rebring_memOk (s : State) (p i : Nat) (v : VRead) (hs : Memory.wf (State.mem s) = true) : Memory.wf (State.mem (State.rebring s p i v)) = true := by
  unfold State.rebring
  repeat' with_reducible (first | assumption | refine memOk_fst (by assumption) ?_ | apply State.modHart_memOk | apply State.setQueue_memOk | apply State.touch_memOk | apply State.hopFailure_memOk | apply State.readDone_memOk | apply foldl_memOk | apply foldl_fst_memOk | dsimp only | split | intro)

theorem State.elementNow_memOk (s : State) (p id n : Nat) (hs : Memory.wf (State.mem s) = true) : Memory.wf (State.mem (State.elementNow s p id n)) = true := by
  unfold State.elementNow
  repeat' with_reducible (first | assumption | refine memOk_fst (by assumption) ?_ | apply State.touch_memOk | apply State.hopFailure_memOk | apply State.readDone_memOk | apply State.rebring_memOk | apply foldl_memOk | apply foldl_fst_memOk | dsimp only | split | intro)

theorem State.elementFails_memOk (s : State) (p id d src g : Nat) (hs : Memory.wf (State.mem s) = true) : Memory.wf (State.mem (State.elementFails s p id d src g)) = true := by
  unfold State.elementFails
  repeat' with_reducible (first | assumption | refine memOk_fst (by assumption) ?_ | apply State.hopFailure_memOk | apply State.rebring_memOk | apply foldl_memOk | apply foldl_fst_memOk | dsimp only | split | intro)

theorem State.accessDone_memOk (s : State) (p id : Nat) (hs : Memory.wf (State.mem s) = true) : Memory.wf (State.mem (State.accessDone s p id)) = true := by
  unfold State.accessDone
  repeat' with_reducible (first | assumption | refine memOk_fst (by assumption) ?_ | apply State.modCore_memOk | apply State.settle_memOk | apply State.elementNow_memOk | apply State.elementFails_memOk | apply foldl_memOk | apply foldl_fst_memOk | dsimp only | split | intro)

theorem State.retire_memOk (s : State) (p i : Nat) (hs : Memory.wf (State.mem s) = true) : Memory.wf (State.mem (State.retire s p i)) = true := by
  unfold State.retire
  repeat' with_reducible (first | assumption | refine memOk_fst (by assumption) ?_ | apply State.setHart_memOk | apply State.modFifo_memOk | apply foldl_memOk | apply foldl_fst_memOk | dsimp only | split | intro)

theorem State.protect_memOk (s : State) (p i : Nat) (hs : Memory.wf (State.mem s) = true) : Memory.wf (State.mem (State.protect s p i)) = true := by
  unfold State.protect
  repeat' with_reducible (first | assumption | refine memOk_fst (by assumption) ?_ | apply State.modCore_memOk | apply State.modHart_memOk | apply foldl_memOk | apply foldl_fst_memOk | dsimp only | split | intro)

theorem State.retireG_memOk (s : State) (d : Nat) (v : Word) (hs : Memory.wf (State.mem s) = true) : Memory.wf (State.mem (State.retireG s d v)) = true := by
  unfold State.retireG
  repeat' with_reducible (first | assumption | refine memOk_fst (by assumption) ?_ | apply State.wrG_memOk | apply State.pend_memOk | apply foldl_memOk | apply foldl_fst_memOk | dsimp only | split | intro)

theorem State.atDie_memOk (s : State) (d kind bit : Nat) (w : Word) (k : State → State) (hs : Memory.wf s.mem = true)
    (hk : ∀ t, Memory.wf (State.mem t) = true → Memory.wf (State.mem (k t)) = true) : Memory.wf (State.mem (s.atDie d kind bit w k)) = true := by
  unfold State.atDie
  split
  · exact State.pend_memOk _ _ hs
  · exact hk _ (State.turn_memOk _ _ _ _ _ hs ‹_›)

theorem State.setBar_memOk (s : State) (h : Hart) (n : Nat) (b : Barrier) (hs : Memory.wf (State.mem s) = true) : Memory.wf (State.mem (State.setBar s h n b)) = true := by
  unfold State.setBar
  repeat' with_reducible (first | assumption | refine memOk_fst (by assumption) ?_ | apply State.modGang_memOk | apply foldl_memOk | apply foldl_fst_memOk | dsimp only | split | intro)

theorem State.accept_memOk (s : State) (h : Hart) (d : Nat) (b : List Byte) (rd : Nat) (hs : Memory.wf (State.mem s) = true) : Memory.wf (State.mem (State.accept s h d b rd)) = true := by
  unfold State.accept
  repeat' with_reducible (first | assumption | refine memOk_fst (by assumption) ?_ | apply State.modDie_memOk | apply State.stall_memOk | apply State.setGang_memOk | apply State.commit_memOk | apply State.store_memOk | apply State.xlateSpan_memOk | apply State.setRing_memOk | apply State.seeNote_memOk | apply State.memTrap_memOk | apply State.retireG_memOk | apply foldl_memOk | apply foldl_fst_memOk | dsimp only | split | intro)

theorem State.cancelUnplaced_memOk (s : State) (d : Nat) (a : RecAt) (hs : Memory.wf (State.mem s) = true) : Memory.wf (State.mem (State.cancelUnplaced s d a)) = true := by
  unfold State.cancelUnplaced
  repeat' with_reducible (first | assumption | refine memOk_fst (by assumption) ?_ | apply State.setRing_memOk | apply State.endWord_memOk | apply State.freeRec_memOk | apply foldl_memOk | apply foldl_fst_memOk | dsimp only | split | intro)

theorem State.copyXlate_memOk (s : State) (w : Who) (va : VAddr) (acc : Acc) (hs : Memory.wf (State.mem s) = true) : Memory.wf (State.mem (State.copyXlate s w va acc).1) = true := by
  unfold State.copyXlate
  repeat' with_reducible (first | assumption | refine memOk_fst (by assumption) ?_ | apply State.xlate_memOk | apply State.place_memOk | apply foldl_memOk | apply foldl_fst_memOk | dsimp only | split | intro)

theorem State.copyRuns_memOk (w : Who) (acc : Acc) (k : Nat) (s : State) (va : VAddr) (off n : Nat) (hs : Memory.wf s.mem = true) :
    Memory.wf (State.mem (State.copyRuns w acc k s va off n).1) = true := by
  induction k generalizing s va off n with
  | zero => exact hs
  | succ k ih =>
    unfold State.copyRuns
    split
    · exact hs
    · dsimp only
      split
      · exact memOk_fst ‹_› (State.copyXlate_memOk _ _ _ _ hs)
      · rename_i t l e
        have ht := memOk_fst e (State.copyXlate_memOk _ _ _ _ hs)
        split <;> exact memOk_fst ‹_› (ih t _ _ _ ht)

theorem State.copyRows_memOk (w : Who) (acc : Acc) (va : VAddr) (l : List (Nat × Nat)) (s : State) (hs : Memory.wf s.mem = true) :
    Memory.wf (State.mem (State.copyRows w acc va l s).1) = true := by
  induction l generalizing s with
  | nil => exact hs
  | cons q l ih =>
    unfold State.copyRows
    split
    · exact memOk_fst ‹_› (State.copyRuns_memOk _ _ _ _ _ _ _ hs)
    · rename_i t l e
      have ht := memOk_fst e (State.copyRuns_memOk _ _ _ _ _ _ _ hs)
      split <;> exact memOk_fst ‹_› (ih t ht)

theorem State.setEngQ_memOk (s : State) (d n : Nat) (q : EngQ) (hs : Memory.wf (State.mem s) = true) : Memory.wf (State.mem (State.setEngQ s d n q)) = true := by
  unfold State.setEngQ
  repeat' with_reducible (first | assumption | refine memOk_fst (by assumption) ?_ | apply State.modDie_memOk | apply foldl_memOk | apply foldl_fst_memOk | dsimp only | split | intro)

theorem State.copyTrap_memOk (s : State) (w : Who) (va : VAddr) (x : XFault) (acc : Acc) (hs : Memory.wf (State.mem s) = true) : Memory.wf (State.mem (State.copyTrap s w va x acc)) = true := by
  unfold State.copyTrap
  repeat' with_reducible (first | assumption | refine memOk_fst (by assumption) ?_ | apply State.stall_memOk | apply State.walk_memOk | apply State.memTrap_memOk | apply foldl_memOk | apply foldl_fst_memOk | dsimp only | split | intro)

theorem CopyCmd.translate_memOk (c : CopyCmd) (s : State) (w : Who) (base : Nat → Nat) (hs : Memory.wf (State.mem s) = true) : Memory.wf (State.mem (CopyCmd.translate c s w base).1) = true := by
  unfold CopyCmd.translate
  repeat' with_reducible (first | assumption | refine memOk_fst (by assumption) ?_ | apply State.store_memOk | apply State.copyRows_memOk | apply foldl_memOk | apply foldl_fst_memOk | dsimp only | split | intro)

theorem CopyCmd.flagXlate_memOk (c : CopyCmd) (s : State) (w : Who) (hs : Memory.wf (State.mem s) = true) : Memory.wf (State.mem (CopyCmd.flagXlate c s w).1) = true := by
  unfold CopyCmd.flagXlate
  repeat' with_reducible (first | assumption | refine memOk_fst (by assumption) ?_ | apply State.store_memOk | apply State.copyXlate_memOk | apply foldl_memOk | apply foldl_fst_memOk | dsimp only | split | intro)

theorem CopyCmd.resolve_memOk (c : CopyCmd) (s : State) (w : Who) (base : Nat → Nat) (hs : Memory.wf (State.mem s) = true) : Memory.wf (State.mem (CopyCmd.resolve c s w base).1) = true := by
  unfold CopyCmd.resolve
  repeat' with_reducible (first | assumption | refine memOk_fst (by assumption) ?_ | apply CopyCmd.translate_memOk | apply CopyCmd.flagXlate_memOk | apply foldl_memOk | apply foldl_fst_memOk | dsimp only | split | intro)

theorem CopyCmd.settleBlocks_memOk (c : CopyCmd) (s : State) (w : Who) (base : Nat → Nat) (hs : Memory.wf (State.mem s) = true) : Memory.wf (State.mem (CopyCmd.settleBlocks c s w base).1) = true := by
  unfold CopyCmd.settleBlocks
  repeat' with_reducible (first | assumption | refine memOk_fst (by assumption) ?_ | apply CopyCmd.resolve_memOk | apply foldl_memOk | apply foldl_fst_memOk | dsimp only | split | intro)

theorem State.bindK_memOk (s : State) (c : CopyCmd) (hs : Memory.wf (State.mem s) = true) : Memory.wf (State.mem (State.bindK s c)) = true := by
  unfold State.bindK
  repeat' with_reducible (first | assumption | refine memOk_fst (by assumption) ?_ | apply State.modCur_memOk | apply foldl_memOk | apply foldl_fst_memOk | dsimp only | split | intro)

theorem State.join_memOk (s : State) (d n rd : Nat) (c : CopyCmd) (hs : Memory.wf (State.mem s) = true) : Memory.wf (State.mem (State.join s d n rd c)) = true := by
  unfold State.join
  repeat' with_reducible (first | assumption | refine memOk_fst (by assumption) ?_ | apply State.wrG_memOk | apply State.setEngQ_memOk | apply State.bindK_memOk | apply foldl_memOk | apply foldl_fst_memOk | dsimp only | split | intro)

theorem State.readGran_memOk (s : State) (g : Nat) (hs : Memory.wf (State.mem s) = true) : Memory.wf (State.mem (State.readGran s g).1) = true := by
  unfold State.readGran
  repeat' with_reducible (first | assumption | refine memOk_fst (by assumption) ?_ | apply State.drawn_memOk | apply State.verify_memOk | apply foldl_memOk | apply foldl_fst_memOk | dsimp only | split | intro)

theorem CopyCmd.readOne_memOk (q : State × CopyCmd) (g : Nat) (hs : Memory.wf q.1.mem = true) : Memory.wf (State.mem (CopyCmd.readOne q g).1) = true := by
  exact State.readGran_memOk _ _ hs

theorem State.copyStart_memOk (s : State) (d : Nat) (c : CopyCmd) (hs : Memory.wf s.mem = true) : Memory.wf (State.mem (s.copyStart d c).1) = true := by
  unfold State.copyStart
  split
  · exact hs
  · split
    · exact hs
    · split
      · exact hs
      · exact foldl_fst_memOk (p := (s, _)) hs (fun p a h => CopyCmd.readOne_memOk _ _ h)

theorem State.putGranule_memOk (s : State) (l : List Piece) (mark : Bool) (hs : Memory.wf s.mem = true) : Memory.wf (State.mem (s.putGranule l mark)) = true := by
  exact State.commit_memOk _ _ _ _ _ _ hs

theorem CopyCmd.combine_memOk (differ hop : Bool) (q : State × CopyCmd) (p : Piece) (hs : Memory.wf q.1.mem = true) : Memory.wf (State.mem (CopyCmd.combine differ hop q p).1) = true := by
  unfold CopyCmd.combine
  obtain ⟨s, c⟩ := q
  repeat' with_reducible (first | exact hs | apply State.commit_memOk | apply State.verify_memOk | apply State.breakLinks_memOk | apply State.drawn_memOk | dsimp only | split)

theorem CopyCmd.writeGran_memOk (c : CopyCmd) (s : State) (g : Nat) (differ hop : Bool) (hs : Memory.wf s.mem = true) : Memory.wf (State.mem (c.writeGran s g differ hop).1) = true := by
  unfold CopyCmd.writeGran
  dsimp only
  split
  · exact foldl_fst_memOk hs (fun p a h => CopyCmd.combine_memOk _ _ _ _ h)
  · repeat' with_reducible (first | exact hs | apply State.putGranule_memOk | apply State.breakLinks_memOk | apply State.drawn_memOk | dsimp only | split)

theorem State.copyUncount_memOk (s : State) (c : CopyCmd) (n : Nat) (hs : Memory.wf (State.mem s) = true) : Memory.wf (State.mem (State.copyUncount s c n)) = true := by
  unfold State.copyUncount
  repeat' with_reducible (first | assumption | refine memOk_fst (by assumption) ?_ | apply State.modHart_memOk | apply State.modGang_memOk | apply State.uncountOf_memOk | apply foldl_memOk | apply foldl_fst_memOk | dsimp only | split | intro)

theorem State.chunkBit_memOk (s : State) (c : CopyCmd) (n : Nat) (hs : Memory.wf (State.mem s) = true) : Memory.wf (State.mem (State.chunkBit s c n)) = true := by
  unfold State.chunkBit
  repeat' with_reducible (first | assumption | refine memOk_fst (by assumption) ?_ | apply State.modHart_memOk | apply State.modGang_memOk | apply foldl_memOk | apply foldl_fst_memOk | dsimp only | split | intro)

theorem State.engineWrites_memOk (s : State) (q : State × CopyCmd) (g : Nat) (hs : Memory.wf q.1.mem = true) : Memory.wf (State.mem (s.engineWrites q g).1) = true := by
  have h0 : ∀ (a : Bool) (d b : Nat), Memory.wf (State.mem (if a then q.1.hopFailure d b g else q.1)) = true := by
    intro a d b; split <;> [exact State.hopFailure_memOk _ _ _ _ hs; exact hs]
  exact State.copyUncount_memOk _ _ _ (CopyCmd.writeGran_memOk _ _ _ _ _ (h0 _ _ _))

theorem State.putWord_memOk (s : State) (d : Nat) (ps : List Nat) (x : Nat) (hs : Memory.wf (State.mem s) = true) : Memory.wf (State.mem (State.putWord s d ps x)) = true := by
  unfold State.putWord
  repeat' with_reducible (first | assumption | refine memOk_fst (by assumption) ?_ | apply State.commit_memOk | apply State.copyUncount_memOk | apply foldl_memOk | apply foldl_fst_memOk | dsimp only | split | intro)

theorem CopyCmd.putFlag_memOk (c : CopyCmd) (s : State) (d : Nat) (hs : Memory.wf (State.mem s) = true) : Memory.wf (State.mem (CopyCmd.putFlag c s d)) = true := by
  unfold CopyCmd.putFlag
  repeat' with_reducible (first | assumption | refine memOk_fst (by assumption) ?_ | apply State.copyUncount_memOk | apply State.putWord_memOk | apply foldl_memOk | apply foldl_fst_memOk | dsimp only | split | intro)

theorem CopyCmd.finish_memOk (c : CopyCmd) (s : State) (d status idx : Nat) (hs : Memory.wf (State.mem s) = true) : Memory.wf (State.mem (CopyCmd.finish c s d status idx)) = true := by
  unfold CopyCmd.finish
  repeat' with_reducible (first | assumption | refine memOk_fst (by assumption) ?_ | apply State.copyUncount_memOk | apply State.putWord_memOk | apply CopyCmd.putFlag_memOk | apply foldl_memOk | apply foldl_fst_memOk | dsimp only | split | intro)

theorem State.catRuns_memOk (w : Who) (acc : Acc) (k : Nat) (s : State) (va : VAddr) (off n : Nat) (hs : Memory.wf s.mem = true) :
    Memory.wf (State.mem (State.catRuns w acc k s va off n).1) = true := by
  induction k generalizing s va off n with
  | zero => exact hs
  | succ k ih =>
    unfold State.catRuns
    split
    · exact hs
    · dsimp only
      split
      · exact memOk_fst ‹_› (State.xlate_memOk _ _ _ _ _ hs)
      · have ht := memOk_fst ‹_› (State.xlate_memOk _ _ _ _ _ hs)
        split
        · exact ht
        · split <;> exact memOk_fst ‹_› (ih _ _ _ _ ht)

theorem State.catRows_memOk (w : Who) (acc : Acc) (va : VAddr) (l : List (Nat × Nat)) (s : State) (hs : Memory.wf s.mem = true) :
    Memory.wf (State.mem (State.catRows w acc va l s).1) = true := by
  induction l generalizing s with
  | nil => exact hs
  | cons q l ih =>
    unfold State.catRows
    split
    · exact memOk_fst ‹_› (State.catRuns_memOk _ _ _ _ _ _ _ hs)
    · have ht := memOk_fst ‹_› (State.catRuns_memOk _ _ _ _ _ _ _ hs)
      split <;> exact memOk_fst ‹_› (ih _ ht)

theorem CatCmd.translate_memOk (c : CatCmd) (s : State) (w : Who) (hs : Memory.wf (State.mem s) = true) : Memory.wf (State.mem (CatCmd.translate c s w).1) = true := by
  unfold CatCmd.translate
  repeat' with_reducible (first | assumption | refine memOk_fst (by assumption) ?_ | apply State.store_memOk | apply State.catRows_memOk | apply foldl_memOk | apply foldl_fst_memOk | dsimp only | split | intro)

theorem CatCmd.settleBlocks_memOk (c : CatCmd) (s : State) (w : Who) (hs : Memory.wf (State.mem s) = true) : Memory.wf (State.mem (CatCmd.settleBlocks c s w).1) = true := by
  unfold CatCmd.settleBlocks
  repeat' with_reducible (first | assumption | refine memOk_fst (by assumption) ?_ | apply CopyCmd.translate_memOk | apply CatCmd.translate_memOk | apply foldl_memOk | apply foldl_fst_memOk | dsimp only | split | intro)

theorem State.catSend_memOk (s : State) (c : CatCmd) (pkg unit rd : Nat) (hs : Memory.wf (State.mem s) = true) : Memory.wf (State.mem (State.catSend s c pkg unit rd)) = true := by
  unfold State.catSend
  repeat' with_reducible (first | assumption | refine memOk_fst (by assumption) ?_ | apply State.modDie_memOk | apply State.wrG_memOk | apply State.drawn_memOk | apply State.putWord_memOk | apply foldl_memOk | apply foldl_fst_memOk | dsimp only | split | intro)

theorem CatCmd.start_memOk (c : CatCmd) (s : State) (u : Nat) (hs : Memory.wf (State.mem s) = true) : Memory.wf (State.mem (CatCmd.start c s u).1) = true := by
  unfold CatCmd.start
  repeat' with_reducible (first | assumption | refine memOk_fst (by assumption) ?_ | apply State.verify_memOk | apply foldl_memOk | apply foldl_fst_memOk | dsimp only | split | intro)

theorem CatCmd.putOne_memOk (c : CatCmd) (s : State) (w : CatPut) (differ : Bool) (hs : Memory.wf (State.mem s) = true) : Memory.wf (State.mem (CatCmd.putOne c s w differ).1) = true := by
  unfold CatCmd.putOne
  repeat' with_reducible (first | assumption | refine memOk_fst (by assumption) ?_ | apply State.commit_memOk | apply State.store_memOk | apply State.bump_memOk | apply foldl_memOk | apply foldl_fst_memOk | dsimp only | split | intro)

theorem CatCmd.take_memOk (c : CatCmd) (s : State) (u : Nat) (hs : Memory.wf (State.mem s) = true) : Memory.wf (State.mem (CatCmd.take c s u).1) = true := by
  unfold CatCmd.take
  repeat' with_reducible (first | assumption | refine memOk_fst (by assumption) ?_ | apply State.drawn_memOk | apply State.verify_memOk | apply foldl_memOk | apply foldl_fst_memOk | dsimp only | split | intro)

theorem CatCmd.step_memOk (c : CatCmd) (s : State) (u : Nat) (differ : Bool) (hs : Memory.wf (State.mem s) = true) : Memory.wf (State.mem (CatCmd.step c s u differ).1) = true := by
  unfold CatCmd.step
  repeat' with_reducible (first | assumption | refine memOk_fst (by assumption) ?_ | apply CatCmd.start_memOk | apply CatCmd.putOne_memOk | apply CatCmd.take_memOk | apply foldl_memOk | apply foldl_fst_memOk | dsimp only | split | intro)

theorem CatCmd.rest_memOk (c : CatCmd) (s : State) (u : Nat) (hs : Memory.wf (State.mem s) = true) : Memory.wf (State.mem (CatCmd.rest c s u).1) = true := by
  unfold CatCmd.rest
  repeat' with_reducible (first | assumption | refine memOk_fst (by assumption) ?_ | apply CatCmd.start_memOk | apply CatCmd.putOne_memOk | apply CatCmd.take_memOk | apply foldl_memOk | apply foldl_fst_memOk | dsimp only | split | intro)

theorem CatCmd.stepBad_memOk (c : CatCmd) (s : State) (u g : Nat) (differ : Bool) (hs : Memory.wf (State.mem s) = true) : Memory.wf (State.mem (CatCmd.stepBad c s u g differ).1) = true := by
  unfold CatCmd.stepBad
  repeat' with_reducible (first | assumption | refine memOk_fst (by assumption) ?_ | apply CatCmd.step_memOk | apply foldl_memOk | apply foldl_fst_memOk | dsimp only | split | intro)

theorem State.catComplete_memOk (s : State) (u : Nat) (hs : Memory.wf (State.mem s) = true) : Memory.wf (State.mem (State.catComplete s u)) = true := by
  unfold State.catComplete
  repeat' with_reducible (first | assumption | refine memOk_fst (by assumption) ?_ | apply State.modDie_memOk | apply State.event_memOk | apply State.hopFailure_memOk | apply State.putWord_memOk | apply CatCmd.step_memOk | apply CatCmd.rest_memOk | apply CatCmd.stepBad_memOk | apply foldl_memOk | apply foldl_fst_memOk | dsimp only | split | intro)

theorem State.catFromAway_memOk (s : State) (hs : Memory.wf (State.mem s) = true) : Memory.wf (State.mem (State.catFromAway s)) = true := by
  unfold State.catFromAway
  repeat' with_reducible (first | assumption | refine memOk_fst (by assumption) ?_ | apply State.modDie_memOk | apply State.commit_memOk | apply State.putWord_memOk | apply foldl_memOk | apply foldl_fst_memOk | dsimp only | split | intro)

theorem State.folioLeaf_memOk (s : State) (w : Who) (va : VAddr) (hs : Memory.wf (State.mem s) = true) : Memory.wf (State.mem (State.folioLeaf s w va).1) = true := by
  unfold State.folioLeaf
  repeat' with_reducible (first | assumption | refine memOk_fst (by assumption) ?_ | apply State.touch_memOk | apply State.walk_memOk | apply State.seeCtx_memOk | apply State.store_memOk | apply foldl_memOk | apply foldl_fst_memOk | dsimp only | split | intro)

theorem State.remap_memOk (s : State) (f : Folio) (mw new : Nat) (touched : List Nat) (hs : Memory.wf (State.mem s) = true) : Memory.wf (State.mem (State.remap s f mw new touched)) = true := by
  unfold State.remap
  repeat' with_reducible (first | assumption | refine memOk_fst (by assumption) ?_ | apply State.store_memOk | apply State.folioDrop_memOk | apply State.drop_memOk | apply foldl_memOk | apply foldl_fst_memOk | dsimp only | split | intro)

theorem State.folioOut_memOk (s : State) (w : Who) (va : VAddr) (hs : Memory.wf (State.mem s) = true) : Memory.wf (State.mem (State.folioOut s w va)) = true := by
  unfold State.folioOut
  repeat' with_reducible (first | assumption | refine memOk_fst (by assumption) ?_ | apply State.store_memOk | apply State.copyTrap_memOk | apply foldl_memOk | apply foldl_fst_memOk | dsimp only | split | intro)

theorem State.seeOwnFolio_memOk (s : State) (w : Who) (hs : Memory.wf (State.mem s) = true) : Memory.wf (State.mem (State.seeOwnFolio s w)) = true := by
  unfold State.seeOwnFolio
  repeat' with_reducible (first | assumption | refine memOk_fst (by assumption) ?_ | apply State.seeCtx_memOk | apply State.seeFolio_memOk | apply foldl_memOk | apply foldl_fst_memOk | dsimp only | split | intro)

theorem State.orphanWord_memOk (s : State) (g : Nat) (r : Rec) (hs : Memory.wf (State.mem s) = true) : Memory.wf (State.mem (State.orphanWord s g r)) = true := by
  unfold State.orphanWord
  repeat' with_reducible (first | assumption | refine memOk_fst (by assumption) ?_ | apply State.endWord_memOk | apply foldl_memOk | apply foldl_fst_memOk | dsimp only | split | intro)

theorem State.orphanRec_memOk (s : State) (f g i : Nat) (r : Rec) (hs : Memory.wf (State.mem s) = true) : Memory.wf (State.mem (State.orphanRec s f g i r)) = true := by
  unfold State.orphanRec
  repeat' with_reducible (first | assumption | refine memOk_fst (by assumption) ?_ | apply State.modCore_memOk | apply State.setGang_memOk | apply State.dropSem_memOk | apply State.releaseCore_memOk | apply State.orphanWord_memOk | apply foldl_memOk | apply foldl_fst_memOk | dsimp only | split | intro)

theorem State.orphanRecs_memOk (s : State) (f g : Nat) (hs : Memory.wf (State.mem s) = true) : Memory.wf (State.mem (State.orphanRecs s f g)) = true := by
  unfold State.orphanRecs
  repeat' with_reducible (first | assumption | refine memOk_fst (by assumption) ?_ | apply State.setRing_memOk | apply State.orphanWord_memOk | apply State.orphanRec_memOk | apply foldl_memOk | apply foldl_fst_memOk | dsimp only | split | intro)

theorem State.orphanEngine_memOk (s : State) (f g : Nat) (hs : Memory.wf (State.mem s) = true) : Memory.wf (State.mem (State.orphanEngine s f g)) = true := by
  unfold State.orphanEngine
  repeat' with_reducible (first | assumption | refine memOk_fst (by assumption) ?_ | apply State.modDie_memOk | apply State.copyUncount_memOk | apply CopyCmd.finish_memOk | apply foldl_memOk | apply foldl_fst_memOk | dsimp only | split | intro)

theorem State.orphanCat_memOk (s : State) (f : Nat) (hs : Memory.wf (State.mem s) = true) : Memory.wf (State.mem (State.orphanCat s f)) = true := by
  unfold State.orphanCat
  repeat' with_reducible (first | assumption | refine memOk_fst (by assumption) ?_ | apply State.modDie_memOk | apply State.putWord_memOk | apply foldl_memOk | apply foldl_fst_memOk | dsimp only | split | intro)

theorem State.orphanWrites_memOk (s : State) (f : Nat) (hs : Memory.wf (State.mem s) = true) : Memory.wf (State.mem (State.orphanWrites s f)) = true := by
  unfold State.orphanWrites
  repeat' with_reducible (first | assumption | refine memOk_fst (by assumption) ?_ | apply State.uncountOf_memOk | apply foldl_memOk | apply foldl_fst_memOk | dsimp only | split | intro)

theorem State.orphanSems_memOk (s : State) (f : Nat) (hs : Memory.wf (State.mem s) = true) : Memory.wf (State.mem (State.orphanSems s f)) = true := by
  unfold State.orphanSems
  repeat' with_reducible (first | assumption | refine memOk_fst (by assumption) ?_ | apply foldl_memOk | apply foldl_fst_memOk | dsimp only | split | intro)

theorem State.orphan_memOk (s : State) (f g : Nat) (hs : Memory.wf (State.mem s) = true) : Memory.wf (State.mem (State.orphan s f g)) = true := by
  unfold State.orphan
  repeat' with_reducible (first | assumption | refine memOk_fst (by assumption) ?_ | apply State.orphanRecs_memOk | apply State.orphanEngine_memOk | apply State.orphanCat_memOk | apply State.orphanWrites_memOk | apply State.orphanSems_memOk | apply foldl_memOk | apply foldl_fst_memOk | dsimp only | split | intro)

theorem State.prefetch_memOk (s : State) (p i : Nat) (l : List XOk) (hs : Memory.wf (State.mem s) = true) : Memory.wf (State.mem (State.prefetch s p i l)) = true := by
  unfold State.prefetch
  dsimp only
  split
  · exact hs
  · split
    · exact hs
    · exact State.modCore_memOk _ _ _ hs

theorem State.fetchBytes_memOk (s : State) (p i : Nat) (w : Who) (pc : VAddr) (n : Nat) (hs : Memory.wf (State.mem s) = true) : Memory.wf (State.mem (State.fetchBytes s p i w pc n).1) = true := by
  unfold State.fetchBytes
  repeat' with_reducible (first | assumption | refine memOk_fst (by assumption) ?_ | apply State.drawn_memOk | apply State.verify_memOk | apply State.xlateSpan_memOk | apply State.prefetch_memOk | apply foldl_memOk | apply foldl_fst_memOk | dsimp only | split | intro)

theorem State.fetch_memOk (s : State) (p i : Nat) (h : Hart) (hs : Memory.wf (State.mem s) = true) : Memory.wf (State.mem (State.fetch s p i h).1) = true := by
  unfold State.fetch
  repeat' with_reducible (first | assumption | refine memOk_fst (by assumption) ?_ | apply State.fetchBytes_memOk | apply foldl_memOk | apply foldl_fst_memOk | dsimp only | split | intro)

theorem State.stopAt_memOk (s : State) (p i : Nat) (h : Hart) (l : List Slot) (pc0 cont : VAddr) (t : TrapReq) (hs : Memory.wf (State.mem s) = true) : Memory.wf (State.mem (State.stopAt s p i h l pc0 cont t)) = true := by
  unfold State.stopAt
  repeat' with_reducible (first | assumption | refine memOk_fst (by assumption) ?_ | apply State.setHart_memOk | apply State.enterTrap_memOk | apply foldl_memOk | apply foldl_fst_memOk | dsimp only | split | intro)

theorem State.openWith_memOk (s : State) (p i : Nat) (h : Hart) (l reps : List Slot) (hdr : BitVec 32) (pc0 npc : VAddr) (again crl : Bool) (hs : Memory.wf (State.mem s) = true) : Memory.wf (State.mem (State.openWith s p i h l reps hdr pc0 npc again crl)) = true := by
  unfold State.openWith
  repeat' with_reducible (first | assumption | refine memOk_fst (by assumption) ?_ | apply State.setHart_memOk | apply foldl_memOk | apply foldl_fst_memOk | dsimp only | split | intro)

theorem State.walked_memOk (s : State) (w : Option (Who × VAddr × Nat × Acc)) (bad : Bool) (hs : Memory.wf (State.mem s) = true) : Memory.wf (State.mem (State.walked s w bad)) = true := by
  unfold State.walked
  repeat' with_reducible (first | assumption | refine memOk_fst (by assumption) ?_ | apply State.verify_memOk | apply State.xlateSpan_memOk | apply foldl_memOk | apply foldl_fst_memOk | dsimp only | split | intro)

theorem State.trapAll_memOk (s : State) (walk : Option (Who × VAddr × Nat × Acc)) (t : TrapReq) (hs : Memory.wf (State.mem s) = true) : Memory.wf (State.mem (State.trapAll s walk t)) = true := by
  unfold State.trapAll
  repeat' with_reducible (first | assumption | refine memOk_fst (by assumption) ?_ | apply State.modHart_memOk | apply State.enterTrap_memOk | apply State.walk_memOk | apply State.walked_memOk | apply foldl_memOk | apply foldl_fst_memOk | dsimp only | split | intro)

theorem State.openAgain_memOk (s : State) (p i : Nat) (h : Hart) (hs : Memory.wf s.mem = true) : Opened.MemOk (s.openAgain p i h) := by
  unfold State.openAgain
  repeat' with_reducible (first | exact Opened.none_memOk | assumption | refine memOk_fst (by assumption) ?_ | apply Opened.ite_memOk | apply Opened.go_memOk | apply Opened.trap_memOk | apply State.fetch_memOk | apply State.stopAt_memOk | apply State.openWith_memOk | apply State.trapAll_memOk | dsimp only | split | intro)

theorem State.openReplay_memOk (s : State) (p i : Nat) (h : Hart) (hs : Memory.wf s.mem = true) : Opened.MemOk (s.openReplay p i h) := by
  unfold State.openReplay
  repeat' with_reducible (first | exact Opened.none_memOk | assumption | refine memOk_fst (by assumption) ?_ | apply Opened.ite_memOk | apply Opened.go_memOk | apply Opened.trap_memOk | apply State.fetch_memOk | apply State.stopAt_memOk | apply State.openWith_memOk | apply State.trapAll_memOk | dsimp only | split | intro)

theorem State.openFetched_memOk (s : State) (p i : Nat) (h : Hart) (hs : Memory.wf s.mem = true) : Opened.MemOk (s.openFetched p i h) := by
  unfold State.openFetched
  repeat' with_reducible (first | exact Opened.none_memOk | assumption | refine memOk_fst (by assumption) ?_ | apply Opened.ite_memOk | apply Opened.go_memOk | apply Opened.trap_memOk | apply State.fetch_memOk | apply State.stopAt_memOk | apply State.openWith_memOk | apply State.trapAll_memOk | dsimp only | split | intro)

theorem State.openAside_memOk (s : State) (p i : Nat) (h : Hart) (hs : Memory.wf s.mem = true) : Opened.MemOk (s.openAside p i h) := by
  exact hs

theorem State.openPending_memOk (s : State) (p i : Nat) (h : Hart) (hs : Memory.wf s.mem = true) : Opened.MemOk (s.openPending p i h) := by
  unfold State.openPending
  repeat' with_reducible (first | exact Opened.none_memOk | assumption | refine memOk_fst (by assumption) ?_ | apply Opened.ite_memOk | apply Opened.go_memOk | apply Opened.trap_memOk | apply State.fetch_memOk | apply State.stopAt_memOk | apply State.openWith_memOk | apply State.trapAll_memOk | dsimp only | split | intro)

theorem State.openVector_memOk (s : State) (p i : Nat) (h : Hart) (v : VPend) (hs : Memory.wf s.mem = true) : Opened.MemOk (s.openVector p i h v) := by
  exact hs

theorem State.openNext_memOk (s : State) (p i : Nat) (hs : Memory.wf s.mem = true) : Opened.MemOk (s.openNext p i) := by
  unfold State.openNext
  repeat' with_reducible (first | exact Opened.none_memOk | apply Opened.ite_memOk | apply State.openAgain_memOk | apply State.openReplay_memOk | apply State.openFetched_memOk | apply State.openPending_memOk | apply State.openAside_memOk | apply State.openVector_memOk | assumption | split)

theorem State.issuePacket_memOk (s : State) (p i : Nat) (hs : Memory.wf s.mem = true) : Memory.wf (State.mem (s.issuePacket p i)) = true := by
  have H := State.openNext_memOk s p i hs
  unfold State.issuePacket
  split
  · exact State.settle_memOk _ _ _ hs
  · rename_i e; rw [e] at H; exact H
  · rename_i e; rw [e] at H; exact H

theorem State.record_memOk (s : State) (hs : Memory.wf (State.mem s) = true) : Memory.wf (State.mem (State.record s)) = true := by
  unfold State.record
  repeat' with_reducible (first | assumption | refine memOk_fst (by assumption) ?_ | apply State.modCur_memOk | apply State.pend_memOk | apply foldl_memOk | apply foldl_fst_memOk | dsimp only | split | intro)

theorem State.waitAll_memOk (s t : State) (hs : Memory.wf (State.mem s) = true) (ht : Memory.wf (State.mem t) = true) : Memory.wf (State.mem (State.waitAll s t)) = true := by
  unfold State.waitAll
  repeat' with_reducible (first | assumption | refine memOk_fst (by assumption) ?_ | apply State.modHart_memOk | apply State.walk_memOk | apply State.grow_memOk | apply State.growKept_memOk | apply State.walked_memOk | apply foldl_memOk | apply foldl_fst_memOk | dsimp only | split | intro)

theorem State.moveTokens_memOk (s : State) (p i : Nat) (hdr : BitVec 32) (lo due : Nat) (hs : Memory.wf s.mem = true) : Memory.wf (State.mem (s.moveTokens p i hdr lo due)) = true := by
  unfold State.moveTokens
  have h1 : Memory.wf (State.mem (if hPop hdr then s.modFifo p (hTf hdr) (·.pop s.cycle) else s)) = true := by split <;> exact hs
  dsimp only
  split
  · exact State.modHart_memOk _ _ _ _ h1
  · exact h1

theorem State.emptyFront_memOk (s : State) (p i : Nat) (go : Bool) (hs : Memory.wf (State.mem s) = true) : Memory.wf (State.mem (State.emptyFront s p i go)) = true := by
  unfold State.emptyFront
  split
  · exact State.modCore_memOk _ _ _ hs
  · exact hs

theorem State.finish_memOk (s t : State) (h0 : Hart) (hs : Memory.wf (State.mem s) = true) (ht : Memory.wf (State.mem t) = true) : Memory.wf (State.mem (State.finish s t h0)) = true := by
  unfold State.finish
  repeat' with_reducible (first | assumption | refine memOk_fst (by assumption) ?_ | apply State.modCore_memOk | apply State.modHart_memOk | apply State.gangRuns_memOk | apply State.settle_memOk | apply State.moveTokens_memOk | apply State.emptyFront_memOk | apply foldl_memOk | apply foldl_fst_memOk | dsimp only | split | intro)

theorem State.afterPending_memOk (s t : State) (h : Hart) (hs : Memory.wf (State.mem s) = true) (ht : Memory.wf (State.mem t) = true) : Memory.wf (State.mem (State.afterPending s t h)) = true := by
  unfold State.afterPending
  repeat' with_reducible (first | assumption | refine memOk_fst (by assumption) ?_ | apply State.modHart_memOk | apply State.pend_memOk | apply State.gangRuns_memOk | apply State.settle_memOk | apply foldl_memOk | apply foldl_fst_memOk | dsimp only | split | intro)

theorem State.jump_memOk (s : State) (t : VAddr) (hs : Memory.wf (State.mem s) = true) : Memory.wf (State.mem (State.jump s t)) = true := by
  unfold State.jump
  repeat' with_reducible (first | assumption | refine memOk_fst (by assumption) ?_ | apply foldl_memOk | apply foldl_fst_memOk | dsimp only | split | intro)

end Sys2Proof.Machine
end

