-- ==== Sys2Proof/Laws/PerInstr.lean ====
section
/-! SUPPORT. Per instruction (family Codec): the decoder reads back, from the word that the encoder gives a well-formed slot, that slot. -/
namespace Sys2Proof.Laws.Codec
open Sys2Proof
set_option Elab.async false

/-- The opcode map of the instruction's class gives the instruction back from its word. -/
def Statement (i : Instr) : Prop := i.wf = true → ∀ c, i.cls = some c → decodeOp c (fldN (encode i) 63 56) (encode i) = some i

theorem add (f : SR) : Statement (.add f) := by
  intro _ c hc; cases hc
  have h : fldN (encode (.add f)) 63 56 = 1 := f.op_enc 0x01#8
  rw [h]; exact congrArg (some ∘ Instr.add) (f.of_enc 0x01#8)
theorem sub (f : SR) : Statement (.sub f) := by
  intro _ c hc; cases hc
  have h : fldN (encode (.sub f)) 63 56 = 2 := f.op_enc 0x02#8
  rw [h]; exact congrArg (some ∘ Instr.sub) (f.of_enc 0x02#8)
theorem mul (f : SR) : Statement (.mul f) := by
  intro _ c hc; cases hc
  have h : fldN (encode (.mul f)) 63 56 = 3 := f.op_enc 0x03#8
  rw [h]; exact congrArg (some ∘ Instr.mul) (f.of_enc 0x03#8)
theorem mulh (f : SR) : Statement (.mulh f) := by
  intro _ c hc; cases hc
  have h : fldN (encode (.mulh f)) 63 56 = 4 := f.op_enc 0x04#8
  rw [h]; exact congrArg (some ∘ Instr.mulh) (f.of_enc 0x04#8)
theorem mulhu (f : SR) : Statement (.mulhu f) := by
  intro _ c hc; cases hc
  have h : fldN (encode (.mulhu f)) 63 56 = 5 := f.op_enc 0x05#8
  rw [h]; exact congrArg (some ∘ Instr.mulhu) (f.of_enc 0x05#8)
theorem div (f : SR) : Statement (.div f) := by
  intro _ c hc; cases hc
  have h : fldN (encode (.div f)) 63 56 = 6 := f.op_enc 0x06#8
  rw [h]; exact congrArg (some ∘ Instr.div) (f.of_enc 0x06#8)
theorem divu (f : SR) : Statement (.divu f) := by
  intro _ c hc; cases hc
  have h : fldN (encode (.divu f)) 63 56 = 7 := f.op_enc 0x07#8
  rw [h]; exact congrArg (some ∘ Instr.divu) (f.of_enc 0x07#8)
theorem rem (f : SR) : Statement (.rem f) := by
  intro _ c hc; cases hc
  have h : fldN (encode (.rem f)) 63 56 = 8 := f.op_enc 0x08#8
  rw [h]; exact congrArg (some ∘ Instr.rem) (f.of_enc 0x08#8)
theorem remu (f : SR) : Statement (.remu f) := by
  intro _ c hc; cases hc
  have h : fldN (encode (.remu f)) 63 56 = 9 := f.op_enc 0x09#8
  rw [h]; exact congrArg (some ∘ Instr.remu) (f.of_enc 0x09#8)
theorem and (f : SR) : Statement (.and f) := by
  intro _ c hc; cases hc
  have h : fldN (encode (.and f)) 63 56 = 10 := f.op_enc 0x0A#8
  rw [h]; exact congrArg (some ∘ Instr.and) (f.of_enc 0x0A#8)
theorem or (f : SR) : Statement (.or f) := by
  intro _ c hc; cases hc
  have h : fldN (encode (.or f)) 63 56 = 11 := f.op_enc 0x0B#8
  rw [h]; exact congrArg (some ∘ Instr.or) (f.of_enc 0x0B#8)
theorem xor (f : SR) : Statement (.xor f) := by
  intro _ c hc; cases hc
  have h : fldN (encode (.xor f)) 63 56 = 12 := f.op_enc 0x0C#8
  rw [h]; exact congrArg (some ∘ Instr.xor) (f.of_enc 0x0C#8)
theorem shl (f : SR) : Statement (.shl f) := by
  intro _ c hc; cases hc
  have h : fldN (encode (.shl f)) 63 56 = 13 := f.op_enc 0x0D#8
  rw [h]; exact congrArg (some ∘ Instr.shl) (f.of_enc 0x0D#8)
theorem shr (f : SR) : Statement (.shr f) := by
  intro _ c hc; cases hc
  have h : fldN (encode (.shr f)) 63 56 = 14 := f.op_enc 0x0E#8
  rw [h]; exact congrArg (some ∘ Instr.shr) (f.of_enc 0x0E#8)
theorem sra (f : SR) : Statement (.sra f) := by
  intro _ c hc; cases hc
  have h : fldN (encode (.sra f)) 63 56 = 15 := f.op_enc 0x0F#8
  rw [h]; exact congrArg (some ∘ Instr.sra) (f.of_enc 0x0F#8)
theorem addi (f : SI) : Statement (.addi f) := by
  intro _ c hc; cases hc
  have h : fldN (encode (.addi f)) 63 56 = 16 := f.op_enc 0x10#8
  rw [h]; exact congrArg (some ∘ Instr.addi) (f.of_enc 0x10#8)
theorem andi (f : SI) : Statement (.andi f) := by
  intro _ c hc; cases hc
  have h : fldN (encode (.andi f)) 63 56 = 17 := f.op_enc 0x11#8
  rw [h]; exact congrArg (some ∘ Instr.andi) (f.of_enc 0x11#8)
theorem ori (f : SI) : Statement (.ori f) := by
  intro _ c hc; cases hc
  have h : fldN (encode (.ori f)) 63 56 = 18 := f.op_enc 0x12#8
  rw [h]; exact congrArg (some ∘ Instr.ori) (f.of_enc 0x12#8)
theorem xori (f : SI) : Statement (.xori f) := by
  intro _ c hc; cases hc
  have h : fldN (encode (.xori f)) 63 56 = 19 := f.op_enc 0x13#8
  rw [h]; exact congrArg (some ∘ Instr.xori) (f.of_enc 0x13#8)
theorem shli (f : SI) : Statement (.shli f) := by
  intro _ c hc; cases hc
  have h : fldN (encode (.shli f)) 63 56 = 20 := f.op_enc 0x14#8
  rw [h]; exact congrArg (some ∘ Instr.shli) (f.of_enc 0x14#8)
theorem shri (f : SI) : Statement (.shri f) := by
  intro _ c hc; cases hc
  have h : fldN (encode (.shri f)) 63 56 = 21 := f.op_enc 0x15#8
  rw [h]; exact congrArg (some ∘ Instr.shri) (f.of_enc 0x15#8)
theorem srai (f : SI) : Statement (.srai f) := by
  intro _ c hc; cases hc
  have h : fldN (encode (.srai f)) 63 56 = 22 := f.op_enc 0x16#8
  rw [h]; exact congrArg (some ∘ Instr.srai) (f.of_enc 0x16#8)
theorem lui (f : SI) : Statement (.lui f) := by
  intro _ c hc; cases hc
  have h : fldN (encode (.lui f)) 63 56 = 23 := f.op_enc 0x17#8
  rw [h]; exact congrArg (some ∘ Instr.lui) (f.of_enc 0x17#8)
theorem seq (f : SR) : Statement (.seq f) := by
  intro _ c hc; cases hc
  have h : fldN (encode (.seq f)) 63 56 = 24 := f.op_enc 0x18#8
  rw [h]; exact congrArg (some ∘ Instr.seq) (f.of_enc 0x18#8)
theorem sne (f : SR) : Statement (.sne f) := by
  intro _ c hc; cases hc
  have h : fldN (encode (.sne f)) 63 56 = 25 := f.op_enc 0x19#8
  rw [h]; exact congrArg (some ∘ Instr.sne) (f.of_enc 0x19#8)
theorem slt (f : SR) : Statement (.slt f) := by
  intro _ c hc; cases hc
  have h : fldN (encode (.slt f)) 63 56 = 26 := f.op_enc 0x1A#8
  rw [h]; exact congrArg (some ∘ Instr.slt) (f.of_enc 0x1A#8)
theorem sltu (f : SR) : Statement (.sltu f) := by
  intro _ c hc; cases hc
  have h : fldN (encode (.sltu f)) 63 56 = 27 := f.op_enc 0x1B#8
  rw [h]; exact congrArg (some ∘ Instr.sltu) (f.of_enc 0x1B#8)
theorem sle (f : SR) : Statement (.sle f) := by
  intro _ c hc; cases hc
  have h : fldN (encode (.sle f)) 63 56 = 28 := f.op_enc 0x1C#8
  rw [h]; exact congrArg (some ∘ Instr.sle) (f.of_enc 0x1C#8)
theorem sleu (f : SR) : Statement (.sleu f) := by
  intro _ c hc; cases hc
  have h : fldN (encode (.sleu f)) 63 56 = 29 := f.op_enc 0x1D#8
  rw [h]; exact congrArg (some ∘ Instr.sleu) (f.of_enc 0x1D#8)
theorem min (f : SR) : Statement (.min f) := by
  intro _ c hc; cases hc
  have h : fldN (encode (.min f)) 63 56 = 30 := f.op_enc 0x1E#8
  rw [h]; exact congrArg (some ∘ Instr.min) (f.of_enc 0x1E#8)
theorem max (f : SR) : Statement (.max f) := by
  intro _ c hc; cases hc
  have h : fldN (encode (.max f)) 63 56 = 31 := f.op_enc 0x1F#8
  rw [h]; exact congrArg (some ∘ Instr.max) (f.of_enc 0x1F#8)
theorem aadd (f : SR) : Statement (.aadd f) := by
  intro _ c hc; cases hc
  have h : fldN (encode (.aadd f)) 63 56 = 32 := f.op_enc 0x20#8
  rw [h]; exact congrArg (some ∘ Instr.aadd) (f.of_enc 0x20#8)
theorem aaddi (f : SI) : Statement (.aaddi f) := by
  intro _ c hc; cases hc
  have h : fldN (encode (.aaddi f)) 63 56 = 33 := f.op_enc 0x21#8
  rw [h]; exact congrArg (some ∘ Instr.aaddi) (f.of_enc 0x21#8)
theorem asub (f : SR) : Statement (.asub f) := by
  intro _ c hc; cases hc
  have h : fldN (encode (.asub f)) 63 56 = 34 := f.op_enc 0x22#8
  rw [h]; exact congrArg (some ∘ Instr.asub) (f.of_enc 0x22#8)
theorem amovg (f : SR) : Statement (.amovg f) := by
  intro _ c hc; cases hc
  have h : fldN (encode (.amovg f)) 63 56 = 35 := f.op_enc 0x23#8
  rw [h]; exact congrArg (some ∘ Instr.amovg) (f.of_enc 0x23#8)
theorem amova (f : SR) : Statement (.amova f) := by
  intro _ c hc; cases hc
  have h : fldN (encode (.amova f)) 63 56 = 36 := f.op_enc 0x24#8
  rw [h]; exact congrArg (some ∘ Instr.amova) (f.of_enc 0x24#8)
theorem ahi (f : SI) : Statement (.ahi f) := by
  intro _ c hc; cases hc
  have h : fldN (encode (.ahi f)) 63 56 = 37 := f.op_enc 0x25#8
  rw [h]; exact congrArg (some ∘ Instr.ahi) (f.of_enc 0x25#8)
theorem ahig (f : SR) : Statement (.ahig f) := by
  intro _ c hc; cases hc
  have h : fldN (encode (.ahig f)) 63 56 = 38 := f.op_enc 0x26#8
  rw [h]; exact congrArg (some ∘ Instr.ahig) (f.of_enc 0x26#8)
theorem fadd (f : SR) : Statement (.fadd f) := by
  intro _ c hc; cases hc
  have h : fldN (encode (.fadd f)) 63 56 = 40 := f.op_enc 0x28#8
  rw [h]; exact congrArg (some ∘ Instr.fadd) (f.of_enc 0x28#8)
theorem fsub (f : SR) : Statement (.fsub f) := by
  intro _ c hc; cases hc
  have h : fldN (encode (.fsub f)) 63 56 = 41 := f.op_enc 0x29#8
  rw [h]; exact congrArg (some ∘ Instr.fsub) (f.of_enc 0x29#8)
theorem fmul (f : SR) : Statement (.fmul f) := by
  intro _ c hc; cases hc
  have h : fldN (encode (.fmul f)) 63 56 = 42 := f.op_enc 0x2A#8
  rw [h]; exact congrArg (some ∘ Instr.fmul) (f.of_enc 0x2A#8)
theorem ffma (f : SR) : Statement (.ffma f) := by
  intro _ c hc; cases hc
  have h : fldN (encode (.ffma f)) 63 56 = 43 := f.op_enc 0x2B#8
  rw [h]; exact congrArg (some ∘ Instr.ffma) (f.of_enc 0x2B#8)
theorem fdiv (f : SR) : Statement (.fdiv f) := by
  intro _ c hc; cases hc
  have h : fldN (encode (.fdiv f)) 63 56 = 44 := f.op_enc 0x2C#8
  rw [h]; exact congrArg (some ∘ Instr.fdiv) (f.of_enc 0x2C#8)
theorem fsqrt (f : SR) : Statement (.fsqrt f) := by
  intro _ c hc; cases hc
  have h : fldN (encode (.fsqrt f)) 63 56 = 45 := f.op_enc 0x2D#8
  rw [h]; exact congrArg (some ∘ Instr.fsqrt) (f.of_enc 0x2D#8)
theorem fmin (f : SR) : Statement (.fmin f) := by
  intro _ c hc; cases hc
  have h : fldN (encode (.fmin f)) 63 56 = 46 := f.op_enc 0x2E#8
  rw [h]; exact congrArg (some ∘ Instr.fmin) (f.of_enc 0x2E#8)
theorem fmax (f : SR) : Statement (.fmax f) := by
  intro _ c hc; cases hc
  have h : fldN (encode (.fmax f)) 63 56 = 47 := f.op_enc 0x2F#8
  rw [h]; exact congrArg (some ∘ Instr.fmax) (f.of_enc 0x2F#8)
theorem fcmpeq (f : SR) : Statement (.fcmpeq f) := by
  intro _ c hc; cases hc
  have h : fldN (encode (.fcmpeq f)) 63 56 = 48 := f.op_enc 0x30#8
  rw [h]; exact congrArg (some ∘ Instr.fcmpeq) (f.of_enc 0x30#8)
theorem fcmplt (f : SR) : Statement (.fcmplt f) := by
  intro _ c hc; cases hc
  have h : fldN (encode (.fcmplt f)) 63 56 = 49 := f.op_enc 0x31#8
  rw [h]; exact congrArg (some ∘ Instr.fcmplt) (f.of_enc 0x31#8)
theorem fcmple (f : SR) : Statement (.fcmple f) := by
  intro _ c hc; cases hc
  have h : fldN (encode (.fcmple f)) 63 56 = 50 := f.op_enc 0x32#8
  rw [h]; exact congrArg (some ∘ Instr.fcmple) (f.of_enc 0x32#8)
theorem fcvtI (f : SR) : Statement (.fcvtI f) := by
  intro _ c hc; cases hc
  have h : fldN (encode (.fcvtI f)) 63 56 = 51 := f.op_enc 0x33#8
  rw [h]; exact congrArg (some ∘ Instr.fcvtI) (f.of_enc 0x33#8)
theorem fcvtF (f : SR) : Statement (.fcvtF f) := by
  intro _ c hc; cases hc
  have h : fldN (encode (.fcvtF f)) 63 56 = 52 := f.op_enc 0x34#8
  rw [h]; exact congrArg (some ∘ Instr.fcvtF) (f.of_enc 0x34#8)
theorem fclass (f : SR) : Statement (.fclass f) := by
  intro _ c hc; cases hc
  have h : fldN (encode (.fclass f)) 63 56 = 53 := f.op_enc 0x35#8
  rw [h]; exact congrArg (some ∘ Instr.fclass) (f.of_enc 0x35#8)
theorem beq (f : SB) : Statement (.beq f) := by
  intro _ c hc; cases hc
  have h : fldN (encode (.beq f)) 63 56 = 80 := f.op_enc 0x50#8
  rw [h]; exact congrArg (some ∘ Instr.beq) (f.of_enc 0x50#8)
theorem bne (f : SB) : Statement (.bne f) := by
  intro _ c hc; cases hc
  have h : fldN (encode (.bne f)) 63 56 = 81 := f.op_enc 0x51#8
  rw [h]; exact congrArg (some ∘ Instr.bne) (f.of_enc 0x51#8)
theorem blt (f : SB) : Statement (.blt f) := by
  intro _ c hc; cases hc
  have h : fldN (encode (.blt f)) 63 56 = 82 := f.op_enc 0x52#8
  rw [h]; exact congrArg (some ∘ Instr.blt) (f.of_enc 0x52#8)
theorem bltu (f : SB) : Statement (.bltu f) := by
  intro _ c hc; cases hc
  have h : fldN (encode (.bltu f)) 63 56 = 83 := f.op_enc 0x53#8
  rw [h]; exact congrArg (some ∘ Instr.bltu) (f.of_enc 0x53#8)
theorem bge (f : SB) : Statement (.bge f) := by
  intro _ c hc; cases hc
  have h : fldN (encode (.bge f)) 63 56 = 84 := f.op_enc 0x54#8
  rw [h]; exact congrArg (some ∘ Instr.bge) (f.of_enc 0x54#8)
theorem bgeu (f : SB) : Statement (.bgeu f) := by
  intro _ c hc; cases hc
  have h : fldN (encode (.bgeu f)) 63 56 = 85 := f.op_enc 0x55#8
  rw [h]; exact congrArg (some ∘ Instr.bgeu) (f.of_enc 0x55#8)
theorem bz (f : SB) : Statement (.bz f) := by
  intro _ c hc; cases hc
  have h : fldN (encode (.bz f)) 63 56 = 86 := f.op_enc 0x56#8
  rw [h]; exact congrArg (some ∘ Instr.bz) (f.of_enc 0x56#8)
theorem bnz (f : SB) : Statement (.bnz f) := by
  intro _ c hc; cases hc
  have h : fldN (encode (.bnz f)) 63 56 = 87 := f.op_enc 0x57#8
  rw [h]; exact congrArg (some ∘ Instr.bnz) (f.of_enc 0x57#8)
theorem jmp (f : SB) : Statement (.jmp f) := by
  intro _ c hc; cases hc
  have h : fldN (encode (.jmp f)) 63 56 = 88 := f.op_enc 0x58#8
  rw [h]; exact congrArg (some ∘ Instr.jmp) (f.of_enc 0x58#8)
theorem jal (f : SB) : Statement (.jal f) := by
  intro _ c hc; cases hc
  have h : fldN (encode (.jal f)) 63 56 = 89 := f.op_enc 0x59#8
  rw [h]; exact congrArg (some ∘ Instr.jal) (f.of_enc 0x59#8)
theorem jr (f : SB) : Statement (.jr f) := by
  intro _ c hc; cases hc
  have h : fldN (encode (.jr f)) 63 56 = 90 := f.op_enc 0x5A#8
  rw [h]; exact congrArg (some ∘ Instr.jr) (f.of_enc 0x5A#8)
theorem ret (f : SB) : Statement (.ret f) := by
  intro _ c hc; cases hc
  have h : fldN (encode (.ret f)) 63 56 = 91 := f.op_enc 0x5B#8
  rw [h]; exact congrArg (some ∘ Instr.ret) (f.of_enc 0x5B#8)
theorem movs (f : SC) : Statement (.movs f) := by
  intro _ c hc; cases hc
  have h : fldN (encode (.movs f)) 63 56 = 96 := f.op_enc 0x60#8
  rw [h]; exact congrArg (some ∘ Instr.movs) (f.of_enc 0x60#8)
theorem movd (f : SC) : Statement (.movd f) := by
  intro _ c hc; cases hc
  have h : fldN (encode (.movd f)) 63 56 = 97 := f.op_enc 0x61#8
  rw [h]; exact congrArg (some ∘ Instr.movd) (f.of_enc 0x61#8)
theorem setvl (f : SR) : Statement (.setvl f) := by
  intro _ c hc; cases hc
  have h : fldN (encode (.setvl f)) 63 56 = 98 := f.op_enc 0x62#8
  rw [h]; exact congrArg (some ∘ Instr.setvl) (f.of_enc 0x62#8)
theorem setmvl (f : SR) : Statement (.setmvl f) := by
  intro _ c hc; cases hc
  have h : fldN (encode (.setmvl f)) 63 56 = 99 := f.op_enc 0x63#8
  rw [h]; exact congrArg (some ∘ Instr.setmvl) (f.of_enc 0x63#8)
theorem semts (f : SI) : Statement (.semts f) := by
  intro w c hc; cases hc
  have h : fldN (encode (.semts f)) 63 56 = 112 := f.op_enc 0x70#8
  have e : (encode (.semts f)).toNat = _ := f.enc_toNat 0x70#8
  have b : (encode (.semts f)).getLsbD 5 = false := by
    have := f.d.isLt; have := f.s1.isLt; have := f.imm.isLt
    simp [Instr.wf, Instr.unused, Instr.values] at w
    rw [getLsbD_digit, e]; simp; omega
  have d : decodeOp .S 112 (encode (.semts f)) = some (if (encode (.semts f)).getLsbD 5 then .semtsTry (.of (encode (.semts f))) else .semts (.of (encode (.semts f)))) := rfl
  rw [h, d, b]; exact congrArg (some ∘ Instr.semts) (f.of_enc 0x70#8)
theorem semtsTry (f : SI) : Statement (.semtsTry f) := by
  intro w c hc; cases hc
  have h : fldN (encode (.semtsTry f)) 63 56 = 112 := f.op_enc 0x70#8
  have e : (encode (.semtsTry f)).toNat = _ := f.enc_toNat 0x70#8
  have b : (encode (.semtsTry f)).getLsbD 5 = true := by
    have := f.d.isLt; have := f.s1.isLt; have := f.imm.isLt
    simp [Instr.wf, Instr.unused, Instr.values] at w
    rw [getLsbD_digit, e]; simp; omega
  have d : decodeOp .S 112 (encode (.semtsTry f)) = some (if (encode (.semtsTry f)).getLsbD 5 then .semtsTry (.of (encode (.semtsTry f))) else .semts (.of (encode (.semtsTry f)))) := rfl
  rw [h, d, b]; exact congrArg (some ∘ Instr.semtsTry) (f.of_enc 0x70#8)
theorem semclr (f : SR) : Statement (.semclr f) := by
  intro _ c hc; cases hc
  have h : fldN (encode (.semclr f)) 63 56 = 113 := f.op_enc 0x71#8
  rw [h]; exact congrArg (some ∘ Instr.semclr) (f.of_enc 0x71#8)
theorem cmrd (f : SR) : Statement (.cmrd f) := by
  intro _ c hc; cases hc
  have h : fldN (encode (.cmrd f)) 63 56 = 114 := f.op_enc 0x72#8
  rw [h]; exact congrArg (some ∘ Instr.cmrd) (f.of_enc 0x72#8)
theorem cmwr (f : SR) : Statement (.cmwr f) := by
  intro _ c hc; cases hc
  have h : fldN (encode (.cmwr f)) 63 56 = 115 := f.op_enc 0x73#8
  rw [h]; exact congrArg (some ∘ Instr.cmwr) (f.of_enc 0x73#8)
theorem barwait (f : SI) : Statement (.barwait f) := by
  intro w c hc; cases hc
  have h : fldN (encode (.barwait f)) 63 56 = 116 := f.op_enc 0x74#8
  have e : (encode (.barwait f)).toNat = _ := f.enc_toNat 0x74#8
  have b : (encode (.barwait f)).getLsbD 7 = false := by
    have := f.d.isLt; have := f.s1.isLt; have := f.imm.isLt
    simp [Instr.wf, Instr.unused, Instr.values] at w
    rw [getLsbD_digit, e]; simp; omega
  have d : decodeOp .S 116 (encode (.barwait f)) = some (if (encode (.barwait f)).getLsbD 7 then .barwaitSet (.of (encode (.barwait f))) else .barwait (.of (encode (.barwait f)))) := rfl
  rw [h, d, b]; exact congrArg (some ∘ Instr.barwait) (f.of_enc 0x74#8)
theorem barwaitSet (f : SI) : Statement (.barwaitSet f) := by
  intro w c hc; cases hc
  have h : fldN (encode (.barwaitSet f)) 63 56 = 116 := f.op_enc 0x74#8
  have e : (encode (.barwaitSet f)).toNat = _ := f.enc_toNat 0x74#8
  have b : (encode (.barwaitSet f)).getLsbD 7 = true := by
    have := f.d.isLt; have := f.s1.isLt; have := f.imm.isLt
    simp [Instr.wf, Instr.unused, Instr.values] at w
    rw [getLsbD_digit, e]; simp; omega
  have d : decodeOp .S 116 (encode (.barwaitSet f)) = some (if (encode (.barwaitSet f)).getLsbD 7 then .barwaitSet (.of (encode (.barwaitSet f))) else .barwait (.of (encode (.barwaitSet f)))) := rfl
  rw [h, d, b]; exact congrArg (some ∘ Instr.barwaitSet) (f.of_enc 0x74#8)
theorem launch (f : SR) : Statement (.launch f) := by
  intro _ c hc; cases hc
  have h : fldN (encode (.launch f)) 63 56 = 117 := f.op_enc 0x75#8
  rw [h]; exact congrArg (some ∘ Instr.launch) (f.of_enc 0x75#8)
theorem signal (f : SR) : Statement (.signal f) := by
  intro _ c hc; cases hc
  have h : fldN (encode (.signal f)) 63 56 = 118 := f.op_enc 0x76#8
  rw [h]; exact congrArg (some ∘ Instr.signal) (f.of_enc 0x76#8)
theorem cancel (f : SR) : Statement (.cancel f) := by
  intro _ c hc; cases hc
  have h : fldN (encode (.cancel f)) 63 56 = 119 := f.op_enc 0x77#8
  rw [h]; exact congrArg (some ∘ Instr.cancel) (f.of_enc 0x77#8)
theorem nwait (f : SR) : Statement (.nwait f) := by
  intro _ c hc; cases hc
  have h : fldN (encode (.nwait f)) 63 56 = 120 := f.op_enc 0x78#8
  rw [h]; exact congrArg (some ∘ Instr.nwait) (f.of_enc 0x78#8)
theorem npost (f : SR) : Statement (.npost f) := by
  intro _ c hc; cases hc
  have h : fldN (encode (.npost f)) 63 56 = 121 := f.op_enc 0x79#8
  rw [h]; exact congrArg (some ∘ Instr.npost) (f.of_enc 0x79#8)
theorem yield (f : SI) : Statement (.yield f) := by
  intro w c hc; cases hc
  have h : fldN (encode (.yield f)) 63 56 = 122 := f.op_enc 0x7A#8
  have e : (encode (.yield f)).toNat = _ := f.enc_toNat 0x7A#8
  have b : (encode (.yield f)).getLsbD 5 = false := by
    have := f.d.isLt; have := f.s1.isLt; have := f.imm.isLt
    simp [Instr.wf, Instr.unused, Instr.values] at w
    rw [getLsbD_digit, e]; simp; omega
  have d : decodeOp .S 122 (encode (.yield f)) = some (if (encode (.yield f)).getLsbD 5 then .yieldGang (.of (encode (.yield f))) else .yield (.of (encode (.yield f)))) := rfl
  rw [h, d, b]; exact congrArg (some ∘ Instr.yield) (f.of_enc 0x7A#8)
theorem yieldGang (f : SI) : Statement (.yieldGang f) := by
  intro w c hc; cases hc
  have h : fldN (encode (.yieldGang f)) 63 56 = 122 := f.op_enc 0x7A#8
  have e : (encode (.yieldGang f)).toNat = _ := f.enc_toNat 0x7A#8
  have b : (encode (.yieldGang f)).getLsbD 5 = true := by
    have := f.d.isLt; have := f.s1.isLt; have := f.imm.isLt
    simp [Instr.wf, Instr.unused, Instr.values] at w
    rw [getLsbD_digit, e]; simp; omega
  have d : decodeOp .S 122 (encode (.yieldGang f)) = some (if (encode (.yieldGang f)).getLsbD 5 then .yieldGang (.of (encode (.yieldGang f))) else .yield (.of (encode (.yieldGang f)))) := rfl
  rw [h, d, b]; exact congrArg (some ∘ Instr.yieldGang) (f.of_enc 0x7A#8)
theorem gexit (f : SR) : Statement (.gexit f) := by
  intro _ c hc; cases hc
  have h : fldN (encode (.gexit f)) 63 56 = 123 := f.op_enc 0x7B#8
  rw [h]; exact congrArg (some ∘ Instr.gexit) (f.of_enc 0x7B#8)
theorem pbcrd (f : SI) : Statement (.pbcrd f) := by
  intro _ c hc; cases hc
  have h : fldN (encode (.pbcrd f)) 63 56 = 124 := f.op_enc 0x7C#8
  rw [h]; exact congrArg (some ∘ Instr.pbcrd) (f.of_enc 0x7C#8)
theorem trap (f : SR) : Statement (.trap f) := by
  intro _ c hc; cases hc
  have h : fldN (encode (.trap f)) 63 56 = 224 := f.op_enc 0xE0#8
  rw [h]; exact congrArg (some ∘ Instr.trap) (f.of_enc 0xE0#8)
theorem eret (f : SR) : Statement (.eret f) := by
  intro _ c hc; cases hc
  have h : fldN (encode (.eret f)) 63 56 = 225 := f.op_enc 0xE1#8
  rw [h]; exact congrArg (some ∘ Instr.eret) (f.of_enc 0xE1#8)
theorem stest (f : SR) : Statement (.stest f) := by
  intro _ c hc; cases hc
  have h : fldN (encode (.stest f)) 63 56 = 226 := f.op_enc 0xE2#8
  rw [h]; exact congrArg (some ∘ Instr.stest) (f.of_enc 0xE2#8)
theorem nop (f : SR) : Statement (.nop f) := by
  intro _ c hc; cases hc
  have h : fldN (encode (.nop f)) 63 56 = 227 := f.op_enc 0xE3#8
  rw [h]; exact congrArg (some ∘ Instr.nop) (f.of_enc 0xE3#8)
theorem frqpop (f : SR) : Statement (.frqpop f) := by
  intro _ c hc; cases hc
  have h : fldN (encode (.frqpop f)) 63 56 = 228 := f.op_enc 0xE4#8
  rw [h]; exact congrArg (some ∘ Instr.frqpop) (f.of_enc 0xE4#8)
theorem ldB (f : LM) : Statement (.ldB f) := by
  intro _ c hc; cases hc
  have h : fldN (encode (.ldB f)) 63 56 = 1 := f.op_enc 0x01#8
  rw [h]; exact congrArg (some ∘ Instr.ldB) (f.of_enc 0x01#8)
theorem ldH (f : LM) : Statement (.ldH f) := by
  intro _ c hc; cases hc
  have h : fldN (encode (.ldH f)) 63 56 = 2 := f.op_enc 0x02#8
  rw [h]; exact congrArg (some ∘ Instr.ldH) (f.of_enc 0x02#8)
theorem ldW (f : LM) : Statement (.ldW f) := by
  intro _ c hc; cases hc
  have h : fldN (encode (.ldW f)) 63 56 = 3 := f.op_enc 0x03#8
  rw [h]; exact congrArg (some ∘ Instr.ldW) (f.of_enc 0x03#8)
theorem ldD (f : LM) : Statement (.ldD f) := by
  intro _ c hc; cases hc
  have h : fldN (encode (.ldD f)) 63 56 = 4 := f.op_enc 0x04#8
  rw [h]; exact congrArg (some ∘ Instr.ldD) (f.of_enc 0x04#8)
theorem lduB (f : LM) : Statement (.lduB f) := by
  intro _ c hc; cases hc
  have h : fldN (encode (.lduB f)) 63 56 = 5 := f.op_enc 0x05#8
  rw [h]; exact congrArg (some ∘ Instr.lduB) (f.of_enc 0x05#8)
theorem lduH (f : LM) : Statement (.lduH f) := by
  intro _ c hc; cases hc
  have h : fldN (encode (.lduH f)) 63 56 = 6 := f.op_enc 0x06#8
  rw [h]; exact congrArg (some ∘ Instr.lduH) (f.of_enc 0x06#8)
theorem lduW (f : LM) : Statement (.lduW f) := by
  intro _ c hc; cases hc
  have h : fldN (encode (.lduW f)) 63 56 = 7 := f.op_enc 0x07#8
  rw [h]; exact congrArg (some ∘ Instr.lduW) (f.of_enc 0x07#8)
theorem stB (f : LM) : Statement (.stB f) := by
  intro _ c hc; cases hc
  have h : fldN (encode (.stB f)) 63 56 = 8 := f.op_enc 0x08#8
  rw [h]; exact congrArg (some ∘ Instr.stB) (f.of_enc 0x08#8)
theorem stH (f : LM) : Statement (.stH f) := by
  intro _ c hc; cases hc
  have h : fldN (encode (.stH f)) 63 56 = 9 := f.op_enc 0x09#8
  rw [h]; exact congrArg (some ∘ Instr.stH) (f.of_enc 0x09#8)
theorem stW (f : LM) : Statement (.stW f) := by
  intro _ c hc; cases hc
  have h : fldN (encode (.stW f)) 63 56 = 10 := f.op_enc 0x0A#8
  rw [h]; exact congrArg (some ∘ Instr.stW) (f.of_enc 0x0A#8)
theorem stD (f : LM) : Statement (.stD f) := by
  intro _ c hc; cases hc
  have h : fldN (encode (.stD f)) 63 56 = 11 := f.op_enc 0x0B#8
  rw [h]; exact congrArg (some ∘ Instr.stD) (f.of_enc 0x0B#8)
theorem lda (f : LM) : Statement (.lda f) := by
  intro _ c hc; cases hc
  have h : fldN (encode (.lda f)) 63 56 = 12 := f.op_enc 0x0C#8
  rw [h]; exact congrArg (some ∘ Instr.lda) (f.of_enc 0x0C#8)
theorem sta (f : LM) : Statement (.sta f) := by
  intro _ c hc; cases hc
  have h : fldN (encode (.sta f)) 63 56 = 13 := f.op_enc 0x0D#8
  rw [h]; exact congrArg (some ∘ Instr.sta) (f.of_enc 0x0D#8)
theorem vld (f : LM) : Statement (.vld f) := by
  intro _ c hc; cases hc
  have h : fldN (encode (.vld f)) 63 56 = 16 := f.op_enc 0x10#8
  rw [h]; exact congrArg (some ∘ Instr.vld) (f.of_enc 0x10#8)
theorem vlds (f : LM) : Statement (.vlds f) := by
  intro _ c hc; cases hc
  have h : fldN (encode (.vlds f)) 63 56 = 17 := f.op_enc 0x11#8
  rw [h]; exact congrArg (some ∘ Instr.vlds) (f.of_enc 0x11#8)
theorem vldseg (f : LM) : Statement (.vldseg f) := by
  intro _ c hc; cases hc
  have h : fldN (encode (.vldseg f)) 63 56 = 18 := f.op_enc 0x12#8
  rw [h]; exact congrArg (some ∘ Instr.vldseg) (f.of_enc 0x12#8)
theorem vldx (f : LM) : Statement (.vldx f) := by
  intro _ c hc; cases hc
  have h : fldN (encode (.vldx f)) 63 56 = 19 := f.op_enc 0x13#8
  rw [h]; exact congrArg (some ∘ Instr.vldx) (f.of_enc 0x13#8)
theorem vldc (f : LM) : Statement (.vldc f) := by
  intro _ c hc; cases hc
  have h : fldN (encode (.vldc f)) 63 56 = 20 := f.op_enc 0x14#8
  rw [h]; exact congrArg (some ∘ Instr.vldc) (f.of_enc 0x14#8)
theorem vpf (f : LM) : Statement (.vpf f) := by
  intro _ c hc; cases hc
  have h : fldN (encode (.vpf f)) 63 56 = 21 := f.op_enc 0x15#8
  rw [h]; exact congrArg (some ∘ Instr.vpf) (f.of_enc 0x15#8)
theorem vst (f : LM) : Statement (.vst f) := by
  intro _ c hc; cases hc
  have h : fldN (encode (.vst f)) 63 56 = 24 := f.op_enc 0x18#8
  rw [h]; exact congrArg (some ∘ Instr.vst) (f.of_enc 0x18#8)
theorem vsts (f : LM) : Statement (.vsts f) := by
  intro _ c hc; cases hc
  have h : fldN (encode (.vsts f)) 63 56 = 25 := f.op_enc 0x19#8
  rw [h]; exact congrArg (some ∘ Instr.vsts) (f.of_enc 0x19#8)
theorem vstseg (f : LM) : Statement (.vstseg f) := by
  intro _ c hc; cases hc
  have h : fldN (encode (.vstseg f)) 63 56 = 26 := f.op_enc 0x1A#8
  rw [h]; exact congrArg (some ∘ Instr.vstseg) (f.of_enc 0x1A#8)
theorem vstx (f : LM) : Statement (.vstx f) := by
  intro _ c hc; cases hc
  have h : fldN (encode (.vstx f)) 63 56 = 27 := f.op_enc 0x1B#8
  rw [h]; exact congrArg (some ∘ Instr.vstx) (f.of_enc 0x1B#8)
theorem drv (f : LM) : Statement (.drv f) := by
  intro _ c hc; cases hc
  have h : fldN (encode (.drv f)) 63 56 = 28 := f.op_enc 0x1C#8
  rw [h]; exact congrArg (some ∘ Instr.drv) (f.of_enc 0x1C#8)
theorem amoadd (f : LM) : Statement (.amoadd f) := by
  intro _ c hc; cases hc
  have h : fldN (encode (.amoadd f)) 63 56 = 32 := f.op_enc 0x20#8
  rw [h]; exact congrArg (some ∘ Instr.amoadd) (f.of_enc 0x20#8)
theorem amomin (f : LM) : Statement (.amomin f) := by
  intro _ c hc; cases hc
  have h : fldN (encode (.amomin f)) 63 56 = 33 := f.op_enc 0x21#8
  rw [h]; exact congrArg (some ∘ Instr.amomin) (f.of_enc 0x21#8)
theorem amomax (f : LM) : Statement (.amomax f) := by
  intro _ c hc; cases hc
  have h : fldN (encode (.amomax f)) 63 56 = 34 := f.op_enc 0x22#8
  rw [h]; exact congrArg (some ∘ Instr.amomax) (f.of_enc 0x22#8)
theorem amoand (f : LM) : Statement (.amoand f) := by
  intro _ c hc; cases hc
  have h : fldN (encode (.amoand f)) 63 56 = 35 := f.op_enc 0x23#8
  rw [h]; exact congrArg (some ∘ Instr.amoand) (f.of_enc 0x23#8)
theorem amoor (f : LM) : Statement (.amoor f) := by
  intro _ c hc; cases hc
  have h : fldN (encode (.amoor f)) 63 56 = 36 := f.op_enc 0x24#8
  rw [h]; exact congrArg (some ∘ Instr.amoor) (f.of_enc 0x24#8)
theorem amoxor (f : LM) : Statement (.amoxor f) := by
  intro _ c hc; cases hc
  have h : fldN (encode (.amoxor f)) 63 56 = 37 := f.op_enc 0x25#8
  rw [h]; exact congrArg (some ∘ Instr.amoxor) (f.of_enc 0x25#8)
theorem amoswp (f : LM) : Statement (.amoswp f) := by
  intro _ c hc; cases hc
  have h : fldN (encode (.amoswp f)) 63 56 = 38 := f.op_enc 0x26#8
  rw [h]; exact congrArg (some ∘ Instr.amoswp) (f.of_enc 0x26#8)
theorem amocas (f : LM) : Statement (.amocas f) := by
  intro _ c hc; cases hc
  have h : fldN (encode (.amocas f)) 63 56 = 39 := f.op_enc 0x27#8
  rw [h]; exact congrArg (some ∘ Instr.amocas) (f.of_enc 0x27#8)
theorem vamoadd (f : LM) : Statement (.vamoadd f) := by
  intro _ c hc; cases hc
  have h : fldN (encode (.vamoadd f)) 63 56 = 40 := f.op_enc 0x28#8
  rw [h]; exact congrArg (some ∘ Instr.vamoadd) (f.of_enc 0x28#8)
theorem vamomin (f : LM) : Statement (.vamomin f) := by
  intro _ c hc; cases hc
  have h : fldN (encode (.vamomin f)) 63 56 = 41 := f.op_enc 0x29#8
  rw [h]; exact congrArg (some ∘ Instr.vamomin) (f.of_enc 0x29#8)
theorem vamomax (f : LM) : Statement (.vamomax f) := by
  intro _ c hc; cases hc
  have h : fldN (encode (.vamomax f)) 63 56 = 42 := f.op_enc 0x2A#8
  rw [h]; exact congrArg (some ∘ Instr.vamomax) (f.of_enc 0x2A#8)
theorem vamoswp (f : LM) : Statement (.vamoswp f) := by
  intro _ c hc; cases hc
  have h : fldN (encode (.vamoswp f)) 63 56 = 43 := f.op_enc 0x2B#8
  rw [h]; exact congrArg (some ∘ Instr.vamoswp) (f.of_enc 0x2B#8)
theorem gll (f : LM) : Statement (.gll f) := by
  intro _ c hc; cases hc
  have h : fldN (encode (.gll f)) 63 56 = 44 := f.op_enc 0x2C#8
  rw [h]; exact congrArg (some ∘ Instr.gll) (f.of_enc 0x2C#8)
theorem scc (f : LM) : Statement (.scc f) := by
  intro _ c hc; cases hc
  have h : fldN (encode (.scc f)) 63 56 = 45 := f.op_enc 0x2D#8
  rw [h]; exact congrArg (some ∘ Instr.scc) (f.of_enc 0x2D#8)
theorem fence (f : LM) : Statement (.fence f) := by
  intro _ c hc; cases hc
  have h : fldN (encode (.fence f)) 63 56 = 48 := f.op_enc 0x30#8
  rw [h]; exact congrArg (some ∘ Instr.fence) (f.of_enc 0x30#8)
theorem bararr (f : LM) : Statement (.bararr f) := by
  intro _ c hc; cases hc
  have h : fldN (encode (.bararr f)) 63 56 = 49 := f.op_enc 0x31#8
  rw [h]; exact congrArg (some ∘ Instr.bararr) (f.of_enc 0x31#8)
theorem cpy (f : LC) : Statement (.cpy f) := by
  intro _ c hc; cases hc
  have h : fldN (encode (.cpy f)) 63 56 = 64 := f.op_enc 0x40#8
  rw [h]; exact congrArg (some ∘ Instr.cpy) (f.of_enc 0x40#8)
theorem cpyx (f : LC) : Statement (.cpyx f) := by
  intro _ c hc; cases hc
  have h : fldN (encode (.cpyx f)) 63 56 = 65 := f.op_enc 0x41#8
  rw [h]; exact congrArg (some ∘ Instr.cpyx) (f.of_enc 0x41#8)
theorem cpym (f : LC) : Statement (.cpym f) := by
  intro _ c hc; cases hc
  have h : fldN (encode (.cpym f)) 63 56 = 66 := f.op_enc 0x42#8
  rw [h]; exact congrArg (some ∘ Instr.cpym) (f.of_enc 0x42#8)
theorem cpyb (f : LC) : Statement (.cpyb f) := by
  intro _ c hc; cases hc
  have h : fldN (encode (.cpyb f)) 63 56 = 67 := f.op_enc 0x43#8
  rw [h]; exact congrArg (some ∘ Instr.cpyb) (f.of_enc 0x43#8)
theorem cpst (f : LC) : Statement (.cpst f) := by
  intro w c hc; cases hc
  have h : fldN (encode (.cpst f)) 63 56 = 68 := f.op_enc 0x44#8
  have e : (encode (.cpst f)).toNat = _ := f.enc_toNat 0x44#8
  have b : (encode (.cpst f)).getLsbD 5 = false := by
    have := f.d.isLt; have := f.a.isLt; have := f.s1.isLt; have := f.s2.isLt; have := f.k.isLt; have := f.sc.isLt; have := f.imm.isLt
    simp [Instr.wf, Instr.unused, Instr.values] at w
    rw [getLsbD_digit, e]; simp; omega
  have d : decodeOp .L 68 (encode (.cpst f)) = some (if (encode (.cpst f)).getLsbD 5 then .cpstWait (.of (encode (.cpst f))) else .cpst (.of (encode (.cpst f)))) := rfl
  rw [h, d, b]; exact congrArg (some ∘ Instr.cpst) (f.of_enc 0x44#8)
theorem cpstWait (f : LC) : Statement (.cpstWait f) := by
  intro w c hc; cases hc
  have h : fldN (encode (.cpstWait f)) 63 56 = 68 := f.op_enc 0x44#8
  have e : (encode (.cpstWait f)).toNat = _ := f.enc_toNat 0x44#8
  have b : (encode (.cpstWait f)).getLsbD 5 = true := by
    have := f.d.isLt; have := f.a.isLt; have := f.s1.isLt; have := f.s2.isLt; have := f.k.isLt; have := f.sc.isLt; have := f.imm.isLt
    simp [Instr.wf, Instr.unused, Instr.values] at w
    rw [getLsbD_digit, e]; simp; omega
  have d : decodeOp .L 68 (encode (.cpstWait f)) = some (if (encode (.cpstWait f)).getLsbD 5 then .cpstWait (.of (encode (.cpstWait f))) else .cpst (.of (encode (.cpstWait f)))) := rfl
  rw [h, d, b]; exact congrArg (some ∘ Instr.cpstWait) (f.of_enc 0x44#8)
theorem catq (f : LC) : Statement (.catq f) := by
  intro _ c hc; cases hc
  have h : fldN (encode (.catq f)) 63 56 = 80 := f.op_enc 0x50#8
  rw [h]; exact congrArg (some ∘ Instr.catq) (f.of_enc 0x50#8)
theorem catu (f : LC) : Statement (.catu f) := by
  intro _ c hc; cases hc
  have h : fldN (encode (.catu f)) 63 56 = 81 := f.op_enc 0x51#8
  rw [h]; exact congrArg (some ∘ Instr.catu) (f.of_enc 0x51#8)
theorem folmap (f : LC) : Statement (.folmap f) := by
  intro w c hc; cases hc
  have h : fldN (encode (.folmap f)) 63 56 = 82 := f.op_enc 0x52#8
  have e : (encode (.folmap f)).toNat = _ := f.enc_toNat 0x52#8
  have b : (encode (.folmap f)).getLsbD 0 = false := by
    have := f.d.isLt; have := f.a.isLt; have := f.s1.isLt; have := f.s2.isLt; have := f.k.isLt; have := f.sc.isLt; have := f.imm.isLt
    simp [Instr.wf, Instr.unused, Instr.values] at w
    rw [getLsbD_digit, e]; simp; omega
  have d : decodeOp .L 82 (encode (.folmap f)) = some (if (encode (.folmap f)).getLsbD 0 then .folmapU (.of (encode (.folmap f))) else .folmap (.of (encode (.folmap f)))) := rfl
  rw [h, d, b]; exact congrArg (some ∘ Instr.folmap) (f.of_enc 0x52#8)
theorem folmapU (f : LC) : Statement (.folmapU f) := by
  intro w c hc; cases hc
  have h : fldN (encode (.folmapU f)) 63 56 = 82 := f.op_enc 0x52#8
  have e : (encode (.folmapU f)).toNat = _ := f.enc_toNat 0x52#8
  have b : (encode (.folmapU f)).getLsbD 0 = true := by
    have := f.d.isLt; have := f.a.isLt; have := f.s1.isLt; have := f.s2.isLt; have := f.k.isLt; have := f.sc.isLt; have := f.imm.isLt
    simp [Instr.wf, Instr.unused, Instr.values] at w
    rw [getLsbD_digit, e]; simp; omega
  have d : decodeOp .L 82 (encode (.folmapU f)) = some (if (encode (.folmapU f)).getLsbD 0 then .folmapU (.of (encode (.folmapU f))) else .folmap (.of (encode (.folmapU f)))) := rfl
  rw [h, d, b]; exact congrArg (some ∘ Instr.folmapU) (f.of_enc 0x52#8)
theorem folref (f : LC) : Statement (.folref f) := by
  intro _ c hc; cases hc
  have h : fldN (encode (.folref f)) 63 56 = 83 := f.op_enc 0x53#8
  rw [h]; exact congrArg (some ∘ Instr.folref) (f.of_enc 0x53#8)
theorem foldrop (f : LC) : Statement (.foldrop f) := by
  intro _ c hc; cases hc
  have h : fldN (encode (.foldrop f)) 63 56 = 84 := f.op_enc 0x54#8
  rw [h]; exact congrArg (some ∘ Instr.foldrop) (f.of_enc 0x54#8)
theorem vadd (f : VV) : Statement (.vadd f) := by
  intro _ c hc; cases hc
  have h : fldN (encode (.vadd f)) 63 56 = 1 := f.op_enc 0x01#8
  rw [h]; exact congrArg (some ∘ Instr.vadd) (f.of_enc 0x01#8)
theorem vsub (f : VV) : Statement (.vsub f) := by
  intro _ c hc; cases hc
  have h : fldN (encode (.vsub f)) 63 56 = 2 := f.op_enc 0x02#8
  rw [h]; exact congrArg (some ∘ Instr.vsub) (f.of_enc 0x02#8)
theorem vmul (f : VV) : Statement (.vmul f) := by
  intro _ c hc; cases hc
  have h : fldN (encode (.vmul f)) 63 56 = 3 := f.op_enc 0x03#8
  rw [h]; exact congrArg (some ∘ Instr.vmul) (f.of_enc 0x03#8)
theorem vfma (f : VV) : Statement (.vfma f) := by
  intro _ c hc; cases hc
  have h : fldN (encode (.vfma f)) 63 56 = 4 := f.op_enc 0x04#8
  rw [h]; exact congrArg (some ∘ Instr.vfma) (f.of_enc 0x04#8)
theorem vfms (f : VV) : Statement (.vfms f) := by
  intro _ c hc; cases hc
  have h : fldN (encode (.vfms f)) 63 56 = 5 := f.op_enc 0x05#8
  rw [h]; exact congrArg (some ∘ Instr.vfms) (f.of_enc 0x05#8)
theorem vfnma (f : VV) : Statement (.vfnma f) := by
  intro _ c hc; cases hc
  have h : fldN (encode (.vfnma f)) 63 56 = 6 := f.op_enc 0x06#8
  rw [h]; exact congrArg (some ∘ Instr.vfnma) (f.of_enc 0x06#8)
theorem vmin (f : VV) : Statement (.vmin f) := by
  intro _ c hc; cases hc
  have h : fldN (encode (.vmin f)) 63 56 = 7 := f.op_enc 0x07#8
  rw [h]; exact congrArg (some ∘ Instr.vmin) (f.of_enc 0x07#8)
theorem vmax (f : VV) : Statement (.vmax f) := by
  intro _ c hc; cases hc
  have h : fldN (encode (.vmax f)) 63 56 = 8 := f.op_enc 0x08#8
  rw [h]; exact congrArg (some ∘ Instr.vmax) (f.of_enc 0x08#8)
theorem vabs (f : VV) : Statement (.vabs f) := by
  intro _ c hc; cases hc
  have h : fldN (encode (.vabs f)) 63 56 = 9 := f.op_enc 0x09#8
  rw [h]; exact congrArg (some ∘ Instr.vabs) (f.of_enc 0x09#8)
theorem vneg (f : VV) : Statement (.vneg f) := by
  intro _ c hc; cases hc
  have h : fldN (encode (.vneg f)) 63 56 = 10 := f.op_enc 0x0A#8
  rw [h]; exact congrArg (some ∘ Instr.vneg) (f.of_enc 0x0A#8)
theorem vand (f : VV) : Statement (.vand f) := by
  intro _ c hc; cases hc
  have h : fldN (encode (.vand f)) 63 56 = 11 := f.op_enc 0x0B#8
  rw [h]; exact congrArg (some ∘ Instr.vand) (f.of_enc 0x0B#8)
theorem vor (f : VV) : Statement (.vor f) := by
  intro _ c hc; cases hc
  have h : fldN (encode (.vor f)) 63 56 = 12 := f.op_enc 0x0C#8
  rw [h]; exact congrArg (some ∘ Instr.vor) (f.of_enc 0x0C#8)
theorem vxor (f : VV) : Statement (.vxor f) := by
  intro _ c hc; cases hc
  have h : fldN (encode (.vxor f)) 63 56 = 13 := f.op_enc 0x0D#8
  rw [h]; exact congrArg (some ∘ Instr.vxor) (f.of_enc 0x0D#8)
theorem vshl (f : VV) : Statement (.vshl f) := by
  intro _ c hc; cases hc
  have h : fldN (encode (.vshl f)) 63 56 = 14 := f.op_enc 0x0E#8
  rw [h]; exact congrArg (some ∘ Instr.vshl) (f.of_enc 0x0E#8)
theorem vshr (f : VV) : Statement (.vshr f) := by
  intro _ c hc; cases hc
  have h : fldN (encode (.vshr f)) 63 56 = 15 := f.op_enc 0x0F#8
  rw [h]; exact congrArg (some ∘ Instr.vshr) (f.of_enc 0x0F#8)
theorem vsra (f : VV) : Statement (.vsra f) := by
  intro _ c hc; cases hc
  have h : fldN (encode (.vsra f)) 63 56 = 16 := f.op_enc 0x10#8
  rw [h]; exact congrArg (some ∘ Instr.vsra) (f.of_enc 0x10#8)
theorem vrcpe (f : VV) : Statement (.vrcpe f) := by
  intro _ c hc; cases hc
  have h : fldN (encode (.vrcpe f)) 63 56 = 17 := f.op_enc 0x11#8
  rw [h]; exact congrArg (some ∘ Instr.vrcpe) (f.of_enc 0x11#8)
theorem vrsqe (f : VV) : Statement (.vrsqe f) := by
  intro _ c hc; cases hc
  have h : fldN (encode (.vrsqe f)) 63 56 = 18 := f.op_enc 0x12#8
  rw [h]; exact congrArg (some ∘ Instr.vrsqe) (f.of_enc 0x12#8)
theorem vgetexp (f : VV) : Statement (.vgetexp f) := by
  intro _ c hc; cases hc
  have h : fldN (encode (.vgetexp f)) 63 56 = 19 := f.op_enc 0x13#8
  rw [h]; exact congrArg (some ∘ Instr.vgetexp) (f.of_enc 0x13#8)
theorem vscaleb (f : VV) : Statement (.vscaleb f) := by
  intro _ c hc; cases hc
  have h : fldN (encode (.vscaleb f)) 63 56 = 20 := f.op_enc 0x14#8
  rw [h]; exact congrArg (some ∘ Instr.vscaleb) (f.of_enc 0x14#8)
theorem vrint (f : VV) : Statement (.vrint f) := by
  intro _ c hc; cases hc
  have h : fldN (encode (.vrint f)) 63 56 = 21 := f.op_enc 0x15#8
  rw [h]; exact congrArg (some ∘ Instr.vrint) (f.of_enc 0x15#8)
theorem vcmpeq (f : VV) : Statement (.vcmpeq f) := by
  intro _ c hc; cases hc
  have h : fldN (encode (.vcmpeq f)) 63 56 = 32 := f.op_enc 0x20#8
  rw [h]; exact congrArg (some ∘ Instr.vcmpeq) (f.of_enc 0x20#8)
theorem vcmpne (f : VV) : Statement (.vcmpne f) := by
  intro _ c hc; cases hc
  have h : fldN (encode (.vcmpne f)) 63 56 = 33 := f.op_enc 0x21#8
  rw [h]; exact congrArg (some ∘ Instr.vcmpne) (f.of_enc 0x21#8)
theorem vcmplt (f : VV) : Statement (.vcmplt f) := by
  intro _ c hc; cases hc
  have h : fldN (encode (.vcmplt f)) 63 56 = 34 := f.op_enc 0x22#8
  rw [h]; exact congrArg (some ∘ Instr.vcmplt) (f.of_enc 0x22#8)
theorem vcmple (f : VV) : Statement (.vcmple f) := by
  intro _ c hc; cases hc
  have h : fldN (encode (.vcmple f)) 63 56 = 35 := f.op_enc 0x23#8
  rw [h]; exact congrArg (some ∘ Instr.vcmple) (f.of_enc 0x23#8)
theorem vcmpltu (f : VV) : Statement (.vcmpltu f) := by
  intro _ c hc; cases hc
  have h : fldN (encode (.vcmpltu f)) 63 56 = 36 := f.op_enc 0x24#8
  rw [h]; exact congrArg (some ∘ Instr.vcmpltu) (f.of_enc 0x24#8)
theorem vcmpleu (f : VV) : Statement (.vcmpleu f) := by
  intro _ c hc; cases hc
  have h : fldN (encode (.vcmpleu f)) 63 56 = 37 := f.op_enc 0x25#8
  rw [h]; exact congrArg (some ∘ Instr.vcmpleu) (f.of_enc 0x25#8)
theorem kand (f : VV) : Statement (.kand f) := by
  intro _ c hc; cases hc
  have h : fldN (encode (.kand f)) 63 56 = 38 := f.op_enc 0x26#8
  rw [h]; exact congrArg (some ∘ Instr.kand) (f.of_enc 0x26#8)
theorem kor (f : VV) : Statement (.kor f) := by
  intro _ c hc; cases hc
  have h : fldN (encode (.kor f)) 63 56 = 39 := f.op_enc 0x27#8
  rw [h]; exact congrArg (some ∘ Instr.kor) (f.of_enc 0x27#8)
theorem kxor (f : VV) : Statement (.kxor f) := by
  intro _ c hc; cases hc
  have h : fldN (encode (.kxor f)) 63 56 = 40 := f.op_enc 0x28#8
  rw [h]; exact congrArg (some ∘ Instr.kxor) (f.of_enc 0x28#8)
theorem knot (f : VV) : Statement (.knot f) := by
  intro _ c hc; cases hc
  have h : fldN (encode (.knot f)) 63 56 = 41 := f.op_enc 0x29#8
  rw [h]; exact congrArg (some ∘ Instr.knot) (f.of_enc 0x29#8)
theorem kmov (f : VV) : Statement (.kmov f) := by
  intro _ c hc; cases hc
  have h : fldN (encode (.kmov f)) 63 56 = 42 := f.op_enc 0x2A#8
  rw [h]; exact congrArg (some ∘ Instr.kmov) (f.of_enc 0x2A#8)
theorem kpop (f : VV) : Statement (.kpop f) := by
  intro _ c hc; cases hc
  have h : fldN (encode (.kpop f)) 63 56 = 43 := f.op_enc 0x2B#8
  rw [h]; exact congrArg (some ∘ Instr.kpop) (f.of_enc 0x2B#8)
theorem kpois (f : VV) : Statement (.kpois f) := by
  intro _ c hc; cases hc
  have h : fldN (encode (.kpois f)) 63 56 = 44 := f.op_enc 0x2C#8
  rw [h]; exact congrArg (some ∘ Instr.kpois) (f.of_enc 0x2C#8)
theorem kfirst (f : VV) : Statement (.kfirst f) := by
  intro _ c hc; cases hc
  have h : fldN (encode (.kfirst f)) 63 56 = 45 := f.op_enc 0x2D#8
  rw [h]; exact congrArg (some ∘ Instr.kfirst) (f.of_enc 0x2D#8)
theorem vsel (f : VV) : Statement (.vsel f) := by
  intro _ c hc; cases hc
  have h : fldN (encode (.vsel f)) 63 56 = 48 := f.op_enc 0x30#8
  rw [h]; exact congrArg (some ∘ Instr.vsel) (f.of_enc 0x30#8)
theorem vbcast (f : VV) : Statement (.vbcast f) := by
  intro _ c hc; cases hc
  have h : fldN (encode (.vbcast f)) 63 56 = 49 := f.op_enc 0x31#8
  rw [h]; exact congrArg (some ∘ Instr.vbcast) (f.of_enc 0x31#8)
theorem vmov (f : VV) : Statement (.vmov f) := by
  intro _ c hc; cases hc
  have h : fldN (encode (.vmov f)) 63 56 = 50 := f.op_enc 0x32#8
  rw [h]; exact congrArg (some ∘ Instr.vmov) (f.of_enc 0x32#8)
theorem vzero (f : VV) : Statement (.vzero f) := by
  intro _ c hc; cases hc
  have h : fldN (encode (.vzero f)) 63 56 = 51 := f.op_enc 0x33#8
  rw [h]; exact congrArg (some ∘ Instr.vzero) (f.of_enc 0x33#8)
theorem vperm (f : VV) : Statement (.vperm f) := by
  intro _ c hc; cases hc
  have h : fldN (encode (.vperm f)) 63 56 = 52 := f.op_enc 0x34#8
  rw [h]; exact congrArg (some ∘ Instr.vperm) (f.of_enc 0x34#8)
theorem vrot (f : VV) : Statement (.vrot f) := by
  intro _ c hc; cases hc
  have h : fldN (encode (.vrot f)) 63 56 = 53 := f.op_enc 0x35#8
  rw [h]; exact congrArg (some ∘ Instr.vrot) (f.of_enc 0x35#8)
theorem gxpose (f : VV) : Statement (.gxpose f) := by
  intro _ c hc; cases hc
  have h : fldN (encode (.gxpose f)) 63 56 = 54 := f.op_enc 0x36#8
  rw [h]; exact congrArg (some ∘ Instr.gxpose) (f.of_enc 0x36#8)
theorem vtag (f : VV) : Statement (.vtag f) := by
  intro _ c hc; cases hc
  have h : fldN (encode (.vtag f)) 63 56 = 55 := f.op_enc 0x37#8
  rw [h]; exact congrArg (some ∘ Instr.vtag) (f.of_enc 0x37#8)
theorem vcompress (f : VV) : Statement (.vcompress f) := by
  intro _ c hc; cases hc
  have h : fldN (encode (.vcompress f)) 63 56 = 56 := f.op_enc 0x38#8
  rw [h]; exact congrArg (some ∘ Instr.vcompress) (f.of_enc 0x38#8)
theorem vexpand (f : VV) : Statement (.vexpand f) := by
  intro _ c hc; cases hc
  have h : fldN (encode (.vexpand f)) 63 56 = 57 := f.op_enc 0x39#8
  rw [h]; exact congrArg (some ∘ Instr.vexpand) (f.of_enc 0x39#8)
theorem vrsum (f : VV) : Statement (.vrsum f) := by
  intro _ c hc; cases hc
  have h : fldN (encode (.vrsum f)) 63 56 = 64 := f.op_enc 0x40#8
  rw [h]; exact congrArg (some ∘ Instr.vrsum) (f.of_enc 0x40#8)
theorem vrmax (f : VV) : Statement (.vrmax f) := by
  intro _ c hc; cases hc
  have h : fldN (encode (.vrmax f)) 63 56 = 65 := f.op_enc 0x41#8
  rw [h]; exact congrArg (some ∘ Instr.vrmax) (f.of_enc 0x41#8)
theorem vrmin (f : VV) : Statement (.vrmin f) := by
  intro _ c hc; cases hc
  have h : fldN (encode (.vrmin f)) 63 56 = 66 := f.op_enc 0x42#8
  rw [h]; exact congrArg (some ∘ Instr.vrmin) (f.of_enc 0x42#8)
theorem vramax (f : VV) : Statement (.vramax f) := by
  intro _ c hc; cases hc
  have h : fldN (encode (.vramax f)) 63 56 = 67 := f.op_enc 0x43#8
  rw [h]; exact congrArg (some ∘ Instr.vramax) (f.of_enc 0x43#8)
theorem vrbx (f : VV) : Statement (.vrbx f) := by
  intro _ c hc; cases hc
  have h : fldN (encode (.vrbx f)) 63 56 = 68 := f.op_enc 0x44#8
  rw [h]; exact congrArg (some ∘ Instr.vrbx) (f.of_enc 0x44#8)
theorem vrexp (f : VV) : Statement (.vrexp f) := by
  intro _ c hc; cases hc
  have h : fldN (encode (.vrexp f)) 63 56 = 69 := f.op_enc 0x45#8
  rw [h]; exact congrArg (some ∘ Instr.vrexp) (f.of_enc 0x45#8)
theorem cvtN (f : VV) : Statement (.cvtN f) := by
  intro _ c hc; cases hc
  have h : fldN (encode (.cvtN f)) 63 56 = 80 := f.op_enc 0x50#8
  rw [h]; exact congrArg (some ∘ Instr.cvtN) (f.of_enc 0x50#8)
theorem cvtW (f : VV) : Statement (.cvtW f) := by
  intro _ c hc; cases hc
  have h : fldN (encode (.cvtW f)) 63 56 = 81 := f.op_enc 0x51#8
  rw [h]; exact congrArg (some ∘ Instr.cvtW) (f.of_enc 0x51#8)
theorem cvtF4 (f : VV) : Statement (.cvtF4 f) := by
  intro _ c hc; cases hc
  have h : fldN (encode (.cvtF4 f)) 63 56 = 82 := f.op_enc 0x52#8
  rw [h]; exact congrArg (some ∘ Instr.cvtF4) (f.of_enc 0x52#8)
theorem cvtI (f : VV) : Statement (.cvtI f) := by
  intro _ c hc; cases hc
  have h : fldN (encode (.cvtI f)) 63 56 = 83 := f.op_enc 0x53#8
  rw [h]; exact congrArg (some ∘ Instr.cvtI) (f.of_enc 0x53#8)
theorem cvtF (f : VV) : Statement (.cvtF f) := by
  intro _ c hc; cases hc
  have h : fldN (encode (.cvtF f)) 63 56 = 84 := f.op_enc 0x54#8
  rw [h]; exact congrArg (some ∘ Instr.cvtF) (f.of_enc 0x54#8)
theorem vquant (f : VV) : Statement (.vquant f) := by
  intro _ c hc; cases hc
  have h : fldN (encode (.vquant f)) 63 56 = 85 := f.op_enc 0x55#8
  rw [h]; exact congrArg (some ∘ Instr.vquant) (f.of_enc 0x55#8)
theorem setsc (f : VV) : Statement (.setsc f) := by
  intro _ c hc; cases hc
  have h : fldN (encode (.setsc f)) 63 56 = 86 := f.op_enc 0x56#8
  rw [h]; exact congrArg (some ∘ Instr.setsc) (f.of_enc 0x56#8)
theorem bxadd (f : VV) : Statement (.bxadd f) := by
  intro _ c hc; cases hc
  have h : fldN (encode (.bxadd f)) 63 56 = 87 := f.op_enc 0x57#8
  rw [h]; exact congrArg (some ∘ Instr.bxadd) (f.of_enc 0x57#8)
theorem bxacc (f : VV) : Statement (.bxacc f) := by
  intro _ c hc; cases hc
  have h : fldN (encode (.bxacc f)) 63 56 = 88 := f.op_enc 0x58#8
  rw [h]; exact congrArg (some ∘ Instr.bxacc) (f.of_enc 0x58#8)
theorem bxanch (f : VV) : Statement (.bxanch f) := by
  intro w c hc; cases hc
  have h : fldN (encode (.bxanch f)) 63 56 = 89 := f.op_enc 0x59#8
  have e : (encode (.bxanch f)).toNat = _ := f.enc_toNat 0x59#8
  have b : (encode (.bxanch f)).getLsbD 8 = false := by
    have := f.vd.isLt; have := f.vs1.isLt; have := f.vs2.isLt; have := f.k.isLt; have := f.rm.isLt; have := f.sat.isLt; have := f.fx.isLt; have := f.imm.isLt
    simp [Instr.wf, Instr.unused, Instr.values] at w
    rw [getLsbD_digit, e]; simp; omega
  have d : decodeOp .V 89 (encode (.bxanch f)) = some (if (encode (.bxanch f)).getLsbD 8 then .bxanchI (.of (encode (.bxanch f))) else .bxanch (.of (encode (.bxanch f)))) := rfl
  rw [h, d, b]; exact congrArg (some ∘ Instr.bxanch) (f.of_enc 0x59#8)
theorem bxanchI (f : VV) : Statement (.bxanchI f) := by
  intro w c hc; cases hc
  have h : fldN (encode (.bxanchI f)) 63 56 = 89 := f.op_enc 0x59#8
  have e : (encode (.bxanchI f)).toNat = _ := f.enc_toNat 0x59#8
  have b : (encode (.bxanchI f)).getLsbD 8 = true := by
    have := f.vd.isLt; have := f.vs1.isLt; have := f.vs2.isLt; have := f.k.isLt; have := f.rm.isLt; have := f.sat.isLt; have := f.fx.isLt; have := f.imm.isLt
    simp [Instr.wf, Instr.unused, Instr.values] at w
    rw [getLsbD_digit, e]; simp; omega
  have d : decodeOp .V 89 (encode (.bxanchI f)) = some (if (encode (.bxanchI f)).getLsbD 8 then .bxanchI (.of (encode (.bxanchI f))) else .bxanch (.of (encode (.bxanchI f)))) := rfl
  rw [h, d, b]; exact congrArg (some ∘ Instr.bxanchI) (f.of_enc 0x59#8)
theorem bxcvt (f : VV) : Statement (.bxcvt f) := by
  intro _ c hc; cases hc
  have h : fldN (encode (.bxcvt f)) 63 56 = 90 := f.op_enc 0x5A#8
  rw [h]; exact congrArg (some ∘ Instr.bxcvt) (f.of_enc 0x5A#8)
theorem mop (f : MU) : Statement (.mop f) := by
  intro _ c hc; cases hc
  have h : fldN (encode (.mop f)) 63 56 = 1 := f.op_enc 0x01#8
  rw [h]; exact congrArg (some ∘ Instr.mop) (f.of_enc 0x01#8)
theorem mopS (f : MU) : Statement (.mopS f) := by
  intro _ c hc; cases hc
  have h : fldN (encode (.mopS f)) 63 56 = 2 := f.op_enc 0x02#8
  rw [h]; exact congrArg (some ∘ Instr.mopS) (f.of_enc 0x02#8)
theorem mopZ (f : MU) : Statement (.mopZ f) := by
  intro _ c hc; cases hc
  have h : fldN (encode (.mopZ f)) 63 56 = 3 := f.op_enc 0x03#8
  rw [h]; exact congrArg (some ∘ Instr.mopZ) (f.of_enc 0x03#8)
theorem mopZs (f : MU) : Statement (.mopZs f) := by
  intro _ c hc; cases hc
  have h : fldN (encode (.mopZs f)) 63 56 = 4 := f.op_enc 0x04#8
  rw [h]; exact congrArg (some ∘ Instr.mopZs) (f.of_enc 0x04#8)
theorem ckclr (f : MC) : Statement (.ckclr f) := by
  intro _ c hc; cases hc
  have h : fldN (encode (.ckclr f)) 63 56 = 32 := f.op_enc 0x20#8
  rw [h]; exact congrArg (some ∘ Instr.ckclr) (f.of_enc 0x20#8)
theorem ckchk (f : MC) : Statement (.ckchk f) := by
  intro _ c hc; cases hc
  have h : fldN (encode (.ckchk f)) 63 56 = 33 := f.op_enc 0x21#8
  rw [h]; exact congrArg (some ∘ Instr.ckchk) (f.of_enc 0x21#8)
theorem ckloc (f : MC) : Statement (.ckloc f) := by
  intro _ c hc; cases hc
  have h : fldN (encode (.ckloc f)) 63 56 = 34 := f.op_enc 0x22#8
  rw [h]; exact congrArg (some ∘ Instr.ckloc) (f.of_enc 0x22#8)
theorem ckfix (f : MC) : Statement (.ckfix f) := by
  intro _ c hc; cases hc
  have h : fldN (encode (.ckfix f)) 63 56 = 35 := f.op_enc 0x23#8
  rw [h]; exact congrArg (some ∘ Instr.ckfix) (f.of_enc 0x23#8)
theorem ckrdRow (f : MC) : Statement (.ckrdRow f) := by
  intro w c hc; cases hc
  have h : fldN (encode (.ckrdRow f)) 63 56 = 36 := f.op_enc 0x24#8
  have e : (encode (.ckrdRow f)).toNat = _ := f.enc_toNat 0x24#8
  have b : fldN (encode (.ckrdRow f)) 9 8 = 0 := by
    have := f.d.isLt; have := f.s1.isLt; have := f.hs.isLt; have := f.imm.isLt
    simp [Instr.wf, Instr.unused, Instr.values] at w
    rw [fldN_digits, e]; simp; omega
  have d : decodeOp .M 36 (encode (.ckrdRow f)) = some (match fldN (encode (.ckrdRow f)) 9 8 with
    | 1 => .ckrdCol (.of (encode (.ckrdRow f))) | 2 => .ckrdSt (.of (encode (.ckrdRow f))) | _ => .ckrdRow (.of (encode (.ckrdRow f)))) := rfl
  rw [h, d, b]; exact congrArg (some ∘ Instr.ckrdRow) (f.of_enc 0x24#8)
theorem ckrdCol (f : MC) : Statement (.ckrdCol f) := by
  intro w c hc; cases hc
  have h : fldN (encode (.ckrdCol f)) 63 56 = 36 := f.op_enc 0x24#8
  have e : (encode (.ckrdCol f)).toNat = _ := f.enc_toNat 0x24#8
  have b : fldN (encode (.ckrdCol f)) 9 8 = 1 := by
    have := f.d.isLt; have := f.s1.isLt; have := f.hs.isLt; have := f.imm.isLt
    simp [Instr.wf, Instr.unused, Instr.values] at w
    rw [fldN_digits, e]; simp; omega
  have d : decodeOp .M 36 (encode (.ckrdCol f)) = some (match fldN (encode (.ckrdCol f)) 9 8 with
    | 1 => .ckrdCol (.of (encode (.ckrdCol f))) | 2 => .ckrdSt (.of (encode (.ckrdCol f))) | _ => .ckrdRow (.of (encode (.ckrdCol f)))) := rfl
  rw [h, d, b]; exact congrArg (some ∘ Instr.ckrdCol) (f.of_enc 0x24#8)
theorem ckrdSt (f : MC) : Statement (.ckrdSt f) := by
  intro w c hc; cases hc
  have h : fldN (encode (.ckrdSt f)) 63 56 = 36 := f.op_enc 0x24#8
  have e : (encode (.ckrdSt f)).toNat = _ := f.enc_toNat 0x24#8
  have b : fldN (encode (.ckrdSt f)) 9 8 = 2 := by
    have := f.d.isLt; have := f.s1.isLt; have := f.hs.isLt; have := f.imm.isLt
    simp [Instr.wf, Instr.unused, Instr.values] at w
    rw [fldN_digits, e]; simp; omega
  have d : decodeOp .M 36 (encode (.ckrdSt f)) = some (match fldN (encode (.ckrdSt f)) 9 8 with
    | 1 => .ckrdCol (.of (encode (.ckrdSt f))) | 2 => .ckrdSt (.of (encode (.ckrdSt f))) | _ => .ckrdRow (.of (encode (.ckrdSt f)))) := rfl
  rw [h, d, b]; exact congrArg (some ∘ Instr.ckrdSt) (f.of_enc 0x24#8)
theorem ckinj (f : MC) : Statement (.ckinj f) := by
  intro w c hc; cases hc
  have h : fldN (encode (.ckinj f)) 63 56 = 37 := f.op_enc 0x25#8
  have e : (encode (.ckinj f)).toNat = _ := f.enc_toNat 0x25#8
  have b : (encode (.ckinj f)).getLsbD 16 = false := by
    have := f.d.isLt; have := f.s1.isLt; have := f.hs.isLt; have := f.imm.isLt
    simp [Instr.wf, Instr.unused, Instr.values] at w
    rw [getLsbD_digit, e]; simp; omega
  have d : decodeOp .M 37 (encode (.ckinj f)) = some (if (encode (.ckinj f)).getLsbD 16 then .ckinjP (.of (encode (.ckinj f))) else .ckinj (.of (encode (.ckinj f)))) := rfl
  rw [h, d, b]; exact congrArg (some ∘ Instr.ckinj) (f.of_enc 0x25#8)
theorem ckinjP (f : MC) : Statement (.ckinjP f) := by
  intro w c hc; cases hc
  have h : fldN (encode (.ckinjP f)) 63 56 = 37 := f.op_enc 0x25#8
  have e : (encode (.ckinjP f)).toNat = _ := f.enc_toNat 0x25#8
  have b : (encode (.ckinjP f)).getLsbD 16 = true := by
    have := f.d.isLt; have := f.s1.isLt; have := f.hs.isLt; have := f.imm.isLt
    simp [Instr.wf, Instr.unused, Instr.values] at w
    rw [getLsbD_digit, e]; simp; omega
  have d : decodeOp .M 37 (encode (.ckinjP f)) = some (if (encode (.ckinjP f)).getLsbD 16 then .ckinjP (.of (encode (.ckinjP f))) else .ckinj (.of (encode (.ckinjP f)))) := rfl
  rw [h, d, b]; exact congrArg (some ∘ Instr.ckinjP) (f.of_enc 0x25#8)
theorem capb (f : MC) : Statement (.capb f) := by
  intro _ c hc; cases hc
  have h : fldN (encode (.capb f)) 63 56 = 48 := f.op_enc 0x30#8
  rw [h]; exact congrArg (some ∘ Instr.capb) (f.of_enc 0x30#8)
theorem cape (f : MC) : Statement (.cape f) := by
  intro _ c hc; cases hc
  have h : fldN (encode (.cape f)) 63 56 = 49 := f.op_enc 0x31#8
  rw [h]; exact congrArg (some ∘ Instr.cape) (f.of_enc 0x31#8)
theorem capr (f : MC) : Statement (.capr f) := by
  intro _ c hc; cases hc
  have h : fldN (encode (.capr f)) 63 56 = 50 := f.op_enc 0x32#8
  rw [h]; exact congrArg (some ∘ Instr.capr) (f.of_enc 0x32#8)
theorem capx (f : MC) : Statement (.capx f) := by
  intro w c hc; cases hc
  have h : fldN (encode (.capx f)) 63 56 = 51 := f.op_enc 0x33#8
  have e : (encode (.capx f)).toNat = _ := f.enc_toNat 0x33#8
  have b : fldN (encode (.capx f)) 1 0 = 0 := by
    have := f.d.isLt; have := f.s1.isLt; have := f.hs.isLt; have := f.imm.isLt
    simp [Instr.wf, Instr.unused, Instr.values] at w
    rw [fldN_digits, e]; simp; omega
  have d : decodeOp .M 51 (encode (.capx f)) = some (match fldN (encode (.capx f)) 1 0 with
    | 1 => .capxSaved (.of (encode (.capx f))) | 2 => .capxFirst (.of (encode (.capx f))) | _ => .capx (.of (encode (.capx f)))) := rfl
  rw [h, d, b]; exact congrArg (some ∘ Instr.capx) (f.of_enc 0x33#8)
theorem capxSaved (f : MC) : Statement (.capxSaved f) := by
  intro w c hc; cases hc
  have h : fldN (encode (.capxSaved f)) 63 56 = 51 := f.op_enc 0x33#8
  have e : (encode (.capxSaved f)).toNat = _ := f.enc_toNat 0x33#8
  have b : fldN (encode (.capxSaved f)) 1 0 = 1 := by
    have := f.d.isLt; have := f.s1.isLt; have := f.hs.isLt; have := f.imm.isLt
    simp [Instr.wf, Instr.unused, Instr.values] at w
    rw [fldN_digits, e]; simp; omega
  have d : decodeOp .M 51 (encode (.capxSaved f)) = some (match fldN (encode (.capxSaved f)) 1 0 with
    | 1 => .capxSaved (.of (encode (.capxSaved f))) | 2 => .capxFirst (.of (encode (.capxSaved f))) | _ => .capx (.of (encode (.capxSaved f)))) := rfl
  rw [h, d, b]; exact congrArg (some ∘ Instr.capxSaved) (f.of_enc 0x33#8)
theorem capxFirst (f : MC) : Statement (.capxFirst f) := by
  intro w c hc; cases hc
  have h : fldN (encode (.capxFirst f)) 63 56 = 51 := f.op_enc 0x33#8
  have e : (encode (.capxFirst f)).toNat = _ := f.enc_toNat 0x33#8
  have b : fldN (encode (.capxFirst f)) 1 0 = 2 := by
    have := f.d.isLt; have := f.s1.isLt; have := f.hs.isLt; have := f.imm.isLt
    simp [Instr.wf, Instr.unused, Instr.values] at w
    rw [fldN_digits, e]; simp; omega
  have d : decodeOp .M 51 (encode (.capxFirst f)) = some (match fldN (encode (.capxFirst f)) 1 0 with
    | 1 => .capxSaved (.of (encode (.capxFirst f))) | 2 => .capxFirst (.of (encode (.capxFirst f))) | _ => .capx (.of (encode (.capxFirst f)))) := rfl
  rw [h, d, b]; exact congrArg (some ∘ Instr.capxFirst) (f.of_enc 0x33#8)
theorem packetIssue : Statement .packetIssue := fun _ _ h => nomatch h
theorem packetRetire : Statement .packetRetire := fun _ _ h => nomatch h
theorem vWriteback : Statement .vWriteback := fun _ _ h => nomatch h
theorem updateWriteback : Statement .updateWriteback := fun _ _ h => nomatch h
theorem vectorAccessComplete : Statement .vectorAccessComplete := fun _ _ h => nomatch h
theorem scalarAccessComplete : Statement .scalarAccessComplete := fun _ _ h => nomatch h
theorem translationWalk : Statement .translationWalk := fun _ _ h => nomatch h
theorem writeHomeMoment : Statement .writeHomeMoment := fun _ _ h => nomatch h
theorem writeDomainMoment : Statement .writeDomainMoment := fun _ _ h => nomatch h
theorem writeSystemMoment : Statement .writeSystemMoment := fun _ _ h => nomatch h
theorem copyCommandStart : Statement .copyCommandStart := fun _ _ h => nomatch h
theorem copyChunkVisible : Statement .copyChunkVisible := fun _ _ h => nomatch h
theorem barrierCredit : Statement .barrierCredit := fun _ _ h => nomatch h
theorem copyCommandComplete : Statement .copyCommandComplete := fun _ _ h => nomatch h
theorem catalogueCommandComplete : Statement .catalogueCommandComplete := fun _ _ h => nomatch h
theorem xltInv : Statement .xltInv := fun _ _ h => nomatch h
theorem invalidationDone : Statement .invalidationDone := fun _ _ h => nomatch h
theorem memIlvWrite : Statement .memIlvWrite := fun _ _ h => nomatch h
theorem dieBootGo : Statement .dieBootGo := fun _ _ h => nomatch h
theorem xltCtxbaseWrite : Statement .xltCtxbaseWrite := fun _ _ h => nomatch h
theorem schedCtlWrite : Statement .schedCtlWrite := fun _ _ h => nomatch h
theorem saveStallClear : Statement .saveStallClear := fun _ _ h => nomatch h
theorem lmapWrite : Statement .lmapWrite := fun _ _ h => nomatch h
theorem latWrite : Statement .latWrite := fun _ _ h => nomatch h
theorem pgseedWrite : Statement .pgseedWrite := fun _ _ h => nomatch h
theorem protectedModeEnable : Statement .protectedModeEnable := fun _ _ h => nomatch h
theorem registerWrite : Statement .registerWrite := fun _ _ h => nomatch h
theorem gangPlace : Statement .gangPlace := fun _ _ h => nomatch h
theorem gangResume : Statement .gangResume := fun _ _ h => nomatch h
theorem reclaimMark : Statement .reclaimMark := fun _ _ h => nomatch h
theorem reclaimTimeout : Statement .reclaimTimeout := fun _ _ h => nomatch h
theorem saveUnit : Statement .saveUnit := fun _ _ h => nomatch h
theorem groupRelease : Statement .groupRelease := fun _ _ h => nomatch h
theorem groupPowerGate : Statement .groupPowerGate := fun _ _ h => nomatch h
theorem gangEnd : Statement .gangEnd := fun _ _ h => nomatch h
theorem notifyEvaluate : Statement .notifyEvaluate := fun _ _ h => nomatch h
theorem notifyPoll : Statement .notifyPoll := fun _ _ h => nomatch h
theorem yieldWake : Statement .yieldWake := fun _ _ h => nomatch h
theorem stestDone : Statement .stestDone := fun _ _ h => nomatch h
theorem stestAbort : Statement .stestAbort := fun _ _ h => nomatch h
theorem laneShadowRotate : Statement .laneShadowRotate := fun _ _ h => nomatch h
theorem retrainDone : Statement .retrainDone := fun _ _ h => nomatch h
theorem flitCrcError : Statement .flitCrcError := fun _ _ h => nomatch h
theorem linkDown : Statement .linkDown := fun _ _ h => nomatch h
theorem roundStart : Statement .roundStart := fun _ _ h => nomatch h
theorem heartbeatReceive : Statement .heartbeatReceive := fun _ _ h => nomatch h
theorem roundEnd : Statement .roundEnd := fun _ _ h => nomatch h
theorem orphanCompletion : Statement .orphanCompletion := fun _ _ h => nomatch h
theorem fencedSelftestDone : Statement .fencedSelftestDone := fun _ _ h => nomatch h
theorem rdmaWrite : Statement .rdmaWrite := fun _ _ h => nomatch h
theorem rdmaRead : Statement .rdmaRead := fun _ _ h => nomatch h
theorem atomicCompareAndSwap : Statement .atomicCompareAndSwap := fun _ _ h => nomatch h
theorem atomicFetchAndAdd : Statement .atomicFetchAndAdd := fun _ _ h => nomatch h
theorem invalidRequest : Statement .invalidRequest := fun _ _ h => nomatch h
theorem priorityFlowControl : Statement .priorityFlowControl := fun _ _ h => nomatch h
theorem congestionNotification : Statement .congestionNotification := fun _ _ h => nomatch h
theorem ptpMessage : Statement .ptpMessage := fun _ _ h => nomatch h
theorem getVersion : Statement .getVersion := fun _ _ h => nomatch h
theorem getCapabilities : Statement .getCapabilities := fun _ _ h => nomatch h
theorem negotiateAlgorithms : Statement .negotiateAlgorithms := fun _ _ h => nomatch h
theorem getDigests : Statement .getDigests := fun _ _ h => nomatch h
theorem getCertificate : Statement .getCertificate := fun _ _ h => nomatch h
theorem challenge : Statement .challenge := fun _ _ h => nomatch h
theorem getMeasurements : Statement .getMeasurements := fun _ _ h => nomatch h
theorem pldmPlatformMonitoring : Statement .pldmPlatformMonitoring := fun _ _ h => nomatch h
theorem pldmFirmwareUpdate : Statement .pldmFirmwareUpdate := fun _ _ h => nomatch h
theorem endpointIdentifierAssign : Statement .endpointIdentifierAssign := fun _ _ h => nomatch h
theorem eepromRead : Statement .eepromRead := fun _ _ h => nomatch h
theorem eepromWrite : Statement .eepromWrite := fun _ _ h => nomatch h
theorem reset : Statement .reset := fun _ _ h => nomatch h
theorem evacGo : Statement .evacGo := fun _ _ h => nomatch h
theorem evacAbort : Statement .evacAbort := fun _ _ h => nomatch h
theorem evacSaveDone : Statement .evacSaveDone := fun _ _ h => nomatch h
theorem evacOffer : Statement .evacOffer := fun _ _ h => nomatch h
theorem evacOfferAnswer : Statement .evacOfferAnswer := fun _ _ h => nomatch h
theorem evacOfferTimeout : Statement .evacOfferTimeout := fun _ _ h => nomatch h
theorem evacCopyDone : Statement .evacCopyDone := fun _ _ h => nomatch h
theorem evacDrainDone : Statement .evacDrainDone := fun _ _ h => nomatch h
theorem evacTimeout : Statement .evacTimeout := fun _ _ h => nomatch h
theorem evacArm : Statement .evacArm := fun _ _ h => nomatch h
theorem evacDisarm : Statement .evacDisarm := fun _ _ h => nomatch h
theorem evacAdopt : Statement .evacAdopt := fun _ _ h => nomatch h
theorem evacClaim : Statement .evacClaim := fun _ _ h => nomatch h
theorem evacClaimAnswer : Statement .evacClaimAnswer := fun _ _ h => nomatch h
theorem evacClaimTimeout : Statement .evacClaimTimeout := fun _ _ h => nomatch h
theorem thermalThrottle : Statement .thermalThrottle := fun _ _ h => nomatch h
theorem pepperGeneratorStep : Statement .pepperGeneratorStep := fun _ _ h => nomatch h
theorem evacFreezeDone : Statement .evacFreezeDone := fun _ _ h => nomatch h
theorem firmwareRetrain : Statement .firmwareRetrain := fun _ _ h => nomatch h
theorem bladePull : Statement .bladePull := fun _ _ h => nomatch h
theorem queuePairConnect : Statement .queuePairConnect := fun _ _ h => nomatch h
theorem managementControllerAccess : Statement .managementControllerAccess := fun _ _ h => nomatch h

end Sys2Proof.Laws.Codec
end

