-- ==== Sys2Proof/Laws/Vector.lean ====
section
/-! SUPPORT. What a V slot does that nothing holds: `vDrive` takes it up, and `vTake` puts what it computed in flight. -/
namespace Sys2Proof.Machine
open Sys2Proof

/-- A V slot that nothing holds and no check stops is taken up. -/
theorem vDrive_of_free {sp : VSpec} {s : State} {h : Hart} {t : Tag}
    (hf : s.vFree h sp.srcs sp.dst (sp.reads (s.vIn h sp.srcs).len) (sp.writes (s.vIn h sp.srcs).len) (sp.groups (s.vIn h sp.srcs)))
    (ho : sp.beyond (s.vIn h sp.srcs) = false)
    (hp : (s.vIn h sp.srcs).probe (sp.srcs ++ sp.dst.toList) sp.blk = none)
    (hc : sp.check (s.vIn h sp.srcs) = .ok t) :
    vDrive sp s h = vTake sp s (s.vIn h sp.srcs) t (queuesOf sp.srcs) (sp.groups (s.vIn h sp.srcs))
      (match sp.dst with | some (.dq n) => if (s.vIn h sp.srcs).len = 0 then none else some n | _ => none) := by
  obtain ⟨h1, h2, h3, h4, h5⟩ := hf
  have hq : ¬ (s.cycle < (s.vIn h sp.srcs).c.vUntil ∨ ((queuesOf sp.srcs).any fun q => ((s.queue s.issue.core q).heads s.cycle 1).isNone) = true) := by
    rintro (a | a)
    · omega
    · obtain ⟨q, hq, ha⟩ := List.any_eq_true.1 a
      have := h2 q hq
      rw [Option.isNone_iff_eq_none.1 ha] at this
      cases this
  unfold vDrive
  simp only [h3, VSpec.rowsAt, Bool.false_eq_true, if_false, if_neg hq, h4, ho, hp, hc]
  rcases hd : sp.dst with _ | v
  · rfl
  · cases v <;> try rfl
    rename_i n
    by_cases hl : (s.vIn h sp.srcs).len = 0
    · simp [hl]
    · obtain ⟨a, b⟩ := h5 n hd hl
      simp [hl, b, Nat.not_lt.2 a]

/-- Two equal results do not differ. -/
theorem mismatch_self (t : Tag) (d : Option View) (r : VOut) : mismatch t d r r = none := by
  have z : ∀ {α β : Type} (l : List α) (f : α × α → Option β), (∀ a ∈ l, f (a, a) = none) → (l.zip l).filterMap f = [] := by
    intro α β l f hf
    induction l with
    | nil => rfl
    | cons a l ih => simp [hf a (by simp), ih (fun b hb => hf b (by simp [hb]))]
  have y : (r.masks.zip r.masks).flatMap (fun (x, y) => (List.range 256).filter (fun i => x.2.getLsbD i != y.2.getLsbD i)) = [] := by
    induction r.masks with
    | nil => rfl
    | cons a l ih => simp [ih]
  unfold mismatch
  simp only
  rw [y, z _ _ (by simp), z _ _ (by simp)]
  rfl

/-- Popping queue heads advances no clock and names nothing new. -/
theorem popAll_frame (s : State) (p : Nat) (qs : List Nat) :
    (s.popAll p qs).cycle = s.cycle ∧ (s.popAll p qs).nextId = s.nextId ∧ (s.popAll p qs).issue = s.issue ∧ (s.popAll p qs).mem = s.mem := by
  induction qs generalizing s with
  | nil => exact ⟨rfl, rfl, rfl, rfl⟩
  | cons q l ih => simpa [State.popAll] using ih (s.setQueue p q ((s.queue p q).pop s.cycle 1))

/-- Two equal results without a fault hold none. -/
theorem VOut.bad_self {r : VOut} (he : r.err = none) : r.bad r = none := by simp [VOut.bad, he]

/-- A slot whose two computations agree and that finds no fault writes what it computed: into the grid, the masks and vsc, or as one entry of its drain queue. -/
theorem vTake_agree {sp : VSpec} {s : State} {x : VCtx} {t : Tag} {r : VOut} (groups : List Nat) (dq : Option Nat)
    (hb : sp.body x t 0 = r) (hm : x.mir ≠ 0 → x.len ≠ 0 → sp.body x t x.mir = r) (he : r.err = none)
    (h0 : x.len = 0 → r = { masks := r.masks }) :
    vTake sp s x t (queuesOf sp.srcs) groups dq =
      (let s1 := s.popAll s.issue.core (queuesOf sp.srcs)
       let s2 : State := match dq with
        | none => s1
        | some n =>
          let e : Entry := { id := s.nextId, st := .reserved, fmt := t.fmt, cnt := if t = .bx then x.len / 8 else x.len * t.n,
                             cells := tsetMany [] (r.puts.map (fun q => (q.2.1, q.2.2.1))),
                             pois := BitVec.ofNat 256 (maskOf 256 (fun j => r.puts.any (fun q => q.2.1 == j && q.2.2.2))) }
          s1.setQueue s.issue.core (8 + n) ((s1.queue s.issue.core (8 + n)).push s.cycle [e])
       { s2.modCore s.issue.core (·.takeV s.cycle sp.hold
          { id := s.nextId, slot := s.issue.slot, due := s.cycle + sp.lat - 1, rows := sp.rowsAt x.len, groups := groups,
            deps := (r.masks.filter (fun q => q.1 != 0)).map (fun q => Dep.k q.1) ++ (if r.vsc.isEmpty then [] else [Dep.vsc]),
            eff := .v { gs := x.gs, puts := if dq.isSome then [] else x.mirrored r.puts, keep := x.mirrored r.keep, tags := r.tags, masks := r.masks,
                        vsc := r.vsc, dq := dq.map (fun n => (8 + n, s.nextId)) } }) with nextId := s.nextId + 1 }) := by
  obtain ⟨hcy, hid, -, -⟩ := popAll_frame s s.issue.core (queuesOf sp.srcs)
  have hr : (if x.len = 0 then ({ masks := (sp.body x t 0).masks } : VOut) else sp.body x t 0) = r := by
    by_cases a : x.len = 0
    · rw [if_pos a, hb, ← h0 a]
    · rw [if_neg a, hb]
  have hr1 : (if x.mir = 0 ∨ x.len = 0 then r else sp.body x t x.mir) = r := by
    by_cases a : x.mir = 0 ∨ x.len = 0
    · rw [if_pos a]
    · rw [if_neg a]; rw [not_or] at a; exact hm a.1 a.2
  have hmm : (if x.mir = 0 ∨ x.len = 0 then none else mismatch (sp.elems t) sp.dst r r) = none := by
    rw [mismatch_self]; exact ite_self _
  unfold vTake
  simp only [hr, hr1, hmm, VOut.bad_self he]
  cases dq <;> simp [hcy, hid, VCtx.mirrored]

/-- The same for a slot that writes cells alone. -/
theorem vTake_puts {sp : VSpec} {s : State} {x : VCtx} {t : Tag} {l : List (Nat × Nat × Cell × Bool)} (d : View) (groups : List Nat) (hd : sp.dst = some d)
    (hb : sp.body x t 0 = { puts := l }) (hm : x.mir ≠ 0 → x.len ≠ 0 → sp.body x t x.mir = { puts := l }) (h0 : x.len = 0 → l = []) :
    vTake sp s x t (queuesOf sp.srcs) groups (match some d with | some (.dq n) => if x.len = 0 then none else some n | _ => none)
      = s.vWrites x t sp.srcs d sp.lat sp.hold (sp.writes x.len) groups l := by
  rw [vTake_agree groups _ hb hm rfl (fun a => by rw [h0 a])]
  unfold State.vWrites State.vTaken VSpec.rowsAt rowsOf
  rw [hd]
  cases d with
  | dq n => by_cases a : x.len = 0 <;> simp [a, h0, VCtx.mirrored]
  | _ => simp [VCtx.mirrored]

/-- The same for a slot without a drain queue, whatever it writes. -/
theorem vTake_rest {sp : VSpec} {s : State} {x : VCtx} {t : Tag} {r : VOut} (groups : List Nat)
    (hb : sp.body x t 0 = r) (hm : x.mir ≠ 0 → x.len ≠ 0 → sp.body x t x.mir = r) (he : r.err = none)
    (h0 : x.len = 0 → r = { masks := r.masks }) :
    vTake sp s x t (queuesOf sp.srcs) groups none
      = s.vTaken sp.srcs sp.lat sp.hold (sp.rowsAt x.len) groups
          ((r.masks.filter (fun q => q.1 != 0)).map (fun q => Dep.k q.1) ++ (if r.vsc.isEmpty then [] else [Dep.vsc]))
          { gs := x.gs, puts := x.mirrored r.puts, keep := x.mirrored r.keep, tags := r.tags, masks := r.masks, vsc := r.vsc } := by
  rw [vTake_agree groups _ hb hm he h0]
  rfl

/-- A slot of a placed hart. -/
theorem onHart_eq {s : State} {h : Hart} {k : Hart → State} (e : s.cur = some h) : onHart s k = .next (k h) := by
  simp [onHart, e]

/-- What every elementwise slot does, from what it does to one cell. -/
theorem vElem_elementwise {s : State} {h : Hart} {f : VV} {t : Tag} {acc : Tag → Bool} {useA useB useD all : Bool} {cell : VCtx → VIn → Cell × Bool} {i : Instr}
    {c : VCtx → Nat → Nat → Nat → Cell × Bool}
    (e : s.cur = some h) (hi : exec i s = vElem f s acc useA useB useD all cell)
    (hc : ∀ x off b j, (x.h = h) → (all || (h.ok f.k.toNat).getLsbD j) = true → cell x
        { t := t, a := (if useA then x.src (vw f.vs1) t b off j else (0, false)).1, b := (if useB then x.src (vw f.vs2) t b off j else (0, false)).1, d := (if useD then x.src (vw f.vd) t b off j else (0, false)).1, pa := (if useA then x.src (vw f.vs1) t b off j else (0, false)).2, pb := (if useB then x.src (vw f.vs2) t b off j else (0, false)).2, pd := (if useD then x.src (vw f.vd) t b off j else (0, false)).2, k := (h.ok f.k.toNat).getLsbD j, pep := x.pep (vw f.vd) t b j } = c x off b j) :
    s.elementwise h f t acc ((if useA then [vw f.vs1] else []) ++ (if useB then [vw f.vs2] else [])) useD all c i := by
  unfold State.elementwise
  intro vd blk x puts near hf hp ht hb hm
  have key : ∀ off, (List.range blk).flatMap (fun b => (List.range x.len).filterMap (fun j =>
          let k := (x.h.ok f.k.toNat).getLsbD j
          if !k && !all then none
          else
            let (a, pa) := if useA then x.src (vw f.vs1) t b off j else (0, false)
            let (y, pb) := if useB then x.src (vw f.vs2) t b off j else (0, false)
            let (d, pd) := if useD then x.src vd t b off j else (0, false)
            let (r, c) := vAt vd b j
            let o := cell x { t := t, a := a, b := y, d := d, pa := pa, pb := pb, pd := pd, k := k, pep := x.pep vd t b j }
            some (r, c, o.1, o.2))) = puts off := by
    intro off
    simp only [puts]
    congr 1
    funext b
    induction List.range x.len with
    | nil => rfl
    | cons j l ih =>
      by_cases hj : (all || (h.ok f.k.toNat).getLsbD j) = true
      · have hx : x.h = h := rfl
        have h1 := hc x off b j hx hj
        simp only [List.filterMap_cons, List.filter_cons, hj, if_true, List.map_cons]
        rw [← ih, ← h1]
        have : (!(h.ok f.k.toNat).getLsbD j && !all) = false := by
          revert hj; cases all <;> cases (h.ok f.k.toNat).getLsbD j <;> simp
        simp only [hx, this]
        simp [vd]
      · simp only [List.filterMap_cons, List.filter_cons, if_neg hj, ← ih]
        have hx : x.h = h := rfl
        have : (!(h.ok f.k.toNat).getLsbD j && !all) = true := by
          revert hj; cases all <;> cases (h.ok f.k.toNat).getLsbD j <;> simp
        simp [hx, this]
  have z : x.len = 0 → puts 0 = [] := by
    intro a; simp [puts, a]
  rw [hi, vElem, onHart_eq e]
  rw [vDrive_of_free (t := t)]
  · congr 1
    refine vTake_puts vd near rfl ?_ (fun a _ => ?_) z
    · exact congrArg (fun l => ({ puts := l } : VOut)) (key 0)
    · rw [← hm a]
      exact congrArg (fun l => ({ puts := l } : VOut)) (key x.mir)
  · exact hf
  · rfl
  · exact hp
  · simp only
    erw [ht]
    simp only
    rw [if_pos hb]


/-- What a slot that moves the cells of one source about does, from the cells `l` that it computes in the primary columns and, in protected mode, in the mirror. -/
theorem vMove_writes {s : State} {h : Hart} {f : VV} {t : Tag} {acc : Tag → Bool} {lat hold : Nat} {useB : Bool} {limit : Tag → Nat → Bool}
    {go : VCtx → Tag → (Nat → Cell × Bool) → (Nat → Cell × Bool) → List (Nat × Cell × Bool)} {srcs : List View} {x : VCtx} {near : List Nat}
    {l : List (Nat × Nat × Cell × Bool)} (e : s.cur = some h) (hsrcs : srcs = vw f.vs1 :: (if useB then [vw f.vs2] else [])) (hx : x = s.vIn h srcs)
    (hn : near = x.groupsAt ((vw f.vd :: srcs).flatMap (fun v => vCols v x.len)))
    (hputs : ∀ off, (off = 0 ∨ (off = x.mir ∧ x.mir ≠ 0)) →
      (go x t (x.src (vw f.vs1) t 0 off) (if useB then x.src (vw f.vs2) .i32 0 off else fun _ => (0, false))).map
        (fun q => ((vAt (vw f.vd) 0 q.1).1, (vAt (vw f.vd) 0 q.1).2, q.2)) = l)
    (hf : s.vFree h srcs (some (vw f.vd)) (srcs.flatMap (fun v => vRows v x.len 1)) (vRows (vw f.vd) x.len 1) near)
    (hp : x.probe (srcs ++ [vw f.vd]) 1 = none) (hs : useB = true → ∀ o, x.srcTag (vw f.vs2) 1 = some o → o = some .i32)
    (ht : tagEq acc [x.srcTag (vw f.vs1) 1] (x.dstTag (vw f.vd) 1) = .ok t) (hl : limit t x.len = true) (h0 : x.len = 0 → l = []) :
    vMove f s acc lat hold useB limit go = .next (s.vWrites x t srcs (vw f.vd) lat hold (vRows (vw f.vd) x.len 1) near l) := by
  subst hsrcs hx hn
  rw [vMove, onHart_eq e, vDrive_of_free (t := t) hf rfl hp]
  · congr 1
    refine vTake_puts (vw f.vd) _ rfl ?_ (fun a _ => ?_) h0
    · exact congrArg (fun l => ({ puts := l } : VOut)) (hputs 0 (.inl rfl))
    · exact congrArg (fun l => ({ puts := l } : VOut)) (hputs _ (.inr ⟨rfl, a⟩))
  · simp only [ht, hl, if_true]
    rw [if_neg]
    cases useB
    · simp
    · simp only [if_true]
      intro a
      rcases hq : (s.vIn h [vw f.vs1, vw f.vs2]).srcTag (vw f.vs2) 1 with _ | o
      · simp_all
      · have := hs rfl o hq
        simp_all

end Sys2Proof.Machine
end

