-- ==== Sys2Proof/Tests/Slice0.lean ====
section
/-! SUPPORT. Tests: ill-formed terms that the two decode checks refuse, words written out from the encoding tables, the hypotheses of every
statement met by a small state, and single steps whose results stand in the spec's rules. -/
namespace Sys2Proof.Tests
open Sys2Proof Sys2Proof.Machine
set_option maxRecDepth 100000

/-! Formats with every field 0. -/
def sr : SR := { d := 0, s1 := 0, s2 := 0, rm := 0 }
def si : SI := { d := 0, s1 := 0, imm := 0 }
def sb : SB := { s1 := 0, s2 := 0, d := 0, off := 0 }
def lm : LM := { t := 0, a := 0, x := 0, k := 0, q := 0, sc := 0, pi := 0, off := 0 }
def lc : LC := { d := 0, a := 0, s1 := 0, s2 := 0, k := 0, sc := 0, imm := 0 }
def vv : VV := { vd := 0, vs1 := 0, vs2 := 0, k := 0, rm := 0, sat := 0, fx := 0, imm := 0 }
def mu : MU := { qa := 0, qb := 1, hs := 0, fa := 0, fb := 0 }
def mc : MC := { d := 0, s1 := 0, hs := 0, imm := 0 }

/-! Well-formedness: one ill-formed term for each check of order 4 and order 5 of R76; the checks refuse every one. -/
theorem test_wf_refuses_scalar_fields :
    [Instr.add { sr with rm := 1 }, .amovg { sr with s2 := 1 }, .fsqrt { sr with s2 := 1 }, .trap { sr with d := 1 }, .nop { sr with s1 := 1 }, .frqpop { sr with d := 4, s1 := 1 },
     .lui { si with s1 := 1 }, .semts { si with imm := 2 }, .barwait { si with s1 := 1 }, .barwait { si with imm := 8 }, .barwaitSet { si with imm := 12 }, .yieldGang { si with s1 := 1, imm := 1 },
     .beq { sb with d := 1 }, .bz { sb with s2 := 1 }, .jmp { sb with s1 := 1 }, .jal { sb with s2 := 1 }, .jr { sb with d := 1 }, .ret { sb with off := 1 },
     .movs { d := 0, s1 := 2, cr := 0 }, .movd { d := 2, s1 := 0, cr := 3 }].all (fun i => !i.unused) = true := by decide
theorem test_wf_refuses_scalar_values :
    [Instr.aadd { sr with d := 16 }, .aadd { sr with s1 := 16 }, .asub { sr with s2 := 16 }, .amovg { sr with d := 16 }, .amova { sr with s1 := 31 }, .jal { sb with d := 16 }, .jr { sb with s1 := 16 },
     .fadd { sr with rm := 5 }, .frqpop { sr with d := 0 }, .frqpop { sr with d := 5 }, .shli { si with imm := 64 }, .ahi { si with imm := 65536 }, .semts { si with imm := 1 }, .semtsTry si,
     .barwait { si with imm := 4 }, .barwaitSet si, .pbcrd { si with imm := 6 }, .movs { d := 0, s1 := 0, cr := 6 }, .movd { d := 0, s1 := 0, cr := 1 }, .movd { d := 1, s1 := 0, cr := 3 }].all
      (fun i => !i.values) = true := by decide
theorem test_wf_refuses_memory_fields :
    [Instr.ldB { lm with t := 32 }, .ldB { lm with k := 1 }, .ldB { lm with sc := 1 }, .ldB { lm with x := 1, off := 1 }, .ldB { lm with x := 1, pi := 1 }, .stB { lm with k := 1 }, .stB { lm with sc := 1 },
     .lda { lm with t := 16 }, .sta { lm with t := 16 }, .vld { lm with t := 8 }, .vld { lm with x := 1 }, .vlds { lm with t := 8 }, .vldx { lm with x := 8 }, .vldseg { lm with t := 24 }, .vldseg { lm with t := 144 },
     .vpf { lm with t := 1 }, .vst { lm with t := 8, x := 1 }, .vsts { lm with t := 8, sc := 1 }, .vstx { lm with t := 8, x := 8 }, .vstseg { lm with t := 152 }, .drv { lm with a := 1 }].all (fun i => !i.unused) = true := by decide
theorem test_wf_refuses_atomic_fields :
    [Instr.amoadd { lm with t := 64 }, .amomin { lm with t := 128 }, .amoadd { lm with pi := 1 }, .amoadd { lm with k := 1 }, .vamoadd { lm with t := 2 }, .vamoadd { lm with x := 8 }, .vamomin { lm with t := 32, x := 8 },
     .vamoswp { lm with t := 32 }, .vamoadd { lm with x := 16 }, .gll { lm with pi := 1 }, .scc { lm with t := 8, x := 8 }, .fence { lm with a := 1 }, .bararr { lm with t := 4 }].all (fun i => !i.unused) = true := by decide
theorem test_wf_refuses_memory_values :
    [Instr.ldB { lm with q := 1 }, .ldB { lm with q := 2, sc := 6 }, .stB { lm with q := 2 }, .vld { lm with q := 3 }, .vldseg { lm with t := 0 }, .vpf { lm with q := 1 }, .vst { lm with t := 7 }, .vst { lm with t := 8, q := 2 },
     .vstseg { lm with t := 16 }, .vstseg { lm with t := 8 }, .drv { lm with x := 24 }, .drv { lm with x := 2 }, .amoadd { lm with q := 1 }, .vamoadd { lm with q := 6 }, .fence { lm with q := 1 }, .fence { lm with sc := 6 }].all
      (fun i => !i.values) = true := by decide
theorem test_wf_refuses_commands :
    [Instr.cpy { lc with s2 := 1 }, .cpy { lc with imm := 0x20000 }, .cpy { lc with imm := 32 }, .cpyx { lc with s1 := 1 }, .cpym { lc with imm := 0x20000 }, .cpst { lc with a := 1 }, .cpstWait { lc with k := 1, imm := 32 }, .catq { lc with k := 1 },
     .catu { lc with imm := 1 }, .folmap { lc with s2 := 1 }, .folmapU { lc with s1 := 1, imm := 1 }, .folref { lc with a := 1 }].all (fun i => !i.unused) = true
    ∧ [Instr.cpy { lc with sc := 6 }, .catq { lc with sc := 7 }, .cpst { lc with imm := 32 }, .cpstWait lc, .folmap { lc with imm := 1 }, .folmapU lc].all (fun i => !i.values) = true := by decide
theorem test_wf_refuses_vector_fields :
    [Instr.vadd { vv with fx := 1 }, .vadd { vv with imm := 64 }, .vmin { vv with rm := 1 }, .vabs { vv with vs2 := 1 }, .vmov { vv with sat := 1 }, .vrint { vv with sat := 1 }, .vcmpeq { vv with vd := 1 }, .vcmpeq { vv with imm := 8 },
     .kand { vv with fx := 8 }, .kand { vv with k := 1 }, .knot { vv with fx := 1 }, .kpop { vv with imm := 1 }, .kpois { vv with vs2 := 1 }, .vbcast { vv with vs2 := 1 }, .vcompress { vv with imm := 1 }, .vzero { vv with vs1 := 1 },
     .vperm { vv with imm := 1 }, .gxpose { vv with k := 1 }, .vtag { vv with imm := 16 }, .vrsum { vv with vs2 := 1 }, .cvtN { vv with k := 1 }, .cvtW { vv with vs2 := 1 }, .cvtF4 { vv with imm := 1 }, .cvtF { vv with sat := 1 },
     .vquant { vv with sat := 1 }, .bxadd { vv with fx := 1 }, .bxanch { vv with fx := 2 }, .bxanchI { vv with vs1 := 1 }].all (fun i => !i.unused) = true := by decide
theorem test_wf_refuses_vector_values :
    [Instr.vadd { vv with vd := 0xC01 }, .vadd { vv with vs1 := 0xF10 }, .vadd { vv with vs2 := 0xD02 }, .vadd { vv with rm := 6 }, .vadd { vv with imm := 1, vs1 := 0x400 }, .vfma { vv with vd := 0xF08 }, .vmin { vv with vs1 := 0xFFF },
     .vabs { vv with vd := 0xC00 }, .vrint { vv with rm := 7 }, .vcmpeq { vv with vs2 := 0xD03 }, .kpop { vv with vd := 0xF08 }, .kpois { vv with vs1 := 0xFFF }, .vbcast { vv with vd := 0xC00 }, .vzero { vv with vd := 0xF08 }, .vperm { vv with vs2 := 0xD02 },
     .gxpose { vv with vs1 := 0 }, .gxpose { vv with vd := 0x400, vs1 := 0x400 }, .vtag { vv with vd := 0x400 }, .vtag { vv with imm := 9 }, .vrsum { vv with rm := 6 }, .vrbx { vv with imm := 32 }, .cvtN { vv with fx := 0 }, .cvtW { vv with fx := 7 },
     .cvtW { vv with fx := 1, vd := 1 }, .cvtF4 { vv with fx := 7, vs1 := 4 }, .cvtI { vv with fx := 0 }, .bxcvt { vv with fx := 3 }, .cvtF { vv with fx := 1 }, .vquant { vv with fx := 3, vs2 := 0 }, .setsc { vv with vd := 0 },
     .bxacc { vv with vd := 4 }, .bxanch { vv with vs2 := 0 }, .bxanchI { vv with vs2 := 0xC01, fx := 0 }].all (fun i => !i.values) = true := by decide
theorem test_wf_refuses_matrix :
    [Instr.ckclr { mc with d := 1 }, .ckchk { mc with s1 := 1 }, .ckloc { mc with d := 8 }, .ckfix { mc with hs := 1 }, .ckrdRow { mc with imm := 0x1000 }, .ckrdSt { mc with imm := 0x201 }, .ckinj { mc with d := 1 }, .ckinjP { mc with s1 := 1, imm := 0x10000 },
     .capb { mc with s1 := 1 }, .capr { mc with d := 1 }, .capx { mc with imm := 4 }, .capxSaved { mc with s1 := 1, imm := 1 }].all (fun i => !i.unused) = true
    ∧ [Instr.mop { mu with hs := 3 }, .mop { mu with fa := 1, fb := 7 }, .mopS { mu with fa := 11, fb := 12 }, .ckchk { mc with hs := 3 }, .ckrdRow { mc with imm := 0x100 }, .ckrdCol mc, .ckrdSt mc, .ckinj { mc with imm := 0x10000 }, .ckinjP mc, .capx { mc with imm := 1 },
        .capxSaved mc, .capxFirst { mc with imm := 3 }].all (fun i => !i.values) = true := by decide
/-- R176: an index queue or a result register that the slot also names otherwise. -/
theorem test_self_conflict :
    [Instr.vldx { lm with t := 3, x := 3 }, .gll { lm with t := 3, x := 3 }, .vamoadd { lm with t := 16 }, .lda { lm with t := 2, a := 2, pi := 1 }].all Instr.selfConflict = true
    ∧ [Instr.vldx { lm with t := 3, x := 2 }, .vamoadd { lm with t := 18 }, .lda { lm with t := 3, a := 2, pi := 1 }].any Instr.selfConflict = false := by decide

/-- The subcause with which a word is refused, 0 where it is not. -/
def refusal (c : Cls) (w : Word) : Nat := match decodeSlot c w with | .error n => n | .ok _ => 0

/-! Decoding: words written out from R64 to R73, opcode first and then every field, highest bit first. -/
theorem test_decode_s_arithmetic :
    (decodeSlot .S (0x09#8 ++ 31#5 ++ 17#5 ++ 9#5 ++ 0#3 ++ 0#38)).toOption = some (.remu { d := 31, s1 := 17, s2 := 9, rm := 0 })
    ∧ (decodeSlot .S (0x12#8 ++ 1#5 ++ 2#5 ++ 0x15555555555#41 ++ 0#5)).toOption = some (.ori { d := 1, s1 := 2, imm := 0x15555555555 })
    ∧ (decodeSlot .S (0x1B#8 ++ 4#5 ++ 5#5 ++ 6#5 ++ 0#3 ++ 0#38)).toOption = some (.sltu { d := 4, s1 := 5, s2 := 6, rm := 0 })
    ∧ (decodeSlot .S (0x25#8 ++ 5#5 ++ 15#5 ++ 0xFFFF#41 ++ 0#5)).toOption = some (.ahi { d := 5, s1 := 15, imm := 0xFFFF }) := by decide
theorem test_decode_s_float :
    (decodeSlot .S (0x2C#8 ++ 1#5 ++ 2#5 ++ 3#5 ++ 4#3 ++ 0#38)).toOption = some (.fdiv { d := 1, s1 := 2, s2 := 3, rm := 4 })
    ∧ (decodeSlot .S (0x34#8 ++ 1#5 ++ 2#5 ++ 0#5 ++ 1#3 ++ 0#38)).toOption = some (.fcvtF { d := 1, s1 := 2, s2 := 0, rm := 1 })
    ∧ (decodeSlot .S (0x35#8 ++ 30#5 ++ 29#5 ++ 0#5 ++ 0#3 ++ 0#38)).toOption = some (.fclass { d := 30, s1 := 29, s2 := 0, rm := 0 }) := by decide
theorem test_decode_s_control :
    (decodeSlot .S (0x55#8 ++ 3#5 ++ 4#5 ++ 0#5 ++ 0x1FFFFFFFFFE#41)).toOption = some (.bgeu { s1 := 3, s2 := 4, d := 0, off := 0x1FFFFFFFFFE })
    ∧ (decodeSlot .S (0x59#8 ++ 0#5 ++ 0#5 ++ 14#5 ++ 7#41)).toOption = some (.jal { s1 := 0, s2 := 0, d := 14, off := 7 })
    ∧ (decodeSlot .S (0x5B#8 ++ 14#5 ++ 0#5 ++ 0#5 ++ 0#41)).toOption = some (.ret { s1 := 14, s2 := 0, d := 0, off := 0 })
    ∧ (decodeSlot .S (0x60#8 ++ 8#5 ++ 1#5 ++ 65#12 ++ 0#34)).toOption = some (.movs { d := 8, s1 := 1, cr := 65 })
    ∧ (decodeSlot .S (0x61#8 ++ 0#5 ++ 9#5 ++ 3#12 ++ 0#34)).toOption = some (.movd { d := 0, s1 := 9, cr := 3 })
    ∧ (decodeSlot .S (0x63#8 ++ 2#5 ++ 3#5 ++ 0#5 ++ 0#3 ++ 0#38)).toOption = some (.setmvl { d := 2, s1 := 3, s2 := 0, rm := 0 }) := by decide
theorem test_decode_s_system :
    (decodeSlot .S (0x74#8 ++ 1#5 ++ 2#5 ++ 7#41 ++ 0#5)).toOption = some (.barwaitSet { d := 1, s1 := 2, imm := 7 })
    ∧ (decodeSlot .S (0x77#8 ++ 1#5 ++ 2#5 ++ 0#5 ++ 0#3 ++ 0#38)).toOption = some (.cancel { d := 1, s1 := 2, s2 := 0, rm := 0 })
    ∧ (decodeSlot .S (0x7A#8 ++ 1#5 ++ 0#5 ++ 1#41 ++ 0#5)).toOption = some (.yieldGang { d := 1, s1 := 0, imm := 1 })
    ∧ (decodeSlot .S (0xE4#8 ++ 28#5 ++ 0#5 ++ 0#5 ++ 0#3 ++ 0#38)).toOption = some (.frqpop { d := 28, s1 := 0, s2 := 0, rm := 0 })
    ∧ (decodeSlot .S (0xE0#8 ++ 0#5 ++ 6#5 ++ 0#5 ++ 0#3 ++ 0#38)).toOption = some (.trap { d := 0, s1 := 6, s2 := 0, rm := 0 }) := by decide
theorem test_decode_l_scalar :
    (decodeSlot .L (0x06#8 ++ 31#8 ++ 15#4 ++ 0#5 ++ 1#3 ++ 2#3 ++ 5#3 ++ 1#1 ++ 0x1FFFFFFF#29)).toOption = some (.lduH { t := 31, a := 15, x := 0, k := 1, q := 2, sc := 5, pi := 1, off := 0x1FFFFFFF })
    ∧ (decodeSlot .L (0x0D#8 ++ 15#8 ++ 3#4 ++ 4#5 ++ 0#3 ++ 3#3 ++ 4#3 ++ 0#1 ++ 0#29)).toOption = some (.sta { t := 15, a := 3, x := 4, k := 0, q := 3, sc := 4, pi := 0, off := 0 })
    ∧ (decodeSlot .L (0x27#8 ++ 0x25#8 ++ 1#4 ++ 9#5 ++ 0#3 ++ 2#3 ++ 3#3 ++ 0#1 ++ 16#29)).toOption = some (.amocas { t := 0x25, a := 1, x := 9, k := 0, q := 2, sc := 3, pi := 0, off := 16 })
    ∧ (decodeSlot .L (0x31#8 ++ 3#8 ++ 0#4 ++ 0#5 ++ 0#3 ++ 0#3 ++ 5#3 ++ 0#1 ++ 0#29)).toOption = some (.bararr { t := 3, a := 0, x := 0, k := 0, q := 0, sc := 5, pi := 0, off := 0 }) := by decide
theorem test_decode_l_vector :
    (decodeSlot .L (0x12#8 ++ 0x35#8 ++ 2#4 ++ 7#5 ++ 4#3 ++ 1#3 ++ 0#3 ++ 1#1 ++ 4#29)).toOption = some (.vldseg { t := 0x35, a := 2, x := 7, k := 4, q := 1, sc := 0, pi := 1, off := 4 })
    ∧ (decodeSlot .L (0x1C#8 ++ 0xC8#8 ++ 0#4 ++ 9#5 ++ 5#3 ++ 0#3 ++ 0#3 ++ 0#1 ++ 0#29)).toOption = some (.drv { t := 0xC8, a := 0, x := 9, k := 5, q := 0, sc := 0, pi := 0, off := 0 })
    ∧ (decodeSlot .L (0x2D#8 ++ 9#8 ++ 1#4 ++ 3#5 ++ 6#3 ++ 5#3 ++ 3#3 ++ 0#1 ++ 0#29)).toOption = some (.scc { t := 9, a := 1, x := 3, k := 6, q := 5, sc := 3, pi := 0, off := 0 }) := by decide
theorem test_decode_l_commands :
    (decodeSlot .L (0x42#8 ++ 1#5 ++ 0#3 ++ 2#4 ++ 3#5 ++ 4#5 ++ 5#3 ++ 3#3 ++ 0x1FFFF#28)).toOption = some (.cpym { d := 1, a := 2, s1 := 3, s2 := 4, k := 5, sc := 3, imm := 0x1FFFF })
    ∧ (decodeSlot .L (0x44#8 ++ 1#5 ++ 0#3 ++ 0#4 ++ 0#5 ++ 0#5 ++ 0#3 ++ 5#3 ++ 0x3F#28)).toOption = some (.cpstWait { d := 1, a := 0, s1 := 0, s2 := 0, k := 0, sc := 5, imm := 0x3F })
    ∧ (decodeSlot .L (0x50#8 ++ 6#5 ++ 0#3 ++ 7#4 ++ 8#5 ++ 9#5 ++ 0#3 ++ 3#3 ++ 0xABCD#28)).toOption = some (.catq { d := 6, a := 7, s1 := 8, s2 := 9, k := 0, sc := 3, imm := 0xABCD })
    ∧ (decodeSlot .L (0x52#8 ++ 6#5 ++ 0#3 ++ 7#4 ++ 0#5 ++ 0#5 ++ 0#3 ++ 0#3 ++ 1#28)).toOption = some (.folmapU { d := 6, a := 7, s1 := 0, s2 := 0, k := 0, sc := 0, imm := 1 }) := by decide
theorem test_decode_v :
    (decodeSlot .V (0x06#8 ++ 0x4FF#12 ++ 0xC1F#12 ++ 0xE07#12 ++ 7#3 ++ 5#3 ++ 1#1 ++ 0#5 ++ 0#8)).toOption = some (.vfnma { vd := 0x4FF, vs1 := 0xC1F, vs2 := 0xE07, k := 7, rm := 5, sat := 1, fx := 0, imm := 0 })
    ∧ (decodeSlot .V (0x25#8 ++ 0#12 ++ 0x803#12 ++ 0xD01#12 ++ 2#3 ++ 0#3 ++ 0#1 ++ 0#5 ++ 6#8)).toOption = some (.vcmpleu { vd := 0, vs1 := 0x803, vs2 := 0xD01, k := 2, rm := 0, sat := 0, fx := 0, imm := 6 })
    ∧ (decodeSlot .V (0x37#8 ++ 0x0F8#12 ++ 0#12 ++ 0#12 ++ 0#3 ++ 0#3 ++ 0#1 ++ 0#5 ++ 8#8)).toOption = some (.vtag { vd := 0x0F8, vs1 := 0, vs2 := 0, k := 0, rm := 0, sat := 0, fx := 0, imm := 8 })
    ∧ (decodeSlot .V (0x45#8 ++ 0x001#12 ++ 0x002#12 ++ 0#12 ++ 3#3 ++ 0#3 ++ 0#1 ++ 0#5 ++ 0xFF#8)).toOption = some (.vrexp { vd := 1, vs1 := 2, vs2 := 0, k := 3, rm := 0, sat := 0, fx := 0, imm := 0xFF })
    ∧ (decodeSlot .V (0x55#8 ++ 0x001#12 ++ 0x002#12 ++ 0xD03#12 ++ 0#3 ++ 1#3 ++ 0#1 ++ 7#5 ++ 0x20#8)).toOption = some (.vquant { vd := 1, vs1 := 2, vs2 := 0xD03, k := 0, rm := 1, sat := 0, fx := 7, imm := 0x20 })
    ∧ (decodeSlot .V (0x59#8 ++ 0x008#12 ++ 0#12 ++ 0xC05#12 ++ 0#3 ++ 0#3 ++ 0#1 ++ 1#5 ++ 0#8)).toOption = some (.bxanchI { vd := 8, vs1 := 0, vs2 := 0xC05, k := 0, rm := 0, sat := 0, fx := 1, imm := 0 }) := by decide
theorem test_decode_m :
    (decodeSlot .M (0x04#8 ++ 0#1 ++ 7#3 ++ 0#1 ++ 6#3 ++ 2#2 ++ 6#5 ++ 3#5 ++ 0#36)).toOption = some (.mopZs { qa := 7, qb := 6, hs := 2, fa := 6, fb := 3 })
    ∧ (decodeSlot .M (0x24#8 ++ 3#5 ++ 4#5 ++ 0#2 ++ 0#12 ++ 0xDFE#32)).toOption = some (.ckrdCol { d := 3, s1 := 4, hs := 0, imm := 0xDFE })
    ∧ (decodeSlot .M (0x25#8 ++ 0#5 ++ 0#5 ++ 0#2 ++ 0#12 ++ 0x1FF02#32)).toOption = some (.ckinjP { d := 0, s1 := 0, hs := 0, imm := 0x1FF02 })
    ∧ (decodeSlot .M (0x33#8 ++ 0#5 ++ 5#5 ++ 0#2 ++ 0#12 ++ 0#32)).toOption = some (.capx { d := 0, s1 := 5, hs := 0, imm := 0 }) := by decide
/-- R61, R69, R76: an unallocated opcode answers subcause 1, a bit that no field has 2, a reserved value 3. -/
theorem test_decode_refuses :
    refusal .S (0x00#8 ++ 0#56) = 1 ∧ refusal .S (0x27#8 ++ 0#56) = 1 ∧ refusal .L (0x0E#8 ++ 0#56) = 1 ∧ refusal .V (0x16#8 ++ 0#56) = 1
    ∧ refusal .M (0x05#8 ++ 0#56) = 1 ∧ refusal .S (0x01#8 ++ 0#55 ++ 1#1) = 2 ∧ refusal .L (0x40#8 ++ 0#5 ++ 1#3 ++ 0#48) = 2
    ∧ refusal .V (0x01#8 ++ 0x100#12 ++ 0#44) = 3 ∧ refusal .M (0x01#8 ++ 1#1 ++ 0#55) = 2 ∧ refusal .S (0x28#8 ++ 0#15 ++ 6#3 ++ 0#38) = 3 := by decide
/-- R47, R48: bits [3:0] of the header say which slots are present; the S slot stands first, then L, V and M. -/
theorem test_decode_packets :
    decodeTableWord 96 (2 + (0x06#8 ++ 1#8 ++ 2#4 ++ 0#44 : Word).toNat * 2 ^ 32) = some (.lduH { lm with t := 1, a := 2 })
    ∧ decodeTableWord 96 (4 + (0x33#8 ++ 9#12 ++ 0#44 : Word).toNat * 2 ^ 32) = some (.vzero { vv with vd := 9 })
    ∧ decodeTableWord 96 (8 + (0x20#8 ++ 0#56 : Word).toNat * 2 ^ 32) = some (.ckclr mc)
    ∧ decodeTableWord 160 (3 + (0xE3#8 ++ 0#56 : Word).toNat * 2 ^ 32 + (0x04#8 ++ 0#56 : Word).toNat * 2 ^ 96) = some (.nop sr)
    ∧ decodeTableWord 96 0 = none ∧ decodeTableWord 96 (2 ^ 18 + 1 + (0xE3#8 ++ 0#56 : Word).toNat * 2 ^ 32) = none
    ∧ (State.reset.withFetchWord 96 (1 + (0x01#8 ++ 3#5 ++ 4#5 ++ 5#5 ++ 0#3 ++ 0#38 : Word).toNat * 2 ^ 32)).agenda = [({}, .packetIssue)] := by decide

/-! A state to run slots in: the boot hart of die 0 (R101), its gang with every queue claimed at its full size, with a packet in issue on core 0 and its registers as they stood at issue. -/
def bench (f : Hart → Hart) : State :=
  let s := (State.reset.writeBoot 0 1#64).modGang 0 0 (fun r => { r with desc := { r.desc with qclaim := 1023, qsize := List.replicate 10 1024 } })
  { s.modHart 0 0 (fun h => let x := f h; { x with opnd := x.regs, octrl := x.ctrl }) with issue := { active := true, pc0 := 0x100#80, npc := 0x10C#80 } }
def hart (s : State) : Hart := s.cur.getD {}
/-- The bench with values in registers. -/
def benchG (g : List (Nat × Word)) (a : List (Nat × VAddr)) : State := bench (fun h => { h with regs := { g := tsetMany h.regs.g g, a := tsetMany h.regs.a a } })
def s0 : State := bench id
/-- Bytes put into memory at an address of die 0's first stack. -/
def poke (s : State) (a : Nat) (b : List Byte) : State :=
  match s.xlateSpan (s.who 0 (hart s)) (BitVec.ofNat 80 a) b.length .store false with
  | (_, .ok l) => { s with mem := memSetMany s.mem ((l.zip b).filterMap (fun q => match q.1.loc with | .mem k => some (k, q.2) | _ => none)) }
  | _ => s
/-- A scalar access that is translated: the state after its table walks, and its places. -/
def span (s : State) (va n : Nat) (acc : Acc) : State × List XOk :=
  match ({ s with issue := { s.issue with walk := some (s.who s.issue.core (hart s), BitVec.ofNat 80 va, n, acc) } } : State).xlateSpan (s.who s.issue.core (hart s)) (BitVec.ofNat 80 va) n acc
    (n == 8 && (BitVec.ofNat 80 va).toNat % 8 == 0 && acc != .atomic) with
  | (t, .ok l) => (t, l)
  | (t, .error _) => (t, [])

/-! Each statement has hypotheses that some state and operands meet. The statements about slots whose only hypothesis is a placed hart with a packet in issue
(RegisterWrites, IntegerArithmetic, ControlTransfers, ControlRegisters) are met by every state of the next theorem. -/
theorem test_witness_placed_hart : s0.cur = some (hart s0) ∧ (hart s0).og 0 = 0 ∧ (benchG [(31, 5)] []).cur = some (hart (benchG [(31, 5)] [])) ∧ (hart (benchG [(31, 5)] [])).og 31 = 5 := by decide
theorem test_witness_RegisterWrites : s0.cur = some (hart s0) ∧ ((benchG [(31, 5)] []).cur = some (hart (benchG [(31, 5)] []))) := by decide
theorem test_witness_IntegerArithmetic : s0.cur = some (hart s0) := by decide
theorem test_witness_ControlTransfers :
    s0.cur = some (hart s0) ∧ (let s := bench (fun h => { h with pc := 0x102#80 }); s.hart? 0 0 = some (hart s) ∧ (hart s).pc.toNat % 4 ≠ 0 ∧ (hart s).exited = false ∧ s.overdue 0 = false ∧ (hart s).pend = 0
      ∧ (hart s).stopped = false ∧ (hart s).owed = [] ∧ (hart s).stall29 = [] ∧ (hart s).handler = false ∧ (hart s).reNow = 0 ∧ (hart s).tileNow = none ∧ (hart s).carrel.st ≠ .replaying ∧ (hart s).vpend = none) := by decide
theorem test_witness_ControlTransfersNext :
    ({ npc := 0x40 } : Issue).again = false ∧ ({ npc := 0x40 } : Issue).crl = false ∧ (∀ x ∈ [((Cls.S, encode (.jmp sb)) : Slot)], x.1 = .S → opOf x.2 ≠ 0xE1) := by decide
theorem test_witness_ControlRegisters : s0.cur = some (hart s0) := by decide
theorem test_witness_ScalarFloat : s0.cur = some (hart s0) ∧ Rnd.ofCode ({ sr with rm := 0 } : SR).rm.toNat = some .rne ∧ Rnd.ofCode ({ sr with rm := 4 } : SR).rm.toNat = some .rto := by decide

def sLen : State := benchG [(1, 16), (2, 17)] []
/-- A gang of one column group, which may use lengths up to 16 and cannot grow. -/
def grouped (s : State) : State := (s.modGang 0 0 (fun r => { r with g := 1, places := [{ core := 0, spbase := 0, rgi := 0, slots := [0] }] })).modCore 0 (fun c => { c with lat := 0x0000FFFFFFFFFFF8#64 })
theorem test_witness_SetLengths :
    (let s := grouped sLen
     let h := hart s
     s.cur = some h ∧ (s.groupsOf 0 h).any (latPend (s.core 0).lat) = false ∧ s.maxl 0 h = 16 ∧ (h.og 1).toNat ≤ s.maxl 0 h ∧ s.maxl 0 h < (h.og 2).toNat ∧ (s.grow 0 h (h.og 2).toNat).2 = none)
    ∧ (let s := (grouped sLen).modCore 0 (fun c => { c with lat := 0x0001FFFFFFFFFFF8#64 })
       s.cur = some (hart s) ∧ (s.groupsOf 0 (hart s)).any (latPend (s.core 0).lat) = true) := by decide

/-- A gang with groups still to be restored, and one whose restoring has stopped. -/
theorem test_witness_SetLengths_growth :
    (let s := (grouped sLen).modGang 0 0 (fun r => { r with unrestored := [(0, 5)] })
     (s.gang 0 0).growStalled = false ∧ (s.gang 0 0).unrestored ≠ [])
    ∧ (((grouped sLen).modGang 0 0 (fun r => { r with growStalled := true })).gang 0 0).growStalled = true := by decide

def sSem : State := (benchG [(1, 63)] []).modDie 0 (fun d => { d with sem := 2 })
theorem test_witness_SemaphoresAndWords :
    let h := hart sSem
    sSem.cur = some h ∧ fldN (h.og 1) 11 8 = 0 ∧ sSem.gone 0 0 = false ∧ (sSem.die 0).sem.getLsbD 63 = false ∧ (sSem.die 0).sem.getLsbD 1 = true ∧ sSem.relReady h 3 = true ∧ (sSem.die 0).semq = []
    ∧ ({ sSem with hub := { sSem.hub with fset := 2 ^ 3 } } : State).gone 0 3 = true := by decide

/-- Requests of later harts that have reached die 0 in the cycle: one for its words, one that cleared bit 63. -/
def sLater (kind : Nat) : State := sSem.modDie 0 (fun d => { d with reqAt := sSem.cycle, reqs := [(9, kind, 63)] })
theorem test_witness_SemaphoresAndWords_order :
    (sLater 0).cur = some (hart sSem) ∧ ((sLater 0).die 0).reqAt = (sLater 0).cycle ∧ (∃ q ∈ ((sLater 0).die 0).reqs, 8 * (sLater 0).issue.core + (sLater 0).issue.slot < q.1 ∧ q.2.1 = 0)
    ∧ (∀ q ∈ ((sLater 2).die 0).reqs, q.1 ≤ 8 * (sLater 2).issue.core + (sLater 2).issue.slot ∨ (q.2.1 = 2 ∧ q.2.2 = 63)) := by decide

def sBar : State := benchG [(1, 65), (2, 64), (3, 128)] []
def sBarBusy : State := sBar.setBar (hart sBar) 1 { arr := 1 }
theorem test_witness_BarriersAndFence :
    let h := hart sBar
    sBar.cur = some h ∧ barDone (sBar.bar h 0).phase (tget 0 h.wt 0) = true ∧ 64 < fldN (h.og 1) 6 0 ∧ fldN (h.og 3) 15 7 ≠ 0 ∧ fldN (h.og 2) 6 0 ≤ 64 ∧ fldN (h.og 2) 15 7 = 0
    ∧ (sBar.bar h 0).arr = 0 ∧ (sBar.bar h 0).cred = 0 ∧ sBarBusy.cur = some (hart sBarBusy) ∧ (sBarBusy.bar (hart sBarBusy) 1).arr ≠ 0 ∧ sBar.fenceReady h 5 = true := by decide

/-- A launch descriptor at 0x1000 of the boot hart: one core, one S hart, one group. -/
def sLaunch (b : List Byte) : State := poke (benchG [] [(2, 0x1000)]) 0x1000 b
def blank (n : Nat) : List Byte := List.replicate n 0
def goodDesc : List Byte := blank 64 ++ [1, 0, 0, 0, 1, 0, 0, 0, 1] ++ blank 55
theorem test_witness_LaunchSignalCancel_refused :
    (let s := sLaunch (blank 128)
     let h := hart s
     let r := span s 0x1000 128 .load
     s.cur = some h ∧ (h.oa 2).toNat % 64 = 0 ∧ s.relReady h 3 = true ∧ s.lands h (h.oa 2) 128 .load r.1 r.2 ∧ r.1.badByte r.2 = none ∧ r.1.descAccepted (r.1.got r.2 []) h.priv = false) :=
  ⟨by decide, by decide, by decide, ⟨rfl, rfl, rfl, rfl, rfl⟩, by decide, by decide⟩
theorem test_witness_LaunchSignalCancel_accepted :
    (let s := sLaunch goodDesc
     let h := hart s
     let r := span s 0x1000 128 .load
     s.cur = some h ∧ s.lands h (h.oa 2) 128 .load r.1 r.2 ∧ r.1.badByte r.2 = none ∧ r.1.descAccepted (r.1.got r.2 []) h.priv = true
     ∧ (List.range 1024).find? (fun i => ((r.1.noteSeen (locKeys r.2)).gang 0 i).st == 0) = some 1) :=
  ⟨by decide, ⟨rfl, rfl, rfl, rfl, rfl⟩, by decide, by decide, by decide⟩
/-- Records 1 to 3 of die 0: WAITING with and without a dependence count, and a running gang; the registers g1 to g3 hold their handles, g4 a handle of no record. -/
def sRecs : State :=
  let s := benchG [(1, 1), (2, 2), (3, 3), (4, 4), (5, 0)] []
  let rec_ (i st deps : Nat) : Rec := { st := st, handle := handleOf 0 false 0 i, deps := deps }
  ((s.setGang 0 1 (rec_ 1 2 1)).setGang 0 2 (rec_ 2 2 0)).setGang 0 3 (rec_ 3 5 0)
theorem test_witness_LaunchSignalCancel_records :
    let h := hart sRecs
    sRecs.recStatus h 1 = .ok (0, .res 1) ∧ sRecs.recStatus h 2 = .ok (0, .res 2) ∧ sRecs.recStatus h 3 = .ok (0, .res 3) ∧ sRecs.recStatus h 0 = .ok (0, .res 0) ∧ sRecs.recStatus h 4 = .error 2
    ∧ sRecs.cur = some h ∧ h.pend = 0 ∧ sRecs.relReady h 3 = true ∧ (sRecs.recAt 0 (.res 1)).deps ≠ 0 ∧ (sRecs.recAt 0 (.res 2)).deps = 0 ∧ (sRecs.recAt 0 (.res 1)).st = 2 ∧ (sRecs.recAt 0 (.res 3)).st = 5
    ∧ h.die = 0 ∧ h.idx = 0 := ⟨rfl, rfl, rfl, rfl, rfl, by decide⟩
/-- A handle that no record has; records of another context, of a fenced die, READY, READY and placed before, spilled, PLACING and ENDING. -/
theorem test_witness_LaunchSignalCancel_states :
    (let h := hart sRecs
     h.served = false ∧ sRecs.lookup 4 = none ∧ sRecs.lookup 1 = some (0, .res 1) ∧ sRecs.gone 0 0 = false ∧ sRecs.heldDie 0 0 = false ∧ (sRecs.die 0).reqs = [] ∧ sRecs.endWaits 0 (sRecs.recAt 0 (.res 1)) = false
     ∧ (sRecs.die 0).fullAt ≠ some sRecs.cycle ∧ (sRecs.modHub (fun x => { x with fset := 2 ^ 3 })).gone 0 3 = true)
    ∧ (let s := sRecs.modGang 0 1 (fun r => { r with ctx := 5 }); (s.recAt 0 (.res 1)).ctx ≠ (hart s).curCtx ∧ (s.modHart 0 0 (fun h => { h with ctrl := { h.ctrl with fw := false }, octrl := { h.octrl with fw := false } })).cur.any (fun h => !h.priv) = true)
    ∧ [3, 4, 6, 7].all (fun n => let s := sRecs.modGang 0 2 (fun r => { r with st := n }); (s.recAt 0 (.res 2)).st == n && s.lookup 2 == some (0, .res 2)) = true
    ∧ (let s := sRecs.modGang 0 2 (fun r => { r with st := 3, places := [{}] }); (s.recAt 0 (.res 2)).st = 3 ∧ (s.recAt 0 (.res 2)).places ≠ [])
    ∧ (let s := sRecs.setRing 0 0 { st := 1, handle := handleOf 0 true 0 0 }; s.lookup (handleOf 0 true 0 0) = some (0, .ring 0) ∧ (s.recAt 0 (.ring 0)).st = 1)
    ∧ (let s := sRecs.modDie 0 (fun d => { d with fullAt := some sRecs.cycle }); (s.die 0).fullAt = some s.cycle) := by decide

/-- Notify slot 0 of die 0 names the page of address 0x10000. -/
def sNote : State := (benchG [(1, 0x0), (2, 0x1), (3, 7)] []).modDie 0 (fun d => { d with ntf := [(0, 0x10001#64)] })
theorem test_witness_NotifyYieldExit_words :
    let h := hart sNote
    sNote.cur = some h ∧ sNote.ntfSel 0 (h.og 2) = none ∧ sNote.relReady h 5 = true
    ∧ (sNote.ntfSel 0 (h.og 1)).any (fun k => !sNote.badKey k && !sNote.ownPending [k] && sNote.acqReady 5 [k] && reached (sNote.readN k 8) (h.og 1).toNat) = true := by decide
def sYield (u : Nat) : State := { bench (fun h => { h with regs := { h.regs with g := [(1, 9)] }, yieldUntil := u }) with cycle := 20 }
/-- A gang of the least priority that runs on the core a more urgent gang needs. -/
def sWanted : State :=
  let s := s0.modGang 0 0 (fun r => { r with st := 5, desc := { r.desc with prio := 0 } })
  { s with cycle := 5 }.setGang 0 1 { st := 3, handle := 1, readyAt := 5, desc := { cmask := 1, ncores := 1, counts := [0, 0, 0, 8], prio := 6 } }
theorem test_witness_NotifyYieldExit_yields :
    (sYield 0).cur = some (hart (sYield 0)) ∧ (hart (sYield 0)).og 1 ≠ 0 ∧ (hart (sYield 0)).yieldUntil = 0
    ∧ (sYield 20).cur = some (hart (sYield 20)) ∧ (hart (sYield 20)).yieldUntil ≠ 0 ∧ (hart (sYield 20)).yieldUntil ≤ (sYield 20).cycle
    ∧ (s0.yieldWanted (hart s0) = false) ∧ sWanted.cur = some (hart sWanted) ∧ (sWanted.gang 0 0).st = 5 ∧ sWanted.yieldWanted (hart sWanted) = true
    ∧ (let s := bench (fun h => { h with pend := encode (.gexit sr) })
       s.cur = some (hart s) ∧ (hart s).pend ≠ 0 ∧ s.landed 0 0 (hart s) = true ∧ (hart s).stall29 = []) := by decide

def sSys (f : Hart → Hart) : State := bench (fun h => f { h with regs := { h.regs with g := [(1, 32), (2, 31), (3, 7), (4, 0)] } })
theorem test_witness_SystemInstructions :
    (let s := sSys (fun h => { h with handler := true })
     s.cur = some (hart s) ∧ (hart s).handler = true ∧ fldN (hart s).trap.cause 7 0 ≠ 0x29)
    ∧ (let s := sSys id
       let h := hart s
       s.cur = some h ∧ h.handler = false ∧ (s.core 0).frq = [] ∧ h.pend = 0 ∧ 32 ≤ (h.og 1).toNat ∧ (h.og 2).toNat < 32 ∧ (h.og 3).toNat < 8 ∧ (h.og 2).toNat ≠ 0 ∧ s.coreIdle (h.og 2).toNat = true
       ∧ (h.og 4).toNat = s.issue.core)
    ∧ (let s := (sSys id).modCore 0 (fun c => { c with frq := [5] })
       s.cur = some (hart s) ∧ (s.core 0).frq = 5 :: []) := by decide

/-- A doubleword in memory at 0x1000, with a2 pointing to it. -/
def sMem : State := poke (benchG [(1, 7), (5, 0x80)] [(2, 0x1000), (3, 0x1008)]) 0x1000 [0xF0, 0xFF, 0, 0, 0, 0, 0, 0x80]
def ldOk (s : State) (va n : Nat) : Bool :=
  let r := span s va n .load
  r.2.length == n && r.1.badByte r.2 == none && !r.1.readWaits lm (locKeys r.2)
theorem test_witness_ScalarLoads :
    sMem.cur = some (hart sMem) ∧ (hart sMem).ea { lm with a := 2 } = 0x1000 ∧ [1, 2, 4, 8, 16].all (ldOk sMem 0x1000) = true ∧ ldOk sMem 0x1FFF 1 = true := by decide
theorem test_witness_lands :
    sMem.lands (hart sMem) 0x1000 1 .load (span sMem 0x1000 1 .load).1 (span sMem 0x1000 1 .load).2 ∧ sMem.lands (hart sMem) 0x1000 8 .load (span sMem 0x1000 8 .load).1 (span sMem 0x1000 8 .load).2
    ∧ sMem.lands (hart sMem) 0x1000 16 .load (span sMem 0x1000 16 .load).1 (span sMem 0x1000 16 .load).2 ∧ sMem.lands (hart sMem) 0x1000 16 .store (span sMem 0x1000 16 .store).1 (span sMem 0x1000 16 .store).2
    ∧ sMem.lands (hart sMem) 0x1000 8 .atomic (span sMem 0x1000 8 .atomic).1 (span sMem 0x1000 8 .atomic).2 ∧ sMem.lands (hart sMem) 0x1000 4 .atomic (span sMem 0x1000 4 .atomic).1 (span sMem 0x1000 4 .atomic).2 :=
  ⟨⟨rfl, rfl, rfl, rfl, rfl⟩, ⟨rfl, rfl, rfl, rfl, rfl⟩, ⟨rfl, rfl, rfl, rfl, rfl⟩, ⟨rfl, rfl, rfl, rfl, rfl⟩, ⟨rfl, rfl, rfl, rfl, rfl⟩, ⟨rfl, rfl, rfl, rfl, rfl⟩⟩
theorem test_witness_ScalarStores :
    sMem.cur = some (hart sMem) ∧ ({ lm with q := 3, sc := 5 } : LM).rel = true ∧ sMem.relReady (hart sMem) 5 = true ∧ lm.rel = false ∧ (hart sMem).ea { lm with a := 2 } = 0x1000 := by decide
/-- A store of a doubleword on its way. -/
def sPend : State := sMem.putBytes (span sMem 0x1000 8 .store).2 (leBytes 8 7)
theorem test_witness_StoreIsPendingUntilHome :
    ((span sMem 0x1000 8 .store).2.all (fun o => match o.loc with | .mem _ => true | _ => false)) = true ∧ Memory.wf sPend.mem = true ∧ sPend.pw.map (·.id) = [0]
    ∧ sPend.pw.all (fun w => w.phase == 0 && w.bytes.length == 8) = true ∧ sPend.pw.any (fun v => v.phase == 0 && decide (v.id < 0)) = false := by decide
theorem test_witness_ScalarAtomics :
    sMem.cur = some (hart sMem) ∧ [(32, 8), (0, 4)].all (fun q =>
      let f : LM := { lm with t := BitVec.ofNat 8 (q.1 + 4), a := 2, x := 1 }
      let r := span sMem 0x1000 q.2 .atomic
      (hart sMem).oa f.a.toNat + f.off.signExtend 80 == 0x1000 && f.t.getLsbD 5 == (q.2 == 8) && !f.rel && r.1.badByte r.2 == none && !r.1.readWaits f (locKeys r.2) && (locKeys r.2).length == q.2) = true := by decide
/-- The write of `sPend` is on its way to a die that is fenced; one write of its granule that comes before it. -/
theorem test_witness_StoreIsPendingUntilHome_fenced :
    (let s := sPend.modHub (fun h => { h with fset := 65535 })
     s.pw.any (fun w => w.bytes.any (fun b => decide (dieOfKey b.1 < 16) && s.hub.fset.testBit (dieOfKey b.1))) = true)
    ∧ sPend.pw.all (fun w => w.after.all (fun a => sPend.visibleAt a.2 a.1) && w.bytes.all (fun b => !sPend.hub.fset.testBit (dieOfKey b.1)) && w.keep.isEmpty) = true := by decide
/-- AMOCAS finds its expected value, and does not. -/
theorem test_witness_ScalarAtomics_compare :
    let r := span sMem 0x1000 4 .atomic
    leNat (r.1.got r.2 []) % 2 ^ 32 ≠ ((hart sMem).og 4).toNat % 2 ^ 32 ∧ (let s := poke (benchG [(4, 9)] [(2, 0x1000)]) 0x1000 [9]
      leNat ((span s 0x1000 4 .atomic).1.got (span s 0x1000 4 .atomic).2 []) % 2 ^ 32 = ((hart s).og 4).toNat % 2 ^ 32) := by decide
theorem test_witness_AlignmentTraps :
    s0.cur = some (hart s0) ∧ ((hart s0).ea { lm with off := 1 }).toNat % 16 ≠ 0 ∧ ((hart s0).ea { lm with off := 15 }).toNat % 16 ≠ 0
    ∧ ((hart s0).oa 0 + ({ lm with t := 32, off := 4 } : LM).off.signExtend 80).toNat % 8 ≠ 0 ∧ ((hart s0).oa 0 + ({ lm with off := 2 } : LM).off.signExtend 80).toNat % 4 ≠ 0 := by decide

/-! Vector slots: the bench with one column group, VL 4 and a clock that has run. -/
def vecWith (g : List (Nat × Word)) (c : Ctrl → Ctrl) : State :=
  { grouped (bench (fun h => { h with regs := { g := tsetMany h.regs.g g, a := tsetMany h.regs.a [(2, 0x1000), (3, 0x2000)] }, ctrl := c { h.ctrl with vl := 4, mvl := 4 } })) with cycle := 5 }
def sVec : State := vecWith [(1, 8)] id
/-- A visible queue entry of `n` elements, one to a cell. -/
def entry (fmt : Fmt) (n : Nat) (l : List Cell) : Entry := { st := .visible, fmt := fmt, cnt := n, cells := (l.zipIdx.map (fun q => (q.2, q.1))) }
def withQ (s : State) (q : Nat) (l : List Entry) : State := s.setQueue 0 q { ents := l }
def planOf (s : State) (acc : Acc) (ord : Bool) (align : Nat) (l : List El) : State × List Item := State.plan (s.who s.issue.core (hart s)) acc ord align l s 0
def job (s : State) (f : LM) (load : Bool) (fmt : Fmt) (ne fN : Nat) : VJob := { fmt := fmt, ne := ne, fN := fN, mask := s.vmask (hart s) f load }
def loadsIn (s : State) (f : LM) (form : VForm) (fN : Nat) : Bool :=
  let h := hart s
  let j := job s f true .fp32 4 fN
  let r := planOf s .load f.ord 1 (j.els h form f 32 [] none)
  fmtAt (mfcLreg h.octrl.mfc) == some .fp32 && !ldRefused h.octrl.mfc form (form == .unit) f.a.toNat && (s.queue 0 (f.t.toNat % 8)).openAt == none
    && !r.1.vWaits f r.2 && (r.1.farAsk h (itemOks r.2)).isNone && j.left r.2 == [] && (r.1.queue 0 (f.t.toNat % 8)).openAt == none && r.1.issue.core == s.issue.core && mfcLsc h.octrl.mfc == 0 && segF form f == fN && r.2.length == 4 * fN
theorem test_witness_VectorLoads :
    sVec.cur = some (hart sVec) ∧ (hart sVec).octrl.vl = 4 ∧ loadsIn sVec { lm with t := 3, a := 2 } .unit 1 = true ∧ loadsIn sVec { lm with t := 3, a := 2, x := 1 } .stride 1 = true
    ∧ loadsIn sVec { lm with t := 0x73, a := 2, x := 1 } .seg 8 = true := by decide
theorem test_witness_VectorLoads_empty : s0.cur = some (hart s0) ∧ (hart s0).octrl.vl = 0 ∧ (job sVec lm true .fp32 4 1).left [] ≠ [] := by decide
theorem test_witness_destCheck :
    sVec.destCheck (hart sVec) 3 4 4 (0x10 + 256) 1 = .ok false ∧ sVec.destCheck (hart sVec) 3 4 4 (0x12 + 256 * 8) 8 = .ok false ∧ sVec.destCheck (hart sVec) 3 4 4 (0x13 + 256) 1 = .ok false
    ∧ sVec.destCheck (hart sVec) 3 4 4 (0x2C + 256) 1 = .ok false ∧ sVec.destCheck (hart sVec) 3 4 4 0x114 1 = .ok false := ⟨rfl, rfl, rfl, rfl, rfl⟩
def sIdx : State := withQ sVec 1 [entry .i32 4 [12, 0, 8, 4]]
def idxIn (gll : Bool) : Bool :=
  let f : LM := { lm with t := 3, a := 2, x := 1 }
  let h := hart sIdx
  let j := job sIdx f true .fp32 4 1
  let idx := (indexOf (entry .i32 4 [12, 0, 8, 4]) 4).getD []
  let r := planOf sIdx (if gll then .atomic else .load) f.ord 1 (j.els h .index f 32 idx none)
  (sIdx.queue 0 1).heads sIdx.cycle 1 == some [entry .i32 4 [12, 0, 8, 4]] && idx == [12, 0, 8, 4] && !ldRefused h.octrl.mfc .index gll 2 && ((fmtAt (mfcLmem h.octrl.mfc)).getD .fp32).width == 32
    && !r.1.vWaits f r.2 && (r.1.farAsk h (itemOks r.2)).isNone && j.left r.2 == [] && r.2.length == 4
theorem test_witness_IndexedLoads : sIdx.cur = some (hart sIdx) ∧ idxIn false = true ∧ idxIn true = true := by decide
theorem test_witness_IndexedLoads_room : sIdx.destCheck (hart sIdx) 3 4 4 (0x13 + 256) 1 = .ok false ∧ sIdx.destCheck (hart sIdx) 3 4 4 (0x2C + 256) 1 = .ok false := ⟨rfl, rfl⟩

def data4 : Entry := entry .fp32 4 [10, 20, 30, 40]
def sSt : State := withQ (withQ sVec 8 (List.replicate 8 data4)) 1 [entry .i32 4 [12, 0, 8, 4]]
def storesIn (f : LM) (form : VForm) (fN : Nat) : Bool :=
  let h := hart sSt
  let j := job sSt f false .fp32 4 fN
  let r := planOf sSt .store false 1 (j.els h form f 32 [] none)
  fmtAt (mfcSmem h.octrl.mfc) == some .fp32 && !stRefused h.octrl.mfc form (form == .unit) f.a.toNat && mfcSsc h.octrl.mfc == 0 && (sSt.queue 0 8).heads sSt.cycle fN == some (List.replicate fN data4)
    && !f.rel && !f.ord && r.2.all (fun x => x.ok.isSome && x.el.fl != 255) && (r.1.farAsk h (itemOks r.2)).isNone && (failures r.2).isEmpty && r.2.length == 4 * fN
theorem test_witness_VectorStores :
    sSt.cur = some (hart sSt) ∧ data4.fmt ≠ .bx ∧ storesIn { lm with t := 8, a := 2 } .unit 1 = true ∧ storesIn { lm with t := 8, a := 2, x := 1 } .stride 1 = true
    ∧ storesIn { lm with t := 0x78, a := 2, x := 1 } .seg 8 = true := by decide
/-- A microscaled unit-stride store of E4M3, with its scale bytes at a3. -/
def sMx : State := withQ (vecWith [] (fun c => { c with mfc := 0x0000030002030000#64 })) 8 [data4]
theorem test_witness_VectorStores_scaled :
    (let h := hart sMx
     let f : LM := { lm with t := 8, a := 2, pi := 1 }
     let j := job sMx f false .fp32 4 1
     let r := planOf sMx .store false 1 (j.els h .unit f 8 [] (some (h.oa 3)))
     sMx.cur == some h && mfcSsc h.octrl.mfc == 1 && mfcSsa h.octrl.mfc == 3 && fmtAt (mfcSmem h.octrl.mfc) == some .e4m3 && !stRefused h.octrl.mfc .unit true 2 && (sMx.queue 0 8).heads sMx.cycle 1 == some [data4]
       && r.2.all (fun x => x.ok.isSome) && (r.1.farAsk h (itemOks r.2)).isNone && (failures r.2).isEmpty && r.2.length == 5 && (r.2.filter (fun x => x.el.fl == 255)).length == 1) = true := by decide
/-- An SCC: its lower two elements hold links to the granules they write, the higher two do not. -/
def sScc : State :=
  let s := (withQ (withQ (vecWith [] (fun c => { c with mfc := 0x0000000700000000#64 })) 8 [data4]) 1 [entry .i32 4 [0, 64, 128, 192]])
  s.modHart 0 0 (fun h => { h with links := ((span s 0x1000 64 .load).2.take 1 ++ (span s 0x1040 64 .load).2.take 1).zipIdx.filterMap (fun q => match q.1.loc with | .mem k => some (q.2, k / 64) | _ => none) })
def sccIn : Bool :=
  let f : LM := { lm with t := 8, a := 2, x := 1 }
  let h := hart sScc
  let j := job sScc f false .fp32 4 1
  let idx := (indexOf (entry .i32 4 [0, 64, 128, 192]) 4).getD []
  let r := planOf sScc .atomic false 1 (j.els h .index f 32 idx none)
  let wins := sccWins r.1 h r.2
  let doing := r.2.filter (fun x => wins.contains x.el.e)
  mfcPck h.octrl.mfc == 7 && mfcSrm h.octrl.mfc < 6 && mfcSsc h.octrl.mfc == 0 && fmtAt (mfcSmem h.octrl.mfc) == some .fp32 && r.2.all (fun x => x.ok.isSome && x.el.fl != 255) && (failures r.2).isEmpty && wins == [0, 1]
    && !r.1.ownPending (itemKeys doing) && (r.1.farAsk h (itemOks doing)).isNone && !stepwise f && !sScc.issue.vec && !anyAway r.2
def stxIn : Bool :=
  let f : LM := { lm with t := 8, a := 2, x := 1 }
  let j := job sSt f false .fp32 4 1
  let r := planOf sSt .store false 1 (j.els (hart sSt) .index f 32 [12, 0, 8, 4] none)
  (sSt.queue 0 8).heads sSt.cycle 1 == some [data4] && (sSt.queue 0 1).heads sSt.cycle 1 == some [entry .i32 4 [12, 0, 8, 4]] && indexOf (entry .i32 4 [12, 0, 8, 4]) 4 == some [12, 0, 8, 4] && r.2.all (fun x => x.ok.isSome && x.el.fl != 255)
    && (failures r.2).isEmpty && (r.1.farAsk (hart sSt) (itemOks r.2)).isNone
theorem test_witness_IndexedStores : sScc.cur = some (hart sScc) ∧ sccIn = true ∧ stxIn = true := by decide
def vamoIn : Bool :=
  let f : LM := { lm with a := 2, x := 1 }
  let j := job sSt f false .fp32 4 1
  let r := planOf sSt .atomic f.ord 4 (j.els (hart sSt) .index f 32 [12, 0, 8, 4] none)
  let t := r.1.readDone r.2
  !f.vret && !f.rel && !stepwise f && !sSt.issue.vec && (r.1.farAsk (hart sSt) (itemOks r.2)).isNone && (failures r.2).isEmpty && r.2.all (·.ok.isSome) && j.left r.2 == [] && !r.1.vWaits f r.2 && ((vamoOrder f.ord t r.2).1.draw == t.draw) && r.2.length == 4
    && (((r.2.filter (fun i => !(i.el.va.toNat / 2 ^ 72 == 0xFF))).map (fun i => (locKeys (i.ok.getD [])).headD 0)).eraseDups.length == 4)
/-- The first elements of an SCC and of a vector atomic under .ord.rel.pkg's wider scopes: both take their turn, and others are to come. -/
def stepF : LM := { lm with t := 8, a := 2, x := 1, q := 5, sc := 4 }
theorem test_witness_IndexedStores_step :
    stepwise stepF = true ∧ stepF.vret = false ∧ sScc.issue.vec = false
    ∧ (let j : VJob := { fmt := .fp32, ne := 4, mask := sScc.vmask (hart sScc) stepF false }
       let v := sScc.vpendNow data4 [0, 64, 128, 192]
       match sScc.vecNext stepF (hart sScc) false 1 j v with
       | .next _ i => i.ok.isSome && i.away.isEmpty && j.more { v with done := [{ e := i.el.e }] }
       | _ => false) = true := by decide
theorem test_witness_VectorAtomics_step :
    (let j : VJob := { fmt := .fp32, ne := 4, mask := sSt.vmask (hart sSt) stepF false }
     let v := sSt.vpendNow data4 [12, 0, 8, 4]
     match sSt.vecNext stepF (hart sSt) true 4 j v with
     | .next _ i => i.ok.isSome && j.more { v with done := [{ e := i.el.e }] }
     | _ => false) = true := by decide
theorem test_witness_VectorAtomics : vamoIn = true ∧ data4.cnt = 4 ∧ data4.fmt.width = 32 ∧ (hart sSt).octrl.vl = 4 ∧ (sSt.queue 0 8).heads 5 1 = some [data4] := by decide
theorem test_witness_DrainAndPrefetch :
    let h := hart sVec
    let x := sVec.vctx h 4
    let f : LM := { lm with t := 5, x := 1 }
    let v := drvView f
    sVec.cur = some h ∧ x.len ≠ 0 ∧ x.wide v = false ∧ x.tags v 1 = [.f32] ∧ x.len ≤ sVec.queueCells h 9 ∧ (sVec.queue 0 9).room 5 ≠ 0 ∧ sVec.rowsLate 0 0 h Flight.writes (vRows v x.len 1) (x.groupsAt (vCols v x.len)) = false
    ∧ sVec.rowsBusy 0 0 (vRows v x.len 1) (x.groupsAt (vCols v x.len)) = false := by decide
/-- A compressed stream of one literal block. -/
def sComp : State := poke (vecWith [(1, 64)] id) 0x1000 ([3, 0, 0, 0] ++ List.replicate 60 1)
theorem test_witness_CompressedLoad :
    let h := hart sComp
    let f : LM := { lm with t := 3, a := 2, x := 1 }
    let c := scan (sComp.who 0 h) f 4 4 (h.og 1).toNat (h.vbase f) 5 { s := sComp }
    sComp.cur = some h ∧ h.octrl.vl ≠ 0 ∧ fmtAt (mfcLreg h.octrl.mfc) = some .fp32 ∧ ldRefused h.octrl.mfc .stride false 2 = false ∧ c.wait = false ∧ c.fault = none ∧ c.s.cur.isSome = true ∧ f.x.toNat ≠ 0 ∧ c.s.farAsk h c.oks.flatten = none
    ∧ (match sComp.destCheck h 3 4 4 0x114 1 with | .ok b => b | .error _ => true) = false := by decide

/-! Grid slots: VL 16 in one column group; bands 0 to 5 hold F32, I32, BX, BF16x2, E4x4 and F4x8. -/
def sGrid : State :=
  (vecWith [(1, 3)] (fun c => { c with vl := 16, mvl := 16 })).modCore 0 (fun c =>
    { c with tags := [(16, .i32), (32, .bx), (48, .bf16x2), (64, .e4x4), (80, .f4x8)] })
def sQ : State := withQ sGrid 2 [entry .fp32 16 [1, 2, 3]]
/-- The decidable part of a slot having nothing to wait for. -/
def freeB (s : State) (srcs : List View) (reads writes groups : List Nat) : Bool :=
  let x := s.vIn (hart s) srcs
  decide (x.c.vUntil ≤ s.cycle) && decide (x.len ≠ 0) && (queuesOf srcs).all (fun q => ((s.queue 0 q).heads s.cycle 1).isSome) && !s.rowsLate 0 0 (hart s) Flight.writes reads groups
    && !s.rowsBusy 0 0 (reads ++ writes) groups && s.issue.core == 0 && s.issue.slot == 0
theorem vFree_of {s : State} {srcs : List View} {dst : Option View} {reads writes groups : List Nat} (h : freeB s srcs reads writes groups = true) (hd : (match dst with | some (.dq _) => false | _ => true) = true) :
    s.vFree (hart s) srcs dst reads writes groups := by
  simp only [freeB, Bool.and_eq_true, decide_eq_true_eq, List.all_eq_true, beq_iff_eq, Bool.not_eq_true'] at h
  obtain ⟨⟨⟨⟨⟨⟨h1, h0⟩, h2⟩, h3⟩, h4⟩, h5⟩, h6⟩ := h
  have hw : rowsOf dst (s.vIn (hart s) srcs).len writes = writes := by
    unfold rowsOf
    split
    · cases hd
    · rw [if_neg h0]
  refine ⟨h1, ?_, ?_, ?_, fun n e => by subst e; cases hd⟩
  · rw [h5]; exact h2
  · rw [h5, h6]; exact h3
  · rw [h5, h6, hw]; exact h4
/-- The hypotheses of a slot that reads `srcs` and writes `dst`, nowait apart: no fault of R213, and the tag `t`. -/
def tagsB (s : State) (acc : Tag → Bool) (srcs : List View) (dst : View) (blk : Nat) (t : Tag) : Bool :=
  let x := s.vIn (hart s) srcs
  x.probe (srcs ++ [dst]) blk == none && (match tagEq acc (srcs.map (fun v => x.srcTag v blk)) (x.dstTag dst blk) with | .ok u => u == t | _ => false) && blkOk blk (dst :: srcs) && x.mir == 0 && x.len == 16
theorem test_witness_grid : sGrid.cur = some (hart sGrid) ∧ sGrid.groupsOf 0 (hart sGrid) = [0] ∧ (hart sGrid).octrl.vl = 16 := by decide
theorem test_witness_VectorArithmetic :
    sGrid.vFree (hart sGrid) [.row 0, .row 1] (some (.row 2)) [0, 1, 2] [2] [0] ∧ tagsB sGrid tagA [.row 0, .row 1] (.row 2) 1 .f32 = true ∧ tagsB sGrid tagA [.col 15, .g 1] (.col 0) 1 .f32 = true
    ∧ tagsB sGrid tagA [.row 16, .g 1] (.row 31) 1 .i32 = true ∧ tagsB sGrid tagA [.row 3] (.row 0) 13 .f32 = true := ⟨vFree_of (by decide) (by decide), by decide⟩
/-- A source queue and a drain queue. -/
theorem test_witness_elementwise_queues :
    sQ.vFree (hart sQ) [.q 2, .row 1] (some (.dq 1)) [1] [] [0] ∧ tagsB sQ tagA [.q 2, .row 1] (.dq 1) 1 .f32 = true := by
  refine ⟨⟨by decide, by decide, by decide, by decide, fun n e _ => ?_⟩, by decide⟩
  obtain rfl : n = 1 := by cases e; rfl
  decide
theorem test_witness_VectorBitsAndFloats :
    tagsB sGrid tagC [.row 48, .row 49] (.row 50) 1 .bf16x2 = true ∧ tagsB sGrid tagI [.row 16, .row 17] (.row 18) 1 .i32 = true ∧ tagsB sGrid tagF [.row 0] (.row 1) 1 .f32 = true
    ∧ sGrid.vFree (hart sGrid) [.row 16, .row 17] (some (.row 18)) [16, 17] [18] [0] := by refine ⟨by decide, by decide, by decide, vFree_of (by decide) (by decide)⟩
theorem test_witness_VectorMoves :
    tagsB sGrid tagAny [.row 32, .row 33] (.row 34) 1 .bx = true ∧ tagsB sGrid tagAny [] (.row 0) 1 .f32 = true
    ∧ (sGrid.vIn (hart sGrid) [.row 0, .row 16]).probe [.row 0, .row 16, .row 1] 1 = none ∧ (sGrid.vIn (hart sGrid) [.row 0, .row 16]).srcTag (.row 16) 1 = some (some .i32)
    ∧ sGrid.vFree (hart sGrid) [.row 0, .row 16] (some (.row 1)) [0, 16] [1] [0] ∧ (15 : Nat) < (Tag.f32).n * 16 := by
  refine ⟨by decide, by decide, by decide, by decide, vFree_of (by decide) (by decide), by decide⟩
theorem test_witness_MasksTagsAndTranspose :
    sGrid.vFree (hart sGrid) [.row 0, .row 1] none [0, 1] [] [0] ∧ (sGrid.vIn (hart sGrid) [.row 0, .row 1]).probe [.row 0, .row 1] 1 = none ∧ sGrid.vFree (hart sGrid) [] none [] [] []
    ∧ sGrid.vFree (hart sGrid) [] (some (.row 0)) [] [0] [0] ∧ (sGrid.vIn (hart sGrid) []).probe [.row 0] 1 = none ∧ (sGrid.vIn (hart sGrid) []).dstTag (.row 0) 1 = some .f32
    ∧ sGrid.vFree (hart sGrid) [] none [] (bandRows 255) [0] ∧ sGrid.vFree (hart sGrid) [] none ((List.range 16).map (· + 240)) ((List.range 16).map (· + 240)) [0]
    ∧ (sGrid.vIn (hart sGrid) []).width = 16 ∧ ((List.range 16).all (fun a => (sGrid.vIn (hart sGrid) []).c.tag [0] (240 + a) == .f32) = true) := by
  refine ⟨vFree_of (by decide) (by decide), by decide, vFree_of (by decide) (by decide), vFree_of (by decide) (by decide), by decide, by decide, vFree_of (by decide) (by decide),
    vFree_of (by decide) (by decide), by decide, by decide⟩
theorem test_witness_MasksTags_compare : tagEq tagA [some (some .f32), some (some .f32)] none = .ok .f32 ∧ tagEq tagAny [some (some .bx)] none = .ok .bx ∧ tagEq tagI [none, some (some .i32)] none = .ok .i32 := ⟨rfl, rfl, rfl⟩
theorem test_witness_VectorReductions :
    sGrid.vFree (hart sGrid) [.row 0] (some (.row 1)) [0, 1] [1] [0] ∧ tagsB sGrid tagA [.row 0] (.row 1) 1 .f32 = true ∧ tagsB sGrid tagF [.row 48] (.row 49) 1 .bf16x2 = true ∧ (31 : Nat) < (Tag.bf16x2).n * 16 := by
  refine ⟨vFree_of (by decide) (by decide), by decide⟩
def convB (srcs rows : List View) (blk : Nat) (ok : Tag → Bool) (t : Tag) : Bool :=
  let x := sGrid.vIn (hart sGrid) (srcs ++ rows)
  x.probe (srcs ++ rows) 1 == none && (match tagEq ok (srcs.map (fun v => x.srcTag v blk)) none with | .ok u => u == t | _ => false) && freeB sGrid (srcs ++ rows) (srcs.flatMap (fun v => vRows v x.len blk)) [] x.gs
theorem test_witness_VectorConversions :
    convB [.row 0, .row 1] [.row 48] 1 (narrowPair .bf16) .f32 = true ∧ convB [.row 48, .row 49] [.row 64] 1 (narrowPair .e4m3) .bf16x2 = true ∧ convB [.row 64, .row 65] [.row 80] 1 (narrowPair .e2m1) .e4x4 = true
    ∧ convB [.row 48] [.row 0, .row 1] 1 (widenPair .fp32) .bf16x2 = true ∧ convB [.row 0] [.row 80] 8 (· == .f32) .f32 = true ∧ convB [.row 0] [.row 16] 1 (· == .f32) .f32 = true ∧ convB [.row 16] [.row 0] 1 (· == .i32) .i32 = true := by decide
theorem test_witness_VectorConversions_free : sGrid.vFree (hart sGrid) [.row 0, .row 1, .row 48] none [0, 1] (bandRows 48).eraseDups [0] := vFree_of (by decide) (by decide)
theorem test_witness_QuantiseAndScales :
    convB [.row 16] [] 1 tagI .i32 = true ∧ convB [.row 0] [.row 64] 1 (· == .f32) .f32 = true ∧ sGrid.vFree (hart sGrid) [.row 16] none [16] [] [0] ∧ sGrid.vFree (hart sGrid) [.row 0] (some (.row 64)) [0] (bandRows 64) [0]
    ∧ (240 : Nat) + (Tag.i32).n * 16 ≤ 256 ∧ 255 + (16 + 31) / 32 ≤ 256 := by refine ⟨by decide, by decide, vFree_of (by decide) (by decide), vFree_of (by decide) (by decide), by decide⟩
theorem test_witness_BxInstructions :
    convB [.row 32, .row 33] [.row 34] 1 (· == .bx) .bx = true ∧ convB [.row 32] [.row 0] 1 (· == .bx) .bx = true ∧ convB [.row 0] [] 1 (fun t => tagF t || t == .i32) .f32 = true ∧ convB [.row 16] [] 1 (fun t => t == .f32 || t == .i32) .i32 = true
    ∧ (let x := sGrid.vIn (hart sGrid) [.row 32, .row 33, .row 34]
       x.len % 8 = 0 ∧ x.dstTag (.row 34) 1 = some .bx ∧ (List.range 2).all (fun m => (Bx.ofBits (x.bx 32 0 m).1).a == (Bx.ofBits (x.bx 33 0 m).1).a && decide ((Bx.ofBits (x.bx 32 0 m).1).a ≤ 3)) = true ∧ 8 * 1 + 7 < x.width)
    ∧ sGrid.vFree (hart sGrid) [.row 32, .row 33, .row 34] none [32, 33] [34] [0] ∧ sGrid.vFree (hart sGrid) [.row 0] none (0 :: [40]) [40] [0] ∧ sGrid.vFree (hart sGrid) [.row 0] none (0 :: (List.range 8).map (· + 40)) ((List.range 8).map (· + 40)) [0] := by
  refine ⟨by decide, by decide, by decide, by decide, by decide, vFree_of (by decide) (by decide), vFree_of (by decide) (by decide), vFree_of (by decide) (by decide)⟩
/-- In protected mode a gang of two groups holds each primary column again in the other half. -/
def sProt : State :=
  let s := (sGrid.modGang 0 0 (fun r => { r with g := 2 })).modCore 0 (fun c => { c with lat := 0x0000FFFFFFFFFFC0#64, tags := [] })
  s.modHart 0 0 (fun h => { h with ctrl := { h.ctrl with prot := true }, octrl := { h.octrl with prot := true } })
theorem test_witness_protected :
    let x := sProt.vIn (hart sProt) [.row 0, .row 1]
    sProt.cur = some (hart sProt) ∧ x.mir = 16 ∧ x.len = 16 ∧ x.probe [.row 0, .row 1, .row 2] 1 = none ∧ (List.range 16).all (fun j => x.src (.row 0) .f32 0 x.mir j == x.src (.row 0) .f32 0 0 j) = true := by decide

/-! Matrix, Colophon and Carrel slots. -/
def sMat : State := withQ (withQ sGrid 0 [entry .fp32 16 [1, 2]]) 1 [entry .fp32 16 [3, 4]]
theorem test_witness_MatrixUpdates :
    let h := hart sMat
    let x := sMat.vctx h h.mLen
    sMat.cur = some h ∧ (sMat.queue 0 0).heads 5 1 = some [entry .fp32 16 [1, 2]] ∧ (sMat.queue 0 1).heads 5 1 = some [entry .fp32 16 [3, 4]] ∧ x.c.mUntil ≤ 5 ∧ x.len = 16 ∧ x.len ≤ x.width
    ∧ sMat.rowsLate 0 0 h (fun g => g.writes && !g.isUpdate) (List.range 16) [0] = false ∧ sMat.rowsBusy 0 0 (List.range 16) [0] = false ∧ mTag mu = .f32 ∧ mFmtA mu = .fp32 ∧ mFmtB mu = .fp32
    ∧ (mRows 0 x.len).all (fun q => x.c.tag x.gs q.1 == .f32) = true ∧ mTag { mu with fa := 11, fb := 12 } = .i32 := by decide
/-- The updates of an FP32 pair, in and out of protected mode. -/
theorem test_witness_MatrixUpdates_cell :
    (let e : MEff := { f := mu, zero := false, scaled := false, len := 16, ea := {}, eb := {}, vsc := [], gs := [0], mir := 0 }
     mTag e.f = .f32 ∧ e.mir = 0 ∧ ({ e with mir := 16 } : MEff).mir ≠ 0)
    ∧ mTag { mu with fa := 11, fb := 12 } = .i32 ∧ (mFmtA { mu with fa := 11, fb := 12 }).isInt = true ∧ (mFmtB { mu with fa := 11, fb := 12 }).isInt = true := by decide
theorem test_witness_Colophon :
    let h := hart sGrid
    let x := sGrid.vctx h h.mLen
    let k := sGrid.colo 0 h
    sGrid.cur = some h ∧ x.c.mUntil ≤ 5 ∧ (15 : Nat) < x.width ∧ sGrid.rowsLate 0 0 h Flight.writes [255] [0] = false ∧ sGrid.rowsBusy 0 0 [255] [0] = false ∧ sGrid.rowsBusy 0 0 (List.range 256) x.gs = false
    ∧ (match ckFix h x k (0x10000 : Word) with | .error n => n == 1 | .ok _ => false) = true ∧ (match ckFix h x k (16 * 256 : Word) with | .error n => n == 1 | .ok _ => false) = true := by decide
/-- A single cell of the grid is wrong by 8: CKCHK has located its row and its column, and CKFIX can give back what it was. -/
def sFix : State :=
  let s := (vecWith [] (fun c => { c with vl := 16, mvl := 16 })).modCore 0 (fun c => c.putCell [0] 2 3 0x41000000#32 false)
  s.setColo 0 (hart s) { locR := 4, locC := 8 }
theorem test_witness_Colophon_fix :
    (match ckFix (hart sFix) (sFix.vctx (hart sFix) 16) (sFix.colo 0 (hart sFix)) (2 + 3 * 256 : Word) with | .ok v => v == 0 | .error _ => false) = true := by decide
def sCar (c : Carrel) : State := bench (fun h => { h with regs := { h.regs with g := [(1, 0xFFFFFFFF), (2, 0x100000000)] }, carrel := c })
theorem test_witness_CarrelInstructions :
    [CarState.idle, .loaded, .recording, .replaying].all (fun st => decide ((sCar { st := st }).cur = some (hart (sCar { st := st }))) && (hart (sCar { st := st })).carrel.st == st && decide (((sCar { st := st }).core 0).mUntil ≤ 0)) = true
    ∧ ((hart (sCar {})).og 1).toNat < 2 ^ 32 ∧ 2 ^ 32 ≤ ((hart (sCar {})).og 2).toNat ∧ (hart (sCar { trip := 2 ^ 32 })).carrel.trip = 2 ^ 32 ∧ (hart (sCar { first := 2 ^ 32 })).carrel.first = 2 ^ 32 := by decide

/-! Commands: a copy of 64 bytes, of one element, to a scratchpad, and an accumulation of one element; a lookup of one query and an update of one row. -/
def num (n x : Nat) : List Byte := leBytes n x
def copyDesc (kind : Nat) : List Byte :=
  blank 16 ++ num 16 0x2000 ++ num 16 (if kind = 2 then 0 else 0x3000) ++ blank 16 ++ blank 8 ++ (if kind = 1 then num 4 1 ++ num 4 1 ++ num 4 1 ++ blank 44 else blank 56)
def sCopy (kind : Nat) : State :=
  poke ((benchG [(1, if kind = 3 then 1 else 64), (2, 1)] [(2, 0x1000), (3, 0x1001)]).modGang 0 0 (fun r => { r with desc := { r.desc with spres := 1 } })) 0x1000 (copyDesc kind)
def copyIn (kind : Nat) (f : LC) : Bool :=
  let s := sCopy kind
  let h := hart s
  let va := h.oa f.a.toNat
  let w : Who := { s.who 0 h with spsize := 0 }
  let c0 := copyOf kind f s h
  let base (p : Nat) : Nat := (((s.gang h.die h.idx).place? p).getD {}).spbase
  match s.copyRuns w .load 3 va 0 128 with
  | (s1, .ok l) => match s1.copyXlate w va .store with
    | (s2, .ok cw) =>
      let c1 : CopyCmd := { c0 with desc := (List.range 128).map (fun i => s2.byte (runAt l i)), cw := (List.range 8).map (cw + ·) }
      let c2 : CopyCmd := { c1 with bad := if c1.descOk && s2.coresOk h c1 then none else some 2 }
      match c2.settleBlocks s2 w base with
      | (s3, .ok c) => decide ((s.engQ 0 0).cmds.length < 32) && decide (va.toNat % 64 = 0) && c0.operandsOk && s.relReady h c0.scope && l.all (fun r => decide (r.2.1 < remotePlace) && !s2.placeCut 0 r.2.1)
          && (List.range 128).all (fun i => decide (runAt l i < remotePlace) && !s2.badKey (runAt l i)) && c2.bad == none && (c.places ++ c.flag.take 1).all (fun p => !s3.unrouted p) && !c.away && decide (c2.fb + c2.chunks ≤ 256)
      | _ => false
    | _ => false
  | _ => false
theorem test_witness_CopyInstructions :
    [0, 1, 2, 3].all (fun k => copyIn k { lc with a := 2, s1 := 1, s2 := 2, k := 1, sc := 3 } && decide ((sCopy k).cur = some (hart (sCopy k)))) = true
    ∧ ((hart (sCopy 0)).oa 3).toNat % 64 ≠ 0 ∧ (copyOf 3 { lc with s1 := 0 } (sCopy 0) (hart (sCopy 0))).operandsOk = false ∧ ((sCopy 0).engQ 0 31).cmds = []
    ∧ 32 ≤ (((sCopy 0).setEngQ 0 5 { cmds := List.replicate 32 {} }).engQ 0 5).cmds.length := by decide
/-- The request blocks of a CATQ and a CATU, at 0x1000. -/
def sCat (upd : Bool) (room : Nat) : State :=
  (poke (benchG [(1, 1), (2, 0)] [(2, 0x1000), (3, 0x1001)]) 0x1000
    (blank 16 ++ num 16 0x2000 ++ num 16 0x3000 ++ (if upd then num 4 256 ++ num 4 256 ++ blank 72 else blank 16 ++ num 4 256 ++ num 4 256 ++ num 4 256 ++ num 4 256 ++ blank 48))).modDie 0 (fun d => { d with cat := List.replicate room {} })
def catIn (upd : Bool) (room : Nat) : Bool :=
  let s := sCat upd room
  let h := hart s
  let va := h.oa 2
  let w := s.who 0 h
  match s.catRows w .load va [(0, 128)] with
  | (s1, .ok l) => match s1.catRows w .store va [(0, 8)] with
    | (s2, .ok cw) =>
      match ({ upd := upd, die := 0, ctx := h.ctx, slotNo := 0, count := 1, imm := 0, block := (List.range 128).map (fun i => s2.byte (runAt l i)), cw := (List.range 8).map (runAt cw ·) } : CatCmd).settleBlocks s2 w with
      | (s3, .ok c) => decide (va.toNat % 64 = 0) && s.relReady h 3 && (List.range 128).all (fun i => !s2.placeCut 0 (runAt l i) && decide (runAt l i < remotePlace) && !s2.badKey (runAt l i)) && l.all (fun r => decide (r.2.1 < remotePlace))
          && s3.hub.pkgid == s.hub.pkgid && s3.reach c.die (unitDie 0) && (s3.die 0).cat.length == room && tgtPkg (h.og 2) == s.hub.pkgid.toNat
      | _ => false
    | _ => false
  | _ => false
theorem test_witness_CatalogueInstructions :
    (sCat true 0).cur = some (hart (sCat true 0)) ∧ (sCat false 0).cur = some (hart (sCat false 0)) ∧ catIn true 0 = true ∧ catIn false 63 = true ∧ catIn false 64 = true ∧ ((hart (sCat true 0)).oa 3).toNat % 64 ≠ 0 := by decide
/-- A context with a Folio: page tables at 0x20000, the header at 0x40000 with two pool blocks, map words at 0x48000, and a free stack that holds block 1. -/
def sFol : State :=
  let s := benchG [(1, 0), (2, 0x8000000000000000)] [(2, 0x50000)]
  let s1 := [(0x10000, num 8 0x20001 ++ num 8 0x40001), (0x20000, num 8 0x20001), (0x20000 + 40, num 8 (2 ^ 56 + 13 + 2)), (0x40000, num 8 0x48000 ++ num 4 1 ++ num 4 2 ++ num 8 0x49000 ++ num 4 1),
    (0x40040, num 8 (2 ^ 48 + 0x60000 / 4096 * 16)), (0x40048, num 8 (0x70000 / 4096 * 16)), (0x48000, num 4 (2 ^ 31)), (0x49000, num 4 1)].foldl (fun s q => poke s q.1 q.2) s
  s1.modDie 0 (fun d => { d with ctxbase := 0x10001 })
def folIn : Bool :=
  let h := hart sFol
  match sFol.folioLeaf (sFol.who 0 h) (h.oa 2) with
  | (s1, .ok (some (c1, seg))) =>
    let sf := s1.seeFolio c1
    match sf.folio c1 with
    | .ok fo => match sf.mapKey fo seg 0 with
      | some mw =>
        let sv := sf.verify [mw / 64]
        eBit c1 0 && decide (seg < fo.nseg) && !sf.mapBusy fo mw && !sf.mapOut fo mw && (match sv.poolCheck fo 0 true with | .ok k => !sv.entryBusy (sv.readN k 8) | _ => false)
          && (match sv.popFree fo with | some (n, s2) => n == 1 && (s2.poolKey fo n).isSome | none => false) && !sv.popOut fo
      | none => false
    | _ => false
  | _ => false
def folOwn : Bool :=
  let so := sFol.seeOwnFolio (sFol.who 0 (hart sFol))
  match so.ownFolio (so.who 0 (hart sFol)) with
  | .ok (some fo) => (match so.poolCheck fo 0 true with | .ok _ => true | _ => false) && (match so.poolCheck fo 0 false with | .ok _ => true | _ => false) && !so.poolBusy fo 0 && !so.dropOut fo 0
  | _ => false
theorem test_witness_FolioInstructions :
    sFol.cur = some (hart sFol) ∧ sFol.fenceReady (hart sFol) 3 = true ∧ ((hart sFol).og 1).getLsbD 63 = false ∧ ((hart sFol).og 2).getLsbD 63 = true ∧ folIn = true ∧ folOwn = true ∧ (match (s0.seeOwnFolio (s0.who 0 (hart s0))).ownFolio (s0.who 0 (hart s0)) with | .ok none => true | _ => false) = true := by decide

/-! Events. -/
def sFetch : State := State.reset.withFetchWord 96 (1 + (0x01#8 ++ 3#5 ++ 4#5 ++ 5#5 ++ 0#3 ++ 0#38 : Word).toNat * 2 ^ 32)
def hFetch : Hart := (sFetch.hart? 0 0).getD {}
theorem test_witness_PacketIssueAndRetire :
    sFetch.hart? 0 0 = some hFetch ∧ hFetch.exited = false ∧ sFetch.overdue 0 = false ∧ hFetch.pend = 0 ∧ hFetch.stopped = false ∧ hFetch.owed = [] ∧ hFetch.stall29 = [] ∧ hFetch.reNow = 0 ∧ hFetch.tileNow = none
    ∧ hFetch.vpend = none ∧ sFetch.arg.ok = false ∧ hFetch.carrel.st ≠ .replaying
    ∧ (match sFetch.fetch 0 0 hFetch with | (s1, .ok k) => (s1.checkPacket 0 0 hFetch k).isNone && s1.mayIssue 0 0 hFetch k.hdr false (k.all hFetch.held) | _ => false) = true
    ∧ (let s := sFetch.setHart 0 0 { hFetch with tokens := [{ fifo := 2, lo := 4, hi := 7, due := 9 }, { fifo := 3, lo := 0, hi := 4 }] }
       (s.hart? 0 0).any (fun h => h.tokens == [{ fifo := 2, lo := 4, hi := 7, due := 9 }] ++ [{ fifo := 3, lo := 0, hi := 4 }] && !s.drainedOf 0 0 h { fifo := 2, lo := 4, hi := 7, due := 9 }
         && s.drainedOf 0 0 h { fifo := 3, lo := 0, hi := 4 } && !s.slotWaits 0 0 h { fifo := 3, lo := 0, hi := 4 } && (s.core 0).flight.isEmpty && h.accs.isEmpty) = true) := by decide
/-- Settings due in the cycle before: one with masks, one that failed, one of a drain queue, and an update. -/
def sFly (fault : Bool) (e : Eff) : State := { (s0.modCore 0 (fun c => { c with flight := [{ id := 0, slot := 0, due := 4, rows := [1], groups := [0], fault := fault, eff := e }] })) with cycle := 5 }
def dueB (s : State) (f : Flight → Bool) : Bool := (s.flightDue 0 0).any f && (s.hart? 0 0).any (fun h => h.owed.isEmpty)
theorem test_witness_WriteCycles :
    dueB (sFly true (.v {})) (·.fault) = true ∧ dueB (sFly false (.v { masks := [(1, 5)], puts := [(1, 0, 7, false)], gs := [0] })) (!·.fault) = true ∧ dueB (sFly false (.v { dq := some (9, 3) })) (!·.fault) = true
    ∧ dueB (sFly false (.m { f := mu, zero := false, scaled := false, len := 16, ea := {}, eb := {}, vsc := [], gs := [0], mir := 0 })) (!·.fault) = true := by decide
theorem test_witness_WriteCycleFrame : (sFly false (.v {})).flightDue 0 0 = some { id := 0, slot := 0, due := 4, rows := [1], groups := [0], eff := .v {} } ∧ ((sFly false (.v {})).hart? 0 0).any (fun h => h.owed == []) = true := by decide
def sArg (s : State) (f : Arg → Arg) : State := { s with arg := f s.arg }
def sWrites (phase : Nat) : State := { s0 with pw := [{ id := 3, bytes := [(0, 1)], cnt := 1, phase := phase }], arg := { id := 3 } }
theorem test_witness_AccessesAndMoments :
    (let s := sArg (bench (fun h => { h with remoteReq := true, accs := [4] })) (fun a => { a with id := 4 })
     s.arg.core < 32 ∧ (s.hart? 0 0).any (fun h => h.remoteReq && h.remoteAns.isNone) = true ∧ s.hart? 0 0 = some (hart s) ∧ (0, some (hart s)) ∈ (s.core 0).harts ∧ s.arg.id ∈ (hart s).accs)
    ∧ (match s0.xlate { die := 0, core := 0, ctx := 0, fw := true } 0x1000#80 .load false with | (_, .ok _) => true | _ => false) = true
    ∧ (match s0.xlate { die := 16, core := 32, ctx := 0, fw := true } 0x1000#80 .load false with | (_, .ok _) => true | _ => false) = true
    ∧ ([0, 1, 2].all (fun n => ((sWrites n).pw.find? (fun v => v.id == 3)).any (fun w => w.phase == n)) = true)
    ∧ (sWrites 0).pw.any (fun v => v.phase == 0 && decide (v.id < 3)) = false ∧ (homedBefore (sWrites 1).pw 3) = [] ∧ (homedBefore (sWrites 2).pw 3) = [] := by decide
/-- A page table of one page, 0x30000, and the walk that reads it for a store. -/
def sWalk : State :=
  let s := [(0x10000, num 8 0x20001), (0x20000, num 8 0x20001), (0x20000 + 24, num 8 (0x30000 + 0x18F))].foldl (fun s q => poke s q.1 q.2) s0
  sArg (s.modDie 0 (fun d => { d with ctxbase := 0x10001 })) (fun a => { a with va := 0x30000#80, acc := .store })
theorem test_witness_AccessesAndMoments_walk :
    (let s := sWalk
     let w : Who := { die := 0, core := 0, ctx := 0, fw := true }
     let s0 := s.seeCtx 0 0
     Memory.wf s.mem = true ∧ (s.ctxbase 0).getLsbD 0 = true ∧ (s.tlb w).find? (fun t => t.serves w 0x30000 .store) = none
     ∧ (match s0.ctxEntry 0 0 with
        | .ok (c0, _) => eBit c0 0 && c0 / 2 % 2 ^ 15 == 0 && decide (c0 < 2 ^ 56)
            && (match s0.walk 0 0x30000 (ePa c0) 15 4 with | (_, .ok (e, l, _)) => (leafCheck w .store false e l).isNone && !eBit e 56 | _ => false)
        | _ => false) = true) := by decide
def sEng (c : CopyCmd) : State := s0.setEngQ 0 0 { cmds := [c] }
theorem test_witness_EngineSteps :
    (sEng {}).hub.fset.testBit 0 = false ∧ ((sEng {}).engQ 0 0).cmds = {} :: [] ∧ ({} : CopyCmd).started = false
    ∧ (let c : CopyCmd := { started := true, todo := [(0, [])] }; c.todo = (0, []) :: [] ∧ c.places.any ((sEng c).placeCut 0) = false)
    ∧ (let c : CopyCmd := { started := true, cores := [1] }; c.todo = [] ∧ c.cores = 1 :: [] ∧ (sEng c).copyAlive c = true)
    ∧ (let c : CopyCmd := { started := true }; c.bad = none ∧ c.fail = none ∧ c.cores = []) ∧ ({ started := true, bad := some 2 } : CopyCmd).bad = some 2
    ∧ (let c : CopyCmd := { src := [(0, 128, 64)] }; runGrans c.src = [2] ∧ c.places.any ((sEng c).placeCut 0) = false ∧ c.clash = false)
    ∧ (let c : CopyCmd := { started := true, todo := [(0, [5])] }; ∃ y ∈ c.todo, 5 ∈ y.2) ∧ ({ started := true, fail := some (3, 7) } : CopyCmd).fail = some (3, 7)
    ∧ (let s := sCat false 1; (s.die (unitDie 0)).cat = {} :: [] ∧ s.hub.fset.testBit (unitDie 0) = false ∧ (({} : CatCmd).src ++ ({} : CatCmd).src2 ++ ({} : CatCmd).out ++ ({} : CatCmd).rcd) = [] ∧ s.dead (unitDie 0) = false)
    ∧ (sEng {}).dead 0 = false ∧ (let c : CopyCmd := { started := true, src := [(0, 128, 64)] }; 2 ∈ runGrans c.src ∧ 2 ∉ c.used ∧ c.clash = false) ∧ 2 ∈ ({ started := true, used := [2] } : CopyCmd).used := by decide
theorem test_witness_RegisterEvents :
    (s0.die 0).inv = none ∧ fldN (0x20000#64) 17 16 = 2 ∧ fldN (0x30000#64) 17 16 = 3 ∧ ((s0.modDie 0 (fun d => { d with inv := some 1 })).die 0).inv ≠ none ∧ s0.pw.any (fun v => v.phase == 0) = false
    ∧ (s0.die 0).eng.all (fun q => q.2.cmds.isEmpty) = true ∧ s0.dies.all (fun x => x.2.cat.all (fun c => c.die != 0)) = true ∧ s0.hub.ilvLock = false
    ∧ (s0.modHub (fun h => { h with ilvLock := true })).hub.ilvLock = true ∧ (∃ q ∈ (s0.die 0).recs, q.2.st ≠ 0) ∧ (∀ q ∈ (State.reset.die 15).recs, q.2.st = 0) ∧ (1#64).getLsbD 0 = true
    ∧ (s0.die 0).catAway = [] ∧ [0, 1].all (fun p => (s0.core p).harts.all (fun q => (q.2.map (fun h => !h.remoteReq)).getD true)) = true ∧ (2#64).getLsbD 0 = false
    ∧ (let m := s0.room (2 * 15) (fun _ => false); m.ok = true ∧ m.slots ≠ 0)
    ∧ s0.hub.bootStage = 0 ∧ (s0.modHub (fun h => { h with bootStage := 1 })).hub.bootStage = 1 ∧ s0.hub.qps.any (fun q => q.2.msgs.any (fun m => m.oks.isSome)) = false
    ∧ (let s : State := { State.reset with arg := { die := 15, w := 1 } }; s.arg.die < 16 ∧ s.arg.w.getLsbD 0 = true ∧ s.hub.bootStage = 0 ∧ (∀ q ∈ (s.die 15).recs, q.2.st = 0))
    ∧ (sArg s0 (fun a => { a with blk := 16 })).arg.blk = 16 ∧ (sArg s0 (fun a => { a with blk := 15, ok := true })).arg.ok = true := by decide

/-! Records of die 0: 1 is READY and can be placed, 2 runs with marks that stand too long, 3 is ending. -/
def rReady (places_ : List Place) : Rec := { st := 3, handle := 1, places := places_, desc := { cmask := 4, ncores := 1, counts := [0, 0, 0, 1] } }
def sSched : State :=
  { (((State.reset.setGang 0 1 (rReady [])).setGang 0 2 { st := 5, handle := 2, markAt := [(2, 8)] }).setGang 0 3 { st := 7, handle := 3 }) with cycle := 8200 }
theorem test_witness_SchedulerEvents :
    (sSched.placeable 0 1).isSome = true ∧ (sSched.gang 0 1).places = [] ∧ sSched.blockedHead 0 = none ∧ (sSched.gang 0 2).st = 5 ∧ (∃ m ∈ (sSched.gang 0 2).markAt, m.2 + 8192 ≤ sSched.cycle)
    ∧ (sSched.gang 0 3).st = 7 ∧ sSched.hub.fset.testBit 0 = false ∧ sSched.gangQuiet (sSched.gang 0 3) = true ∧ sSched.hartsOf (sSched.gang 0 3) = []
    ∧ (let s := State.reset.setGang 0 1 (rReady [{ core := 2, rgi := 6, slots := [0] }]); (s.placeable 0 1).isSome = true ∧ (s.gang 0 1).places ≠ []) := by decide
theorem test_witness_SchedulerEvents_head : (sWanted.blockedHead 0).isSome = true := by decide
/-- Marked groups of a core that has agreed, and an ending gang that keeps no count. -/
theorem test_witness_SchedulerEvents_release :
    (let s := sSched.setGang 0 2 { st := 5, agreed := [(2, [0])], places := [{ core := 2, rgi := 6, slots := [0] }] }
     let r := s.gang 0 2
     (∃ q ∈ r.places.zipIdx, (!(tget [] r.agreed q.1.core).isEmpty && (s.core q.1.core).flight.all (fun f => !q.1.slots.contains f.slot)) = true) ∧ r.st = 5 ∧ r.save.active = false)
    ∧ (∀ q ∈ (sSched.gang 0 3).keptPbc, tget 0 q.2 3 = 0) ∧ sSched.endWaits 0 (sSched.gang 0 3) = false ∧ (sSched.die 0).fullAt ≠ some sSched.cycle ∧ sSched.dead 0 = false := by decide
/-- The turns of the scheduler: a record to place, a saved one to bring back, a head that takes a gang, marks that have stood too long. -/
theorem test_witness_SchedulerTurns :
    (let s := sArg sSched (fun a => { a with idx := 1 }); (s.placeable 0 1).isSome = true ∧ (s.gang 0 1).places = [] ∧ s.arg.die < 16)
    ∧ (let s := sArg (State.reset.setGang 0 1 (rReady [{ core := 2, rgi := 6, slots := [0] }])) (fun a => { a with idx := 1 }); (s.placeable 0 1).isSome = true ∧ (s.gang 0 1).places ≠ [])
    ∧ (sWanted.blockedHead 0).isSome = true ∧ (sWanted.gang 0 0).st = 5 ∧ ((sWanted.gang 0 0).place? 0).isSome = true
    ∧ (let s := sArg sSched (fun a => { a with idx := 2 }); (s.gang 0 2).st = 5 ∧ (∃ m ∈ (s.gang 0 2).markAt, m.2 + 8192 ≤ s.cycle)) := by decide
/-- A gang of 16 groups on core 0; a head that needs no group of it, four groups, or its hart slots. -/
def sTake : State := (sWanted.modGang 0 0 (fun r => { r with g := 16, places := r.places.map (fun q => { q with rgi := 0 }) })).modCore 0 (fun c => { c with lat := 0 })
def needing (n : Nat) : Rec := { handle := 1, desc := { cmask := 1, ncores := 1, counts := [0, 0, 0, 1], gmin := n } }
theorem test_witness_SchedulerTurns_takes :
    let v := sTake.gang 0 0
    v.st = 5 ∧ sTake.lacks (needing 0) 0 = (false, 0) ∧ sTake.lacks (needing 4) 0 = (false, 4) ∧ ((sWanted.blockedHead 0).map (fun x => sTake.lacks x.1 0)) = some (true, 0) ∧ sTake.keeps v = 16 ∧ sTake.anyProt v = false
    ∧ ([0].filter (fun p => (v.place? p).isSome)) = [0] ∧ v.markAt = [] ∧ (v.places.map (·.core)).Nodup := by decide
/-- A whole save that begins while a reclaim save stands at band 3 of its group goes on there, goes round to the header after section 9, and ends before that band (R396). -/
theorem test_save_continues :
    let v := SaveSt.toWhole { active := true, sec := 6, nb := 3, groups := [0] }
    (v.whole, v.sec, v.nb, v.begun) = (true, 6, 3, false) ∧ ({ v with sec := 9 }.next 1 1).sec = 0 ∧ ({ v with sec := 9 }.next 1 1).done = false
    ∧ ({ v with nb := 2, round := true }.next 1 1).done = true ∧ ({ v with nb := 1, round := true }.next 1 1).nb = 2 := by decide
def sSave (v : SaveSt) : State := s0.modGang 0 0 (fun r => { r with save := v })
theorem test_witness_SchedulerEvents_saves :
    ((sSave {}).gang 0 0).save.active = false ∧ ((sSave { active := true, stalled := true }).gang 0 0).save.stalled = true ∧ ((sSave { active := true, restore := true }).gang 0 0).save.restore = true
    ∧ (let v := ((sSave { active := true, whole := true, core := 1, begun := true }).gang 0 0).save; v.active = true ∧ v.stalled = false ∧ v.restore = false ∧ v.begun = true)
    ∧ (let v : SaveSt := { active := true, whole := true, sec := 1, begun := true }
       let r := (sSave v).gang 0 0
       v.core < r.places.length ∧ (v.next (((sSave v).core 0).groups ((r.places[v.core]?).getD {}).rgi).length r.places.length).done = false)
    ∧ (let v := ((sSave { active := true, whole := true }).gang 0 0).save; v.whole = true ∧ v.begun = false) ∧ (sSave { active := true, whole := true }).gangQuiet ((sSave { active := true, whole := true }).gang 0 0) = true := by decide
/-- A self-test of core 2 that has run its time. -/
def sTest : State := { (State.reset.modCore 2 (fun c => { c with stest := some { die := 0, slot := 0, core := 0, rd := 1, prio := 0, started := 5 } })) with cycle := 170005 }
/-- A record of priority 0 that could only be placed if the test of the core ended. -/
def sAbort : State := sTest.setGang 0 1 (rReady [])
theorem test_witness_CoreEvents :
    (∀ p < 32, s0.overdue p = false)
    ∧ (let s := bench (fun h => { h with protBusy := true }); (s.hart? 0 0).any (fun h => h.protBusy && !s.anyBusy 0 (s.groupsOf 0 h)) = true)
    ∧ latOwner (s0.core 0).lat 15 = 7 ∧ tget 0 (s0.core 0).freeAt 15 + 65536 ≤ ({ s0 with cycle := 65536 } : State).cycle
    ∧ (let s := sYield 20; let t := s.modHart 0 0 (fun h => { h with pend := encode (.yield { si with d := 1 }) }); (t.hart? 0 0).any (fun h => fldN h.pend 63 56 == 0x7A && h.yieldUntil != 0 && decide (h.yieldUntil ≤ t.cycle) && !t.asleep h) = true)
    ∧ (sTest.core 2).stest.any (fun x => decide (x.started + 170000 ≤ sTest.cycle)) = true ∧ sAbort.abortWanted 2 0 = true := by decide
theorem test_witness_LinkEvents :
    linkExists 71 = true ∧ linkExists 1 = true ∧ (s0.link 71).swapped = [] ∧ 4 ≤ (s0.link 71).thr.toNat ∧ (s0.link 71).thr.toNat < 5
    ∧ (let s := s0.modLink 71 (fun l => { l with swapped := [3], laneErr := [(2, 4)], train := true })
       let t := s.modLink 71 (fun l => { l with laneErr := tmod 0 l.laneErr 2 (· + 1) })
       (s.link 71).train = true ∧ (s.link 71).down = false ∧ ((s0.modLink 71 (fun l => { l with train := true, down := true })).link 71).down = true ∧ (t.link 71).swapped.length = 1 ∧ 2 ∉ (t.link 71).swapped ∧ (t.link 71).thr.toNat < tget 0 (t.link 71).laneErr 2) := by decide
def beatAt (s : State) (d : Nat) : List Byte := s.beatOf d s.hub.running
def sFenced : State := (s0.modHub (fun h => { h with fset := 2 })).modWit 1 (fun w => { w with testing := true })
theorem test_witness_WitnessEvents :
    s0.hub.roundOpen = false ∧ s0.hub.roundNext ≤ s0.time / 8000 ∧ (beatAt s0 1).length = 32 ∧ u8 (beatAt s0 1) 0 = 0x48 ∧ (Beat.parse (beatAt s0 1)).src = 1 ∧ (Beat.parse (beatAt s0 1)).appeal = false ∧ beatOk (beatAt s0 1) = true
    ∧ (Beat.parse (beatAt s0 1)).round = s0.hub.running ∧ (Beat.parse (beatAt s0 1)).fenced = s0.hub.fset ∧ (s0.wit 2).beats = [] ∧ sFenced.hub.fset.testBit 1 = true ∧ (sFenced.wit 1).testing = true ∧ (sFenced.wit 1).appeals < 3
    ∧ (let s := { (s0.modHub (fun h => { h with roundOpen := true })) with cycle := 16000 * 8000 }; s.hub.roundOpen = true ∧ s.hub.round < s.time / 8000)
    ∧ ({ s0 with orphans := [(1, 2)] } : State).orphans = (1, 2) :: [] ∧ (let s : State := { s0 with orphans := [(1, 2)] }; s.orphanWaits 1 2 = false)
    ∧ s0.dead 1 = false ∧ sFenced.dead 1 = true ∧ (s0.modDie 1 (fun d => { d with wit := { d.wit with selfFenced := true } })).dead 1 = true
    ∧ (let s := s0.modWit 2 (fun w => { w with heard := [(s0.hub.running, beatAt s0 1)] }); (∃ q ∈ (s.wit 2).heard, q.2 = beatAt s0 1) ∧ ∀ q ∈ (s0.wit 2).heard, q.2 ≠ beatAt s0 1) := by decide
theorem test_witness_WitnessEvents_flood : s0.flooded 1 16 = [] ∧ (s0.modHub (fun h => { h with sent := [(1, beatAt s0 1)] })).flooded 1 16 = beatAt s0 1 := by decide
/-- A heartbeat of die 0 reaches the far corner of the mesh (R407). -/
theorem test_flood_corner : (s0.flood 0).testBit 15 = true := by decide
theorem test_witness_AccessesAndMoments_peer :
    (let s := sArg (s0.modLink 71 (fun l => { l with up := true })) (fun a => { a with flag := true, link := 7, off := 0x40, idx := 5, data := [1#8, 2#8] })
     s.arg.flag = true ∧ s.arg.link < 8 ∧ (s.link (64 + s.arg.link)).up = true ∧ s.arg.off % 64 + s.arg.data.length ≤ 64
     ∧ s.arg.len = 0 ∧ (match s.loc s.arg.off with | .mem k => s.peerMay s.arg.idx true (.mem k) && !s.hub.fset.testBit (dieOfKey k) | _ => false) = true) := by decide
/-- A connected queue pair and a window of one page over 0x30000 with every right, translated by a context of its own tables. -/
def sPort : State :=
  let s := [(0x10000, num 8 0x20001), (0x20000, num 8 0x20001), (0x20000 + 24, num 8 (0x30000 + 0x18F))].foldl (fun s q => poke s q.1 q.2) s0
  s.modHub (fun h => { h with ctxbase := 0x10001, qps := [(4095, { connected := true })], win := [(255, { base := 3, key := 0x70000000F, npg := 0 })] })
def portIn (acc : Acc) (off n : Nat) : Bool :=
  match sPort.portSpan 7 off n acc with
  | (t, .ok l) => !t.unsent (locKeys l) && l.length == n
  | _ => false
theorem test_witness_PortEvents :
    (tget {} sPort.hub.qps 4095).connected = true ∧ (tget {} sPort.hub.qps 4095).error = false ∧ sPort.hub.evac.st.portOpen = true ∧ s0.hub.everPlaced = true ∧ State.reset.hub.everPlaced = false
    ∧ (tget {} sPort.hub.qps 4095).msgs = [] ∧ sPort.checkFailure.hub.qps = sPort.hub.qps ∧ 64 * 1 - 0 % 64 < (List.replicate 65 (0 : Byte)).length ∧ 0 < 2 * 16 / 25
    ∧ portIn .load 0xFFF0 16 = true ∧ portIn .store 0 16 = true ∧ portIn .atomic 8 8 = true ∧ (match (sPort.portSpan 5 0 16 .store).2 with | .error false => true | _ => false) = true := by decide

theorem test_witness_PortEvents_length : ∃ l : List Byte, 2 ^ 31 < l.length :=
  ⟨List.replicate (2 ^ 31 + 1) 0, Nat.lt_of_lt_of_eq (Nat.lt_succ_self _) List.length_replicate.symm⟩

theorem test_witness_ManagementEvents :
    s0.hub.powered = true ∧ (256 : Nat) ≤ 256 ∧ 511 < 512 ∧ 4095 < 4096 ∧ ({ s0 with arg := { flag := true } } : State).arg.flag = true ∧ ({ s0 with arg := { len := 1 } } : State).arg.len = 1 ∧ s0.hub.active = false ∧ s0.hub.eepromFitted = true
    ∧ ({ s0 with hub := { s0.hub with eepromFitted := false } } : State).hub.eepromFitted = false ∧ ({ s0 with hub := { s0.hub with active := true } } : State).hub.active = true := by decide
def inSt (st : EvacSt) (f : Evac → Evac) : State := s0.modEvac (fun e => f { e with st := st })
/-- Links 0 and 7 lead to package 5, to which the evacuation goes. -/
def sGo : State :=
  let up (s : State) (n : Nat) : State := s.modLink n (fun l => { l with up := true, peer := 5 })
  sArg (up (up s0 64) 71) (fun a => { a with w := BitVec.ofNat 64 (5 * 2 ^ 46 + 2 ^ 8 + 2 ^ 15 + 0x100000) })
def goCfg (s : State) : State := s.modEvac (fun e => { e with cfg := ((s.arg.w ||| 1#64) &&& 0xFFFFFFFFFFFF00#64) ||| (e.cfg &&& 3#64) })
theorem test_witness_EvacuationOfAPackage :
    sGo.hub.evac.st = .idle ∧ (goCfg sGo).goError = 0 ∧ (goCfg s0).goError ≠ 0 ∧ (inSt .frozen id).hub.evac.st = .frozen ∧ (let s := { State.reset with hub := { State.reset.hub with evac := { st := .saving } } }; s.hub.evac.st = .saving ∧ s.allSaved = true)
    ∧ (let s := inSt .copying (fun e => { e with offered := true }); s.hub.evac.st = .copying ∧ s.hub.evac.offered = true)
    ∧ (let s := sGo.modEvac (fun e => { e with st := .copying, accepted := true, cfg := 2 ^ 8 }); s.hub.evac.accepted = true ∧ s.hub.evac.links.any (fun i => (s.link (64 + i)).up) = true)
    ∧ (let s := inSt .draining id; s.hub.evac.st = .draining ∧ s.pw = [] ∧ s.cores.all (fun q => q.2.harts.all (fun h => (h.2.map (fun x => x.pbc.all (fun c => c.2 == 0))).getD true)) = true)
    ∧ (let s := { inSt .frozen id with cycle := 60000000000 }; s.hub.evac.st = .frozen ∧ s.hub.evac.goAt + 30000000000 ≤ s.time) := by decide
theorem test_witness_EvacuationOfAPackage_states :
    (inSt .ready id).hub.evac.st = .ready ∧ (inSt .ready id).hub.eepromFitted = true ∧ (inSt .failed id).hub.evac.st = .failed ∧ (inSt .draining id).noneOutstanding = true
    ∧ (let s := inSt .draining id; s.hub.evac.goAt + 30000000000 > s.time)
    ∧ (let s := poke s0 0x1000 [7]; ∃ c ∈ s.mem, dieOfKey (c.1 / 64 * 64) < 16 ∧ s.hub.evac.absent.testBit (dieOfKey (c.1 / 64 * 64)) = false) := by decide
/-- A manifest from package 5 in the inbox, its checksum `c`. -/
def sInbox (c : Nat) : State :=
  let k := manifestKey
  { State.reset with
    mem := [(k, 0x46), (k + 1, 0x4D), (k + 2, 0x58), (k + 3, 0x51), (k + 8, 5)] ++ (leBytes 4 c).zipIdx.map (fun q => (k + 0x20 + q.2, q.1))
    hub := { evac := { st := .armed, rx := BitVec.ofNat 64 (5 * 2 ^ 46) } } }
theorem memGet_off (m : List (Nat × Byte)) (k : Nat) (h : ∀ p ∈ m, p.1 ≠ k) : memGet m k = 0 := by
  induction m with
  | nil => rfl
  | cons p r ih =>
    have h1 := h p (by simp)
    have h2 := ih (fun q hq => h q (by simp [hq]))
    simp only [memGet, tget] at *
    split
    · rfl
    · simpa [h1, Ne.symm h1] using h2
theorem inbox_blank (c o n : Nat) (h : 0x24 ≤ o) : (sInbox c).inbox o n = List.replicate n 0 := by
  simp only [State.inbox, State.readAt, memRead]
  rw [List.eq_replicate_iff]
  refine ⟨by simp, fun b hb => ?_⟩
  obtain ⟨i, -, rfl⟩ := List.mem_map.1 hb
  apply memGet_off
  intro p hp
  simp only [sInbox, leBytes, List.zipIdx_cons, List.map_cons, List.zipIdx_nil, List.map_nil, List.cons_append, List.nil_append, List.mem_cons, List.not_mem_nil, or_false] at hp
  rcases hp with rfl | rfl | rfl | rfl | rfl | rfl | rfl | rfl | rfl <;> simp only <;> omega
theorem sInbox_manifest (c : BitVec 32) (hc : crc32c (List.replicate 0xF000 0) = c) : (sInbox c.toNat).manifestOk = true := by
  have hz : ∀ n, zeroBytes (List.replicate n 0) = true := fun n => by simp [zeroBytes]
  have hn : leNat ((sInbox c.toNat).inbox 0x20 4) = c.toNat := by
    have : (sInbox c.toNat).inbox 0x20 4 = leBytes 4 c.toNat := rfl
    rw [this]; have := c.isLt; simp [leBytes, leNat]; omega
  have hd : (List.range 16).all (fun d => zeroBytes ((sInbox c.toNat).inbox (0x1000 + 0x400 * d + 0x1D0) 0x230)) = true := by
    rw [List.all_eq_true]; intro d _; rw [inbox_blank _ _ _ (by omega)]; exact hz _
  have h0 : leNat ((sInbox c.toNat).inbox 0 4) = 0x51584D46 := by rw [show (sInbox c.toNat).inbox 0 4 = [0x46, 0x4D, 0x58, 0x51] from rfl]; decide
  have h4 : leNat ((sInbox c.toNat).inbox 4 4) = 0 := by rw [show (sInbox c.toNat).inbox 4 4 = List.replicate 4 0 from rfl]; decide
  have h8 : leNat ((sInbox c.toNat).inbox 8 8) = 5 := by rw [show (sInbox c.toNat).inbox 8 8 = [5, 0, 0, 0, 0, 0, 0, 0] from rfl]; decide
  have h10 : leNat ((sInbox c.toNat).inbox 0x10 8) = 0 := by rw [show (sInbox c.toNat).inbox 0x10 8 = List.replicate 8 0 from rfl]; decide
  have h18 : leNat ((sInbox c.toNat).inbox 0x18 8) = 0 := by rw [show (sInbox c.toNat).inbox 0x18 8 = List.replicate 8 0 from rfl]; decide
  have hf : (sInbox c.toNat).hub.evac.from = 5 := by show fldN (BitVec.ofNat 64 (5 * 2 ^ 46)) 55 46 = 5; decide
  simp only [State.manifestOk, hn, hd, h0, h4, h8, h10, h18, hf, inbox_blank _ _ _ (show 0x24 ≤ 0x1000 by omega), inbox_blank _ _ _ (show 0x24 ≤ 0x24 by omega),
    inbox_blank _ _ _ (show 0x24 ≤ 0x9008 by omega), hz, hc, beq_self_eq_true, Bool.and_true]
  all_goals decide
theorem test_witness_AdoptionOfAPackage_manifest : ∃ s : State, s.hub.evac.st = .armed ∧ s.manifestOk = true := ⟨sInbox _, rfl, sInbox_manifest _ rfl⟩
def sHeld : State := { State.reset with dies := (List.range 16).map (fun d => (d, { hold := true, freeze := true })) }
theorem test_witness_AdoptionOfAPackage :
    (inSt .refused id).hub.evac.st = .refused ∧ (0#64).getLsbD 0 = false ∧ sHeld.hub.evac.st ≠ .refused ∧ sHeld.hub.evac.st ≠ .armed ∧ sHeld.canArm (BitVec.ofNat 64 (5 * 2 ^ 46 + 1)) = true ∧ s0.canArm 1 = false ∧ (inSt .armed id).manifestOk = false ∧ (inSt .ready id).hub.evac.st = .ready ∧ fldN (inSt .ready id).hub.evac.cfg 55 46 = 0
    ∧ (inSt .armed (fun e => { e with claiming := true })).hub.evac.claiming = true ∧ (List.range 8).filter (fun i => (s0.link (64 + i)).peer == 5) = [] ∧ (s0.link 64).down = false := by decide

/-! The machine as a whole. -/
theorem test_witness_MemoryStaysCanonical : State.reset.memOk ∧ (match step State.reset with | .next t => t.agenda.length | _ => 0) ≠ 0 := by
  refine ⟨rfl, by decide⟩
theorem test_witness_SlotEncodingRoundTrip :
    [(Instr.addi { si with imm := 0x1FFFFFFFFFF }, Cls.S), (.ldD { lm with t := 31, off := 0x1FFFFFFF }, .L), (.cpym { lc with k := 7, sc := 5, imm := 0x1FFFF }, .L), (.vquant { vv with vs2 := 0xD03, rm := 5, fx := 7, imm := 0xFF }, .V),
     (.mopS { mu with fa := 7, fb := 7, hs := 2 }, .M), (.ckrdCol { mc with d := 31, imm := 0xDFF }, .M)].all (fun q => q.1.cls == some q.2 && q.1.wf) = true := by decide
/-- The bench packet is fetched, checked, taken up and run, with nothing that waits or traps. -/
theorem test_witness_StepRuns :
    (let s1 := { sFetch with arg := {}, agenda := [] }
     match s1.fetch 0 0 hFetch with
     | (s2, .ok k) =>
       let g : Hart := { hFetch with opnd := hFetch.regs, octrl := hFetch.ctrl }
       let t := s2.openWith 0 0 g (k.all hFetch.held) (k.repeats hFetch.held) k.hdr hFetch.pc (hFetch.pc + BitVec.ofNat 80 (packetLen k.hdr)) false false
       s1.overdue 0 == false && (s2.checkPacket 0 0 hFetch k).isNone && s2.mayIssue 0 0 hFetch k.hdr false (k.all hFetch.held) && (earlyFault exec t g).isNone && (t.regsLate g).isNone && !outranked exec t g
         && (k.all hFetch.held).length == 1 && t.issue.slots == [.add { d := 3, s1 := 4, s2 := 5, rm := 0 }]
         && (match runSlots exec t.issue.slots t.record with | .next u => !u.issue.wait && u.issue.raised.isNone && u.issue.late.isNone | _ => false)
     | _ => false) = true := by decide
def sRaise : State := State.reset.withFetchWord 96 (2 + (0x0C#8 ++ 0#55 ++ 1#1 : Word).toNat * 2 ^ 32)
/-- The same with a packet whose slot raises a trap: LDA of a misaligned address. -/
theorem test_witness_StepRuns_trap :
    (let s1 := { sRaise with arg := {}, agenda := [] }
     match s1.fetch 0 0 hFetch with
     | (s2, .ok k) =>
       let g : Hart := { hFetch with opnd := hFetch.regs, octrl := hFetch.ctrl }
       let t := s2.openWith 0 0 g (k.all hFetch.held) (k.repeats hFetch.held) k.hdr hFetch.pc (hFetch.pc + BitVec.ofNat 80 (packetLen k.hdr)) false false
       (s2.checkPacket 0 0 hFetch k).isNone && s2.mayIssue 0 0 hFetch k.hdr false (k.all hFetch.held) && (earlyFault exec t g).isNone && (t.regsLate g).isNone
         && (match runSlots exec t.issue.slots t.record with | .next u => !u.issue.wait && u.issue.raised.isSome && u.issue.late.isNone | _ => false)
     | _ => false) = true := by decide
theorem test_witness_StepRuns_events : ({ s0 with agenda := [({}, .nop sr)] } : State).agenda = ({}, .nop sr) :: [] ∧ (Instr.nop sr).cls ≠ none ∧ (Instr.roundStart).cls = none := by decide
/-- A cycle that may not end yet, its packet not issued, and one that may. -/
theorem test_witness_StepRuns_tick : ({ sFetch with agenda := [] } : State).mustIssue exec = true ∧ State.reset.mustIssue exec = false ∧ isTick .pepperGeneratorStep = true ∧ isTick .roundStart = false := by decide
theorem test_witness_TrapEntryAndReturn :
    s0.hart? 0 0 = some (hart s0) ∧ (hart s0).handler = false ∧ (let s := bench (fun h => { h with handler := true }); s.hart? 0 0 = some (hart s) ∧ (hart s).handler = true ∧ s.cur = some (hart s))
    ∧ ({ cause := 255, reissue := 7, ret := 3, nrec := 4095 } : TrapReq).cause < 256
    ∧ [0, 1, 2, 3].all (fun n => fldN (trcause { cause := 0x29, ret := n }) 13 12 == n && fldN (trcause { cause := 0x28, ret := n }) 7 0 != 0x29) = true := by decide

/-! Single slots and steps, with results calculated by hand from the rules. -/
def left (i : Instr) (s : State) : Hart := match exec i s with | .next t => hart t | _ => {}
def regAfter (i : Instr) (g : List (Nat × Word)) (n : Nat) : Word := readG (left i (benchG g [])).regs n
/-- R308: the product's high half, signed and unsigned; division by zero; the least number divided by -1. -/
theorem test_integer_corners :
    regAfter (.mulh { sr with d := 3, s1 := 1, s2 := 2 }) [(1, -1), (2, 2)] 3 = -1 ∧ regAfter (.mulhu { sr with d := 3, s1 := 1, s2 := 2 }) [(1, -1), (2, 2)] 3 = 1
    ∧ regAfter (.div { sr with d := 3, s1 := 1, s2 := 2 }) [(1, 7)] 3 = -1 ∧ regAfter (.rem { sr with d := 3, s1 := 1, s2 := 2 }) [(1, 7)] 3 = 7
    ∧ regAfter (.div { sr with d := 3, s1 := 1, s2 := 2 }) [(1, 0x8000000000000000), (2, -1)] 3 = 0x8000000000000000 ∧ regAfter (.rem { sr with d := 3, s1 := 1, s2 := 2 }) [(1, -7), (2, 2)] 3 = -1 := by decide
/-- R308: a shift takes the low six bits of its count; SLT is signed and SLTU is not; a result in g0 is discarded (R74). -/
theorem test_shifts_and_compares :
    regAfter (.sra { sr with d := 3, s1 := 1, s2 := 2 }) [(1, 0x8000000000000000), (2, 65)] 3 = 0xC000000000000000 ∧ regAfter (.slt { sr with d := 3, s1 := 1, s2 := 2 }) [(1, -1), (2, 1)] 3 = 1
    ∧ regAfter (.sltu { sr with d := 3, s1 := 1, s2 := 2 }) [(1, -1), (2, 1)] 3 = 0 ∧ regAfter (.add { sr with d := 0, s1 := 1, s2 := 1 }) [(1, 5)] 0 = 0 := by decide
/-- R311: 1 + 2^-24 is a tie that RNE takes to 1 and RUP to the next number; FDIV of 1 by 3; FCVT.I saturates and sends NaN to 0. -/
theorem test_scalar_float :
    regAfter (.fadd { sr with d := 3, s1 := 1, s2 := 2 }) [(1, 0x3F800000), (2, 0x33800000)] 3 = 0x3F800000 ∧ regAfter (.fadd { sr with d := 3, s1 := 1, s2 := 2, rm := 3 }) [(1, 0x3F800000), (2, 0x33800000)] 3 = 0x3F800001
    ∧ regAfter (.fdiv { sr with d := 3, s1 := 1, s2 := 2 }) [(1, 0x3F800000), (2, 0x40400000)] 3 = 0x3EAAAAAB ∧ regAfter (.fcvtI { sr with d := 3, s1 := 1 }) [(1, 0x7F800000)] 3 = 0x7FFFFFFFFFFFFFFF
    ∧ regAfter (.fcvtI { sr with d := 3, s1 := 1, rm := 1 }) [(1, 0xC0200000)] 3 = -2 := by decide
/-- R312: an offset counts units of 4 bytes from the packet's address; JAL leaves the address after the packet. -/
theorem test_branches :
    (match exec (.bne { sb with s1 := 1, off := 0x1FFFFFFFFFF }) (benchG [(1, 1)] []) with | .next t => t.issue.npc == 0xFC && t.issue.branched | _ => false) = true
    ∧ (match exec (.jal { sb with d := 14, off := 2 }) s0 with | .next t => t.issue.npc == 0x108 && readA (hart t).regs 14 == 0x10C | _ => false) = true := by decide
/-- R179, R180: a signed byte, a zero-extended byte, a word across a 4 KiB boundary, and a post-increment. -/
theorem test_loads :
    readG (left (.ldB { lm with t := 6, a := 2 }) sMem).regs 6 = 0xFFFFFFFFFFFFFFF0 ∧ readG (left (.lduB { lm with t := 6, a := 2 }) sMem).regs 6 = 0xF0
    ∧ readG (left (.ldD { lm with t := 6, a := 2, pi := 1, off := 24 }) sMem).regs 6 = 0x800000000000FFF0 ∧ readA (left (.ldD { lm with t := 6, a := 2, pi := 1, off := 24 }) sMem).regs 2 = 0x1018
    ∧ (let s := poke (poke (benchG [] [(2, 0x1FFE)]) 0x1FFE [1, 2]) 0x2000 [3, 0x80]; readG (left (.ldW { lm with t := 6, a := 2 }) s).regs 6 = 0xFFFFFFFF80030201) := by decide
/-- R186: AMOMIN is signed; it returns the old word and the new one is in memory at once. -/
theorem test_atomic :
    (let s := poke (benchG [(1, -5)] [(2, 0x1000)]) 0x1000 [9]
     match exec (.amomin { lm with t := 4, a := 2, x := 1 }) s with
     | .next t => readG (hart t).regs 4 == 9 && t.readN ((locKeys (span s 0x1000 4 .load).2).headD 0) 4 == 0xFFFFFFFB
     | _ => false) = true := by decide
/-- R257, R260: a sum of BF16 pairs, each rounded once: 1 + 2 and 256 + 1, whose last bit is lost to even. -/
theorem test_vector_add :
    (let s := sGrid.modCore 0 (fun c => (c.putCell [0] 48 0 0x43803F80 false).putCell [0] 49 0 0x3F804000 false)
     match exec (.vadd { vv with vd := 50, vs1 := 48, vs2 := 49 }) s with
     | .next t => ((t.core 0).flight.head?).any (fun f => match f.eff with | .v e => (e.puts.head?).any (fun q => q.1 == 50 && q.2.2.1 == 0x43804040) | _ => false)
     | _ => false) = true := by decide
/-- R229, R232: one cell of an FP32 update: 2 + 3 * 4. -/
theorem test_update : updateF32 0x40000000 [f32 0x40400000] [f32 0x40800000] 127 127 = 0x41600000 := by decide
/-- R47, R49, R379: a packet runs in one step, and an illegal one takes its handler's address from TRAP.VEC (R382). -/
theorem test_step :
    (match step (State.reset.withFetchWord 96 (1 + (0x10#8 ++ 3#5 ++ 0#5 ++ 0x1FFFFFFFFFF#41 ++ 0#5 : Word).toNat * 2 ^ 32)) with
     | .next t => (t.hart? 0 0).any (fun h => readG h.regs 3 == BitVec.allOnes 64 && h.pc == 12) | _ => false) = true
    ∧ (match step ((State.reset.modDie 0 (fun d => { d with trapvec := 0x100#64 })).withFetchWord 96 (1 + (0x27#8 ++ 0#56 : Word).toNat * 2 ^ 32)) with
       | .next t => (t.hart? 0 0).any (fun h => h.handler && fldN h.trap.cause 7 0 == 1 && h.pc == 0x1000000) | _ => false) = true := by decide
/-- R399: the check value's polynomial on the nine digits of its usual test string. -/
theorem test_crc32c : crc32c [0x31, 0x32, 0x33, 0x34, 0x35, 0x36, 0x37, 0x38, 0x39] = 0xE3069283 := by decide

end Sys2Proof.Tests
end

section
/-! SUPPORT. The values that integer and address arithmetic write, in the terms of R308 and R309. -/
namespace Sys2Proof.Machine
open Sys2Proof

/-- DIV rounds toward zero; the one quotient out of range wraps (R308). -/
theorem divS_eq_tdiv (a b : Word) : divS a b = if b = 0 then BitVec.allOnes 64 else BitVec.ofInt 64 (a.toInt.tdiv b.toInt) := by
  have q : a.sdiv b = BitVec.ofInt 64 (a.toInt.tdiv b.toInt) := by
    apply BitVec.eq_of_toInt_eq
    rw [BitVec.toInt_sdiv, BitVec.toInt_ofInt]
  rw [divS, q]
theorem divU_eq_div (a b : Word) : divU a b = if b = 0 then BitVec.allOnes 64 else BitVec.ofNat 64 (a.toNat / b.toNat) := by
  have q : a.udiv b = BitVec.ofNat 64 (a.toNat / b.toNat) := BitVec.udiv_def
  rw [divU, q]
theorem remS_eq_tmod (a b : Word) : remS a b = if b = 0 then a else BitVec.ofInt 64 (a.toInt.tmod b.toInt) := by
  have q : a.srem b = BitVec.ofInt 64 (a.toInt.tmod b.toInt) := by
    rw [← BitVec.toInt_srem, BitVec.ofInt_toInt]
  rw [remS, q]
theorem remU_eq_mod (a b : Word) : remU a b = if b = 0 then a else BitVec.ofNat 64 (a.toNat % b.toNat) := by
  have q : a.umod b = BitVec.ofNat 64 (a.toNat % b.toNat) := BitVec.umod_def
  rw [remU, q]

theorem flag_decide (p : Prop) [Decidable p] : flag (decide p) = if p then 1 else 0 := by
  by_cases h : p <;> simp [flag, h]
theorem flag_bne (a b : Word) : flag (a != b) = if a = b then 0 else 1 := by
  by_cases h : a = b <;> simp [flag, h]
theorem ite_slt {α : Type} (a b : Word) (x y : α) : (if a.slt b then x else y) = if a.toInt < b.toInt then x else y := by
  simp [BitVec.slt]

/-- LUI's shift is its product by 2^23 (R308). -/
theorem shiftLeft_23_eq_mul (a : Word) : a <<< 23 = a * 2 ^ 23 := by
  rw [BitVec.shiftLeft_eq_mul_twoPow]; rfl

/-- LUI gives bits [63:23] of a constant and ORI, whose immediate below 2^23 has no sign, the rest. -/
theorem exists_lui_ori (c : Word) : ∃ u l : BitVec 41, l.toNat < 2 ^ 23 ∧ (u.signExtend 64 * 2 ^ 23) ||| l.signExtend 64 = c := by
  refine ⟨(c >>> 23).setWidth 41, (c.setWidth 23).setWidth 41, ?_, ?_⟩
  · rw [BitVec.toNat_setWidth_of_le (by decide)]
    exact (c.setWidth 23).isLt
  · rw [← shiftLeft_23_eq_mul]
    apply BitVec.eq_of_getLsbD_eq
    intro i hi
    simp only [BitVec.getLsbD_or, BitVec.getLsbD_shiftLeft, BitVec.getLsbD_signExtend, BitVec.getLsbD_setWidth, BitVec.getLsbD_ushiftRight, BitVec.msb_setWidth]
    by_cases low : i < 23
    · have short : i < 41 := by omega
      simp [low, hi, short]
    · have up : 23 + (i - 23) = i := by omega
      have short : i - 23 < 41 ∧ i - 23 < 64 := by omega
      simp [low, hi, up, short]

/-- The low 64 bits of a difference of addresses are the difference modulo 2^64 (R309). -/
theorem setWidth_sub_eq_ofInt (a b : VAddr) : (a - b).setWidth 64 = BitVec.ofInt 64 (a.toInt - b.toInt) := by
  have low (x : VAddr) : BitVec.ofInt 64 x.toInt = x.setWidth 64 := BitVec.signExtend_eq_setWidth_of_le x (by decide)
  rw [Int.sub_eq_add_neg, BitVec.ofInt_add, BitVec.ofInt_neg, low, low]
  apply BitVec.eq_of_toNat_eq
  simp only [BitVec.toNat_setWidth, BitVec.toNat_sub, BitVec.toNat_add, BitVec.toNat_neg]
  omega

/-- An address with its bits [79:64] replaced, as a number (R309). -/
theorem withHigh_setWidth {w : Nat} (a : VAddr) (x : BitVec w) :
    withHigh a (x.setWidth 16) = BitVec.ofNat 80 (a.toNat % 2 ^ 64 + x.toNat % 2 ^ 16 * 2 ^ 64) := by
  have hx : x.toNat % 2 ^ 16 < 2 ^ 16 := Nat.mod_lt _ (by decide)
  apply BitVec.eq_of_toNat_eq
  rw [withHigh, BitVec.toNat_append, BitVec.toNat_ofNat, BitVec.toNat_setWidth, BitVec.toNat_setWidth, ← Nat.shiftLeft_add_eq_or_of_lt (Nat.mod_lt _ (by decide)), Nat.shiftLeft_eq]
  omega

end Sys2Proof.Machine
end

section
/-! SUPPORT. The shared forms of scalar slots: each completes and writes the value of its operation on the operands at issue (R49). -/
namespace Sys2Proof.Machine
open Sys2Proof

variable {s : State} {h : Hart}

theorem intOp_of (f : SR) (op : Word → Word → Word) (e : s.cur = some h) {v : Word} (hv : op (h.og f.s1.toNat) (h.og f.s2.toNat) = v) :
    intOp f s op = .next (s.wrG f.d.toNat v) := by
  rw [intOp, onHart_of _ e, hv]
theorem immOp_of (f : SI) (op : Word → Word → Word) (e : s.cur = some h) {v : Word} (hv : op (h.og f.s1.toNat) (f.imm.signExtend 64) = v) :
    immOp f s op = .next (s.wrG f.d.toNat v) := by
  rw [immOp, onHart_of _ e, hv]
/-- A compare branch goes to its target where its condition holds, and leaves the state as it is where not. -/
theorem branchIf_of (f : SB) (c : Word → Word → Bool) (e : s.cur = some h) {b : Bool} (hb : c (h.og f.s1.toNat) (h.og f.s2.toNat) = b) :
    branchIf f s c = .next (if b then s.jump (s.target f.off) else s) := by
  rw [branchIf, onHart_of _ e, hb]

/-- A write of g0 changes nothing (R74). -/
theorem cur_wrG_zero (v : Word) (e : s.cur = some h) : (s.wrG 0 v).cur = some h := by
  rw [State.wrG, State.cur_modCur _ _ _ e, writeG_zero]

end Sys2Proof.Machine
end

section
/-! The integer and address arithmetic of R308 and R309. -/
namespace Sys2Proof.Machine
open Sys2Proof

/-- Settles O2: each instruction is one of the shared forms, and the value of its operation is the one that R308 or R309 gives. -/
theorem integerArithmetic : Obligations.IntegerArithmetic := by
  refine ⟨fun s h v e => ⟨readG_zero _, h, cur_wrG_zero v e, readG_zero _, fun _ => rfl⟩, exists_lui_ori, fun s h f e => ?registers, fun s h f e => ?immediate,
    fun s h e => ⟨fun f => ?address, fun f => ?addressImmediate⟩⟩
  case registers =>
    exact ⟨intOp_of f (· + ·) e rfl, intOp_of f (· - ·) e rfl, intOp_of f (· * ·) e rfl, intOp_of f mulhS e rfl, intOp_of f mulhU e rfl,
      intOp_of f divS e (divS_eq_tdiv _ _), intOp_of f divU e (divU_eq_div _ _), intOp_of f remS e (remS_eq_tmod _ _), intOp_of f remU e (remU_eq_mod _ _),
      intOp_of f (· &&& ·) e rfl, intOp_of f (· ||| ·) e rfl, intOp_of f (· ^^^ ·) e rfl,
      intOp_of f (fun a b => a <<< shAmt b) e rfl, intOp_of f (fun a b => a >>> shAmt b) e rfl, intOp_of f (fun a b => a.sshiftRight (shAmt b)) e rfl,
      intOp_of f (fun a b => flag (a == b)) e (flag_decide _), intOp_of f (fun a b => flag (a != b)) e (flag_bne _ _),
      intOp_of f (fun a b => flag (a.slt b)) e (flag_decide _), intOp_of f (fun a b => flag (a.ult b)) e (flag_decide _),
      intOp_of f (fun a b => flag (a.sle b)) e (flag_decide _), intOp_of f (fun a b => flag (a.ule b)) e (flag_decide _),
      intOp_of f (fun a b => if a.slt b then a else b) e (ite_slt _ _ _ _), intOp_of f (fun a b => if a.slt b then b else a) e (ite_slt _ _ _ _)⟩
  case immediate =>
    exact ⟨immOp_of f (· + ·) e rfl, immOp_of f (· &&& ·) e rfl, immOp_of f (· ||| ·) e rfl, immOp_of f (· ^^^ ·) e rfl,
      immOp_of f (fun a b => a <<< shAmt b) e rfl, immOp_of f (fun a b => a >>> shAmt b) e rfl, immOp_of f (fun a b => a.sshiftRight (shAmt b)) e rfl,
      immOp_of f (fun _ b => b <<< 23) e (shiftLeft_23_eq_mul _)⟩
  case address =>
    dsimp only
    rw [← setWidth_sub_eq_ofInt, BitVec.ofNat_toNat, BitVec.ofNat_toNat, ← withHigh_setWidth]
    exact ⟨onHart_of _ e, onHart_of _ e, onHart_of _ e, onHart_of _ e, onHart_of _ e⟩
  case addressImmediate =>
    dsimp only
    rw [← withHigh_setWidth]
    exact ⟨onHart_of _ e, onHart_of _ e⟩

end Sys2Proof.Machine
end

section
/-! SUPPORT. Where a control transfer goes (R312), and what stands in the way of the next packet: the fetch fault of a misaligned address (R76) and the trap it takes (R376). -/
namespace Sys2Proof.Machine
open Sys2Proof

/-- An offset counts units of 4 bytes (R312). -/
theorem offset_eq_ofInt (off : BitVec 41) : (off.signExtend 80 <<< 2 : VAddr) = BitVec.ofInt 80 (4 * off.toInt) := by
  rw [BitVec.shiftLeft_eq_mul_twoPow, BitVec.signExtend, BitVec.ofInt_mul, BitVec.mul_comm]; rfl
theorem State.target_eq (s : State) (off : BitVec 41) : s.target off = s.issue.pc0 + BitVec.ofInt 80 (4 * off.toInt) := by
  rw [State.target, offset_eq_ofInt]

theorem not_slt_eq_decide (a b : Word) : (!a.slt b) = decide (b.toInt ≤ a.toInt) := by
  simp [BitVec.slt, ← decide_not]
theorem not_ult_eq_decide (a b : Word) : (!a.ult b) = decide (b.toNat ≤ a.toNat) := by
  simp [BitVec.ult, ← decide_not]

variable {s : State} {h : Hart}

/-- The fetch fault of a misaligned program counter (R76). -/
def misalignedFetch (pc : VAddr) : TrapReq := { cause := 0x21, va := pc, info := trinfo .fetch 2 15 false }

theorem State.fetch_misaligned (s : State) (p i : Nat) (odd : h.pc.toNat % 4 ≠ 0) : s.fetch p i h = (s, .error (some (misalignedFetch h.pc))) := by
  rw [State.fetch, if_pos odd, misalignedFetch]
theorem State.openFetched_misaligned (s : State) (p i : Nat) (odd : h.pc.toNat % 4 ≠ 0) :
    s.openFetched p i h = .trap (s.stopAt p i h [] h.pc h.pc (misalignedFetch h.pc)) := by
  rw [State.openFetched, s.fetch_misaligned p i odd]

/-- A running hart outside handler state that waits for nothing, has nothing to issue again and is in no replay goes on at its program counter (R50). -/
theorem State.openNext_eq_openFetched {p i : Nat} (e : s.hart? p i = some h) (exited : h.exited = false) (due : s.overdue p = false) (pend : h.pend = 0)
    (vpend : h.vpend = none) (stopped : h.stopped = false) (owed : h.owed = []) (stall : h.stall29 = []) (handler : h.handler = false) (again : h.reNow = 0)
    (tile : h.tileNow = none) (replay : h.carrel.st ≠ .replaying) : s.openNext p i = s.openFetched p i h := by
  have awake : s.asleep h = false := by simp [State.asleep, stopped]
  simp [State.openNext, e, exited, due, pend, vpend, stopped, owed, stall, handler, again, tile, replay, awake]

/-- The hart that a precise trap of a packet not taken up leaves, outside handler state before it: the hart entered, the trap's record naming the packet's address. -/
theorem State.hart?_stopAt (s : State) (p i : Nat) (l : List Slot) (pc0 cont : VAddr) (t : TrapReq) (handler : h.handler = false) :
    (s.stopAt p i h l pc0 cont t).hart? p i
      = some ((h.snap.keep l pc0 cont false).tileOver.enter (s.die (p / 2)).trapvec { t with pc := some pc0, tilep := h.tileNow.isSome }) := by
  have here := State.hart?_setHart_same s p i (h.snap.keep l pc0 cont false).tileOver
  rw [State.stopAt, State.enterTrap_of _ p i _ _ here handler, State.hart?_setHart_same]
  rfl

/-- TRCAUSE holds the cause in bits [7:0] (R376). -/
theorem fldN_trcause_cause (t : TrapReq) (small : t.cause < 256) : fldN (trcause t) 7 0 = t.cause := by
  simp only [fldN, fld, trcause, BitVec.extractLsb'_toNat, BitVec.toNat_ofNat, Nat.shiftRight_zero]
  split_ifs <;> omega

/-- A packet with no ERET, neither issued again nor replayed, leaves its hart at the packet that it chose, the held slots of a program as its header says (R50, R312). -/
theorem Hart.issued_pc_held (h h0 : Hart) {q : Issue} {l : List Slot} (c : Nat) (again : q.again = false) (crl : q.crl = false) (plain : ∀ x ∈ l, x.1 = .S → opOf x.2 ≠ 0xE1) :
    (h.issued h0 q l c).pc = q.npc ∧ (h.issued h0 q l c).held = (if h0.handler then h.held else heldAfter h.held q.hdr q.words) := by
  have noEret : l.any (fun x => x.1 == .S && opOf x.2 == 0xE1) = false := by
    rw [List.any_eq_false]
    intro x hx
    simpa using plain x hx
  cases handler : h0.handler <;> simp [Hart.issued, again, crl, noEret, handler]

end Sys2Proof.Machine
end

section
/-! The control transfers of R312. -/
namespace Sys2Proof.Machine
open Sys2Proof

/-- Settles O4: a transfer is a branch or a jump of the shared forms; the packet that it chose is where its hart goes on; and a misaligned one is met by the next fetch. -/
theorem controlTransfers : Obligations.ControlTransfers := by
  refine ⟨fun s h f e => ?transfers, fun s h hp hi e exited due pend vpend stopped owed stall handler again tile replay odd => ?misaligned,
    fun h h0 q l c again crl plain => h.issued_pc_held h0 c again crl plain⟩
  case transfers =>
    dsimp only
    rw [← offset_eq_ofInt]
    exact ⟨branchIf_of f (· == ·) e rfl, branchIf_of f (· != ·) e rfl, branchIf_of f (fun a b => a.slt b) e rfl, branchIf_of f (fun a b => !a.slt b) e (not_slt_eq_decide _ _),
      branchIf_of f (fun a b => a.ult b) e rfl, branchIf_of f (fun a b => !a.ult b) e (not_ult_eq_decide _ _), branchIf_of f (fun a _ => a == 0) e rfl, branchIf_of f (fun a _ => a != 0) e rfl,
      onHart_of _ e, onHart_of _ e, onHart_of _ e, onHart_of _ e, fun g => onHart_of _ e⟩
  case misaligned =>
    have next := (State.openNext_eq_openFetched e exited due pend vpend stopped owed stall handler again tile replay).trans (s.openFetched_misaligned _ _ odd)
    have issue : s.issuePacket s.arg.core s.arg.slot = s.stopAt s.arg.core s.arg.slot h [] h.pc h.pc (misalignedFetch h.pc) := by rw [State.issuePacket, next]
    refine ⟨_, _, ?_, s.hart?_stopAt _ _ [] h.pc h.pc (misalignedFetch h.pc) handler, rfl, ?_, rfl, rfl, rfl⟩
    · exact (below_of _ hp).trans (by rw [if_pos hi, issue])
    · exact fldN_trcause_cause _ (by decide : 0x21 < 256)

end Sys2Proof.Machine
end

section
/-! SUPPORT. What handler state exchanges and keeps (R382), the fields of TRCAUSE (R376), and where each return goes on (R384, R386). -/
namespace Sys2Proof.Machine
open Sys2Proof

/-! The banks. -/
theorem Hart.readG_swapBank_banked (h : Hart) (n : Nat) (lo : 24 ≤ n) (hi : n ≤ 31) : readG h.swapBank.regs n = tget 0 h.bankG n := by
  rw [Hart.readG_swapBank, if_pos ⟨lo, hi⟩]
theorem Hart.readG_swapBank_common (h : Hart) (n : Nat) (out : n < 24 ∨ 31 < n) : readG h.swapBank.regs n = readG h.regs n := by
  rw [Hart.readG_swapBank, if_neg (by omega)]
theorem Hart.readA_swapBank_banked (h : Hart) (n : Nat) (banked : n = 14 ∨ n = 15) : readA h.swapBank.regs n = tget 0 h.bankA n := by
  rw [Hart.readA_swapBank, if_pos banked]
theorem Hart.readA_swapBank_common (h : Hart) (n : Nat) (out : n < 14 ∨ 15 < n) : readA h.swapBank.regs n = readA h.regs n := by
  rw [Hart.readA_swapBank, if_neg (by omega)]
@[simp] theorem Hart.swapBank_ctx (h : Hart) : h.swapBank.ctx = h.ctx := rfl
@[simp] theorem Hart.readK_swapBank (h : Hart) (n : Nat) : readK h.swapBank.regs n = readK h.regs n := rfl

/-- Exchanging the banks twice gives every g register back. -/
theorem Hart.readG_swapBank_swapBank (h : Hart) (n : Nat) : readG h.swapBank.swapBank.regs n = readG h.regs n := by
  by_cases banked : 24 ≤ n ∧ n ≤ 31
  · obtain ⟨lo, hi⟩ := banked
    rw [Hart.readG_swapBank_banked _ n lo hi, Hart.bankG_swapBank _ n lo hi]
  · have out : n < 24 ∨ 31 < n := by omega
    rw [Hart.readG_swapBank_common _ n out, Hart.readG_swapBank_common _ n out]
/-- Exchanging the banks twice gives every a register back. -/
theorem Hart.readA_swapBank_swapBank (h : Hart) (n : Nat) : readA h.swapBank.swapBank.regs n = readA h.regs n := by
  by_cases banked : n = 14 ∨ n = 15
  · rw [Hart.readA_swapBank_banked _ n banked, Hart.bankA_swapBank _ n banked]
  · have out : n < 14 ∨ 15 < n := by omega
    rw [Hart.readA_swapBank_common _ n out, Hart.readA_swapBank_common _ n out]
/-- Exchanging the banks twice gives the unnamed bank back. -/
theorem Hart.bankG_swapBank_swapBank (h : Hart) (n : Nat) (lo : 24 ≤ n) (hi : n ≤ 31) : tget 0 h.swapBank.swapBank.bankG n = tget 0 h.bankG n := by
  rw [Hart.bankG_swapBank _ n lo hi, Hart.readG_swapBank_banked _ n lo hi]
theorem Hart.bankA_swapBank_swapBank (h : Hart) (n : Nat) (banked : n = 14 ∨ n = 15) : tget 0 h.swapBank.swapBank.bankA n = tget 0 h.bankA n := by
  rw [Hart.bankA_swapBank _ n banked, Hart.readA_swapBank_banked _ n banked]

/-! Entry. -/
/-- Leaving a handler exchanges back what its entry exchanged. -/
theorem Hart.regs_swapBank_enter (h : Hart) (v : Word) (t : TrapReq) : (h.enter v t).swapBank.regs = h.swapBank.swapBank.regs := rfl
theorem Hart.bankG_swapBank_enter (h : Hart) (v : Word) (t : TrapReq) : (h.enter v t).swapBank.bankG = h.swapBank.swapBank.bankG := rfl
theorem Hart.bankA_swapBank_enter (h : Hart) (v : Word) (t : TrapReq) : (h.enter v t).swapBank.bankA = h.swapBank.swapBank.bankA := rfl
/-- A handler is privileged and translates in context 0 (R382). -/
theorem Hart.priv_of_handler {h : Hart} (handler : h.handler = true) : h.priv = true := by rw [Hart.priv, handler, Bool.or_true]
theorem Hart.curCtx_of_handler {h : Hart} (handler : h.handler = true) : h.curCtx = 0 := by rw [Hart.curCtx, if_pos handler]
theorem Hart.curCtx_of_program {h : Hart} (program : h.handler = false) : h.curCtx = h.ctx := by simp [Hart.curCtx, program]
/-- The first packet of a handler stands at TRAP.VEC·2^16 (R382). -/
theorem Hart.pc_enter (h : Hart) (v : Word) (t : TrapReq) : (h.enter v t).pc = BitVec.ofNat 80 (v.toNat * 2 ^ 16) := by
  apply BitVec.eq_of_toNat_eq
  have := v.isLt
  simp only [Hart.enter, BitVec.toNat_shiftLeft, BitVec.toNat_setWidth, BitVec.toNat_ofNat, Nat.shiftLeft_eq]
  omega

/-! The fields of TRCAUSE (R376). -/
theorem ite_eq_toNat_mul (b : Bool) (n : Nat) : (if b then n else 0) = b.toNat * n := by
  cases b <;> simp
theorem trcause_toNat (t : TrapReq) (cause : t.cause < 256) (reissue : t.reissue < 8) (ret : t.ret < 4) (nrec : t.nrec < 4096) :
    (trcause t).toNat = t.cause + t.reissue * 2 ^ 8 + t.rdef.toNat * 2 ^ 11 + t.ret * 2 ^ 12 + t.crl.toNat * 2 ^ 14 + t.tilep.toNat * 2 ^ 15 + t.nrec * 2 ^ 16 := by
  have := t.rdef.toNat_lt; have := t.crl.toNat_lt; have := t.tilep.toNat_lt
  rw [trcause, BitVec.toNat_ofNat, ite_eq_toNat_mul, ite_eq_toNat_mul, ite_eq_toNat_mul]
  omega
/-- A bit of a word that is the digit of a truth value is that truth value. -/
theorem getLsbD_eq_of_digit {w : Nat} {x : BitVec w} {n : Nat} {b : Bool} (digit : x.toNat / 2 ^ n % 2 = b.toNat) : x.getLsbD n = b := by
  rw [getLsbD_digit, digit]
  cases b <;> rfl
/-- Every field of TRCAUSE reads back as the trap gave it. -/
theorem trcause_fields (t : TrapReq) (cause : t.cause < 256) (reissue : t.reissue < 8) (ret : t.ret < 4) (nrec : t.nrec < 4096) :
    let c := trcause t
    fldN c 7 0 = t.cause ∧ fldN c 10 8 = t.reissue ∧ c.getLsbD 11 = t.rdef ∧ fldN c 13 12 = t.ret ∧ c.getLsbD 14 = t.crl ∧ c.getLsbD 15 = t.tilep ∧ fldN c 27 16 = t.nrec ∧ fldN c 63 28 = 0 := by
  have value := trcause_toNat t cause reissue ret nrec
  have := t.rdef.toNat_lt; have := t.crl.toNat_lt; have := t.tilep.toNat_lt
  refine ⟨?_, ?_, getLsbD_eq_of_digit ?_, ?_, getLsbD_eq_of_digit ?_, getLsbD_eq_of_digit ?_, ?_, ?_⟩ <;>
    simp only [fldN_digits, value] <;> omega

/-! Return. -/
@[simp] theorem Hart.moveOn_bankG (h : Hart) : h.moveOn.bankG = h.bankG := by unfold Hart.moveOn; split <;> rfl
@[simp] theorem Hart.moveOn_bankA (h : Hart) : h.moveOn.bankA = h.bankA := by unfold Hart.moveOn; split <;> rfl
@[simp] theorem Hart.moveOn_ctx (h : Hart) : h.moveOn.ctx = h.ctx := by unfold Hart.moveOn; split <;> rfl
/-- A return exchanges the banks and leaves the program's context, whichever way it goes on. -/
theorem Hart.leave_banks (h : Hart) : h.leave.bankG = h.swapBank.bankG ∧ h.leave.bankA = h.swapBank.bankA ∧ h.leave.ctx = h.ctx := by
  by_cases full : fldN h.trap.cause 7 0 = 0x29
  · simp [Hart.leave, full]
  · simp only [Hart.leave, if_neg full]
    split
    · split_ifs <;> simp
    · split_ifs <;> simp
    · split_ifs <;> simp

variable {h : Hart}

theorem Hart.leave_stalled (full : fldN h.trap.cause 7 0 = 0x29) : h.leave.pc = h.cont := by
  simp only [Hart.leave, if_pos full]
theorem Hart.leave_retry (other : fldN h.trap.cause 7 0 ≠ 0x29) (ret : fldN h.trap.cause 13 12 = 0) :
    h.leave.pc = (if h.trap.cause.getLsbD 14 then h.cont else h.trap.pc) ∧ h.leave.carrel = h.carrel := by
  simp only [Hart.leave, if_neg other, ret]
  refine ⟨trivial, ?_⟩
  split <;> rfl
theorem Hart.leave_reissue (other : fldN h.trap.cause 7 0 ≠ 0x29) (ret : fldN h.trap.cause 13 12 = 1) :
    h.leave.pc = h.cont ∧ h.leave.reNow = fldN h.trap.cause 10 8 := by
  simp only [Hart.leave, if_neg other, ret, and_self]
theorem Hart.leave_continue (other : fldN h.trap.cause 7 0 ≠ 0x29) (ret : fldN h.trap.cause 13 12 = 2) : h.leave.pc = h.cont := by
  simp only [Hart.leave, if_neg other, ret]
/-- A tile fault of the packet that remains is raised after the return. -/
theorem Hart.leave_tileNow (other : fldN h.trap.cause 7 0 ≠ 0x29) : h.leave.tileNow = if h.trap.cause.getLsbD 15 then some h.tileInfo else none := by
  simp only [Hart.leave, if_neg other]
  split <;> rfl

variable {s : State} {p i : Nat}

theorem State.leaveTrap_of (e : s.hart? p i = some h) (returns : fldN h.trap.cause 13 12 ≠ 3) : s.leaveTrap p i = s.setHart p i h.leave := by
  simp only [State.leaveTrap, e, if_neg returns]
theorem State.leaveTrap_terminate (e : s.hart? p i = some h) (ret : fldN h.trap.cause 13 12 = 3) : s.leaveTrap p i = s.endGang h.die h.idx 2 := by
  simp only [State.leaveTrap, e, if_pos ret]

/-! A trap in handler state (R383). -/
@[simp] theorem State.gang_setHart (d n : Nat) (x : Hart) : (s.setHart p i x).gang d n = s.gang d n := rfl
@[simp] theorem State.gang_event (d n a b c : Nat) : (s.event a b c).gang d n = s.gang d n := rfl
@[simp] theorem State.hart?_event (a b c : Nat) : (s.event a b c).hart? p i = s.hart? p i := rfl
theorem State.length_events_event (a b c : Nat) : (s.event a b c).events.length = s.events.length + 1 := List.length_append

/-- A double trap stops its hart, keeping registers and record, ends the gang with status 0x02 unless a status stands, and makes one event record. -/
theorem State.enterTrap_handler (t : TrapReq) (e : s.hart? p i = some h) (handler : h.handler = true) :
    (∃ h', (s.enterTrap p i t).hart? p i = some h' ∧ h'.stopped = true ∧ h'.regs = h.regs ∧ h'.trap = h.trap)
    ∧ ((s.enterTrap p i t).gang h.die h.idx).endStatus = some ((s.gang h.die h.idx).endStatus.getD 2) ∧ (s.enterTrap p i t).events.length = s.events.length + 1 := by
  rw [s.enterTrap_double p i h t e handler]
  refine ⟨?_, ?_, ?_⟩
  · obtain ⟨b, there, stopped⟩ := State.hart?_endGang _ h.die h.idx 2 p i _ (s.hart?_setHart_same p i { h with stopped := true })
    exact ⟨_, there, stopped rfl, rfl, rfl⟩
  · rw [State.gang_event, State.gang_endGang, State.gang_setHart]
  · obtain ⟨-, -, -, -, events, -, -⟩ := State.endGang_frame (s.setHart p i { h with stopped := true }) h.die h.idx 2
    rw [State.length_events_event, events, State.setHart_events]

/-- HSTAT.FW reads 1 in handler state (R382). -/
theorem getLsbD_hstatWord_handler (c : Ctrl) : (hstatWord c true).getLsbD 6 = true := by
  have role : c.role.code < 4 := by cases c.role <;> decide
  rw [hstatWord, getLsbD_digit, BitVec.toNat_ofNat, decide_eq_true_iff, Bool.or_true]
  simp only [bit]
  split_ifs <;> omega
theorem State.crRead_hstat (s : State) (p : Nat) (h : Hart) : s.crRead p h (0 : BitVec 12).toNat = (hstatWord h.octrl h.handler).setWidth 80 := rfl
theorem exec_movs_hstat (e : s.cur = some h) (d : BitVec 5) : exec (.movs { d := d, s1 := 0, cr := 0 }) s = .next (s.wrG d.toNat (hstatWord h.octrl h.handler)) := by
  have low : (0 : BitVec 5).getLsbD 0 ≠ true := by decide
  have narrow : ((hstatWord h.octrl h.handler).setWidth 80).setWidth 64 = hstatWord h.octrl h.handler := BitVec.setWidth_setWidth_of_le _ (by decide)
  refine (onHart_of _ e).trans ?_
  dsimp only
  rw [if_neg low, State.crRead_hstat, narrow]

end Sys2Proof.Machine
end

section
/-! Trap entry, handler state and ERET (R376, R378, R382 to R384). -/
namespace Sys2Proof.Machine
open Sys2Proof

/-- Settles O58: a trap outside handler state is the hart's entry and one inside it a double trap; a return is the hart's leaving; and entry and return exchange the banks twice. -/
theorem trapEntryAndReturn : Obligations.TrapEntryAndReturn := by
  refine ⟨fun s p i h t e => ⟨fun program => ?entry, State.enterTrap_handler t e, ?memory, ?writes, fun program => ?others⟩, trcause_fields,
    fun s p i h e => ⟨fun ret => ?terminate, fun returns => ?back⟩, fun h v t => ?roundTrip, fun _ _ _ _ _ _ => ⟨rfl, rfl, rfl⟩,
    fun s h e handler => ?privilege, fun s p h handler => ⟨Hart.curCtx_of_handler handler, rfl⟩⟩
  case entry =>
    rw [s.enterTrap_of p i h t e program]
    exact ⟨_, s.hart?_setHart_same p i _, rfl, Hart.priv_of_handler rfl, Hart.curCtx_of_handler rfl, rfl, rfl, rfl, rfl, rfl, rfl, rfl, rfl, rfl, rfl, h.pc_enter _ t,
      h.readG_swapBank_common, fun n lo hi => ⟨h.readG_swapBank_banked n lo hi, h.bankG_swapBank n lo hi⟩,
      h.readA_swapBank_common, fun n banked => ⟨h.readA_swapBank_banked n banked, h.bankA_swapBank n banked⟩,
      h.readK_swapBank, rfl, rfl, rfl, rfl, rfl⟩
  case memory => exact (s.enterTrap_frame p i t).1
  case writes => exact (s.enterTrap_frame p i t).2.1
  case others =>
    rw [s.enterTrap_of p i h t e program]
    exact fun q j => s.hart?_setHart_ne p i q j _
  case terminate => rw [State.leaveTrap_terminate e ret, State.gang_endGang]
  case back =>
    rw [State.leaveTrap_of e returns]
    obtain ⟨-, program, held, fresh, trap, -⟩ := h.leave_frame
    exact ⟨_, s.hart?_setHart_same p i _, program, held, fresh, trap, Hart.leave_stalled, Hart.leave_retry, Hart.leave_reissue, Hart.leave_continue, Hart.leave_tileNow,
      rfl, rfl, fun q j => s.hart?_setHart_ne p i q j _⟩
  case roundTrip =>
    dsimp only
    obtain ⟨regs, program, held, -, -, -⟩ := (h.enter v t).leave_frame
    obtain ⟨bankG, bankA, ctx⟩ := (h.enter v t).leave_banks
    rw [Hart.curCtx_of_program program, regs, held, bankG, bankA, ctx, Hart.regs_swapBank_enter, Hart.bankG_swapBank_enter, Hart.bankA_swapBank_enter]
    exact ⟨h.readG_swapBank_swapBank, h.readA_swapBank_swapBank, fun n => by rw [Hart.readK_swapBank, Hart.readK_swapBank], rfl, program, rfl, h.bankG_swapBank_swapBank, h.bankA_swapBank_swapBank⟩
  case privilege =>
    have read := exec_movs_hstat e
    rw [handler] at read
    exact ⟨_, getLsbD_hstatWord_handler h.octrl, read⟩

end Sys2Proof.Machine
end
section
/-! The round trip of R61 to R73: what the decoder makes of the word of a well-formed slot. -/
namespace Sys2Proof
open Laws

/-- The opcode map gives every well-formed slot instruction back from its word; an event has no class. -/
theorem decodeOp_encode (i : Instr) : Codec.Statement i :=
  match i with
  | .add f => Codec.add f | .sub f => Codec.sub f | .mul f => Codec.mul f | .mulh f => Codec.mulh f | .mulhu f => Codec.mulhu f
  | .div f => Codec.div f | .divu f => Codec.divu f | .rem f => Codec.rem f | .remu f => Codec.remu f | .and f => Codec.and f
  | .or f => Codec.or f | .xor f => Codec.xor f | .shl f => Codec.shl f | .shr f => Codec.shr f | .sra f => Codec.sra f
  | .addi f => Codec.addi f | .andi f => Codec.andi f | .ori f => Codec.ori f | .xori f => Codec.xori f
  | .shli f => Codec.shli f | .shri f => Codec.shri f | .srai f => Codec.srai f | .lui f => Codec.lui f | .seq f => Codec.seq f
  | .sne f => Codec.sne f | .slt f => Codec.slt f | .sltu f => Codec.sltu f | .sle f => Codec.sle f | .sleu f => Codec.sleu f
  | .min f => Codec.min f | .max f => Codec.max f | .aadd f => Codec.aadd f | .aaddi f => Codec.aaddi f
  | .asub f => Codec.asub f | .amovg f => Codec.amovg f | .amova f => Codec.amova f | .ahi f => Codec.ahi f
  | .ahig f => Codec.ahig f | .fadd f => Codec.fadd f | .fsub f => Codec.fsub f | .fmul f => Codec.fmul f
  | .ffma f => Codec.ffma f | .fdiv f => Codec.fdiv f | .fsqrt f => Codec.fsqrt f | .fmin f => Codec.fmin f
  | .fmax f => Codec.fmax f | .fcmpeq f => Codec.fcmpeq f | .fcmplt f => Codec.fcmplt f | .fcmple f => Codec.fcmple f
  | .fcvtI f => Codec.fcvtI f | .fcvtF f => Codec.fcvtF f | .fclass f => Codec.fclass f | .beq f => Codec.beq f
  | .bne f => Codec.bne f | .blt f => Codec.blt f | .bltu f => Codec.bltu f | .bge f => Codec.bge f | .bgeu f => Codec.bgeu f
  | .bz f => Codec.bz f | .bnz f => Codec.bnz f | .jmp f => Codec.jmp f | .jal f => Codec.jal f | .jr f => Codec.jr f
  | .ret f => Codec.ret f | .movs f => Codec.movs f | .movd f => Codec.movd f | .setvl f => Codec.setvl f
  | .setmvl f => Codec.setmvl f | .semts f => Codec.semts f | .semtsTry f => Codec.semtsTry f | .semclr f => Codec.semclr f
  | .cmrd f => Codec.cmrd f | .cmwr f => Codec.cmwr f | .barwait f => Codec.barwait f | .barwaitSet f => Codec.barwaitSet f
  | .launch f => Codec.launch f | .signal f => Codec.signal f | .cancel f => Codec.cancel f | .nwait f => Codec.nwait f
  | .npost f => Codec.npost f | .yield f => Codec.yield f | .yieldGang f => Codec.yieldGang f | .gexit f => Codec.gexit f
  | .pbcrd f => Codec.pbcrd f | .trap f => Codec.trap f | .eret f => Codec.eret f | .stest f => Codec.stest f
  | .nop f => Codec.nop f | .frqpop f => Codec.frqpop f | .ldB f => Codec.ldB f | .ldH f => Codec.ldH f | .ldW f => Codec.ldW f
  | .ldD f => Codec.ldD f | .lduB f => Codec.lduB f | .lduH f => Codec.lduH f | .lduW f => Codec.lduW f | .stB f => Codec.stB f
  | .stH f => Codec.stH f | .stW f => Codec.stW f | .stD f => Codec.stD f | .lda f => Codec.lda f | .sta f => Codec.sta f
  | .vld f => Codec.vld f | .vlds f => Codec.vlds f | .vldseg f => Codec.vldseg f | .vldx f => Codec.vldx f
  | .vldc f => Codec.vldc f | .vpf f => Codec.vpf f | .vst f => Codec.vst f | .vsts f => Codec.vsts f
  | .vstseg f => Codec.vstseg f | .vstx f => Codec.vstx f | .drv f => Codec.drv f | .amoadd f => Codec.amoadd f
  | .amomin f => Codec.amomin f | .amomax f => Codec.amomax f | .amoand f => Codec.amoand f | .amoor f => Codec.amoor f
  | .amoxor f => Codec.amoxor f | .amoswp f => Codec.amoswp f | .amocas f => Codec.amocas f | .vamoadd f => Codec.vamoadd f
  | .vamomin f => Codec.vamomin f | .vamomax f => Codec.vamomax f | .vamoswp f => Codec.vamoswp f | .gll f => Codec.gll f
  | .scc f => Codec.scc f | .fence f => Codec.fence f | .bararr f => Codec.bararr f | .cpy f => Codec.cpy f
  | .cpyx f => Codec.cpyx f | .cpym f => Codec.cpym f | .cpyb f => Codec.cpyb f | .cpst f => Codec.cpst f
  | .cpstWait f => Codec.cpstWait f | .catq f => Codec.catq f | .catu f => Codec.catu f | .folmap f => Codec.folmap f
  | .folmapU f => Codec.folmapU f | .folref f => Codec.folref f | .foldrop f => Codec.foldrop f | .vadd f => Codec.vadd f
  | .vsub f => Codec.vsub f | .vmul f => Codec.vmul f | .vfma f => Codec.vfma f | .vfms f => Codec.vfms f
  | .vfnma f => Codec.vfnma f | .vmin f => Codec.vmin f | .vmax f => Codec.vmax f | .vabs f => Codec.vabs f
  | .vneg f => Codec.vneg f | .vand f => Codec.vand f | .vor f => Codec.vor f | .vxor f => Codec.vxor f
  | .vshl f => Codec.vshl f | .vshr f => Codec.vshr f | .vsra f => Codec.vsra f | .vrcpe f => Codec.vrcpe f
  | .vrsqe f => Codec.vrsqe f | .vgetexp f => Codec.vgetexp f | .vscaleb f => Codec.vscaleb f | .vrint f => Codec.vrint f
  | .vcmpeq f => Codec.vcmpeq f | .vcmpne f => Codec.vcmpne f | .vcmplt f => Codec.vcmplt f | .vcmple f => Codec.vcmple f
  | .vcmpltu f => Codec.vcmpltu f | .vcmpleu f => Codec.vcmpleu f | .kand f => Codec.kand f | .kor f => Codec.kor f
  | .kxor f => Codec.kxor f | .knot f => Codec.knot f | .kmov f => Codec.kmov f | .kpop f => Codec.kpop f
  | .kpois f => Codec.kpois f | .kfirst f => Codec.kfirst f | .vsel f => Codec.vsel f | .vbcast f => Codec.vbcast f
  | .vmov f => Codec.vmov f | .vzero f => Codec.vzero f | .vperm f => Codec.vperm f | .vrot f => Codec.vrot f
  | .gxpose f => Codec.gxpose f | .vtag f => Codec.vtag f | .vcompress f => Codec.vcompress f | .vexpand f => Codec.vexpand f
  | .vrsum f => Codec.vrsum f | .vrmax f => Codec.vrmax f | .vrmin f => Codec.vrmin f | .vramax f => Codec.vramax f
  | .vrbx f => Codec.vrbx f | .vrexp f => Codec.vrexp f | .cvtN f => Codec.cvtN f | .cvtW f => Codec.cvtW f
  | .cvtF4 f => Codec.cvtF4 f | .cvtI f => Codec.cvtI f | .cvtF f => Codec.cvtF f | .vquant f => Codec.vquant f
  | .setsc f => Codec.setsc f | .bxadd f => Codec.bxadd f | .bxacc f => Codec.bxacc f | .bxanch f => Codec.bxanch f
  | .bxanchI f => Codec.bxanchI f | .bxcvt f => Codec.bxcvt f | .mop f => Codec.mop f | .mopS f => Codec.mopS f
  | .mopZ f => Codec.mopZ f | .mopZs f => Codec.mopZs f | .ckclr f => Codec.ckclr f | .ckchk f => Codec.ckchk f
  | .ckloc f => Codec.ckloc f | .ckfix f => Codec.ckfix f | .ckrdRow f => Codec.ckrdRow f | .ckrdCol f => Codec.ckrdCol f
  | .ckrdSt f => Codec.ckrdSt f | .ckinj f => Codec.ckinj f | .ckinjP f => Codec.ckinjP f | .capb f => Codec.capb f
  | .cape f => Codec.cape f | .capr f => Codec.capr f | .capx f => Codec.capx f | .capxSaved f => Codec.capxSaved f
  | .capxFirst f => Codec.capxFirst f | .packetIssue => Codec.packetIssue | .packetRetire => Codec.packetRetire
  | .vWriteback => Codec.vWriteback | .updateWriteback => Codec.updateWriteback | .vectorAccessComplete => Codec.vectorAccessComplete
  | .scalarAccessComplete => Codec.scalarAccessComplete | .translationWalk => Codec.translationWalk
  | .writeHomeMoment => Codec.writeHomeMoment | .writeDomainMoment => Codec.writeDomainMoment
  | .writeSystemMoment => Codec.writeSystemMoment | .copyCommandStart => Codec.copyCommandStart
  | .copyChunkVisible => Codec.copyChunkVisible | .barrierCredit => Codec.barrierCredit
  | .copyCommandComplete => Codec.copyCommandComplete | .catalogueCommandComplete => Codec.catalogueCommandComplete
  | .xltInv => Codec.xltInv | .invalidationDone => Codec.invalidationDone | .memIlvWrite => Codec.memIlvWrite
  | .dieBootGo => Codec.dieBootGo | .xltCtxbaseWrite => Codec.xltCtxbaseWrite | .schedCtlWrite => Codec.schedCtlWrite
  | .saveStallClear => Codec.saveStallClear | .lmapWrite => Codec.lmapWrite | .latWrite => Codec.latWrite
  | .pgseedWrite => Codec.pgseedWrite | .protectedModeEnable => Codec.protectedModeEnable | .registerWrite => Codec.registerWrite
  | .gangPlace => Codec.gangPlace | .gangResume => Codec.gangResume | .reclaimMark => Codec.reclaimMark
  | .reclaimTimeout => Codec.reclaimTimeout | .saveUnit => Codec.saveUnit | .groupRelease => Codec.groupRelease
  | .groupPowerGate => Codec.groupPowerGate | .gangEnd => Codec.gangEnd | .notifyEvaluate => Codec.notifyEvaluate
  | .notifyPoll => Codec.notifyPoll | .yieldWake => Codec.yieldWake | .stestDone => Codec.stestDone
  | .stestAbort => Codec.stestAbort | .laneShadowRotate => Codec.laneShadowRotate | .retrainDone => Codec.retrainDone
  | .flitCrcError => Codec.flitCrcError | .linkDown => Codec.linkDown | .roundStart => Codec.roundStart
  | .heartbeatReceive => Codec.heartbeatReceive | .roundEnd => Codec.roundEnd | .orphanCompletion => Codec.orphanCompletion
  | .fencedSelftestDone => Codec.fencedSelftestDone | .rdmaWrite => Codec.rdmaWrite | .rdmaRead => Codec.rdmaRead
  | .atomicCompareAndSwap => Codec.atomicCompareAndSwap | .atomicFetchAndAdd => Codec.atomicFetchAndAdd
  | .invalidRequest => Codec.invalidRequest | .priorityFlowControl => Codec.priorityFlowControl
  | .congestionNotification => Codec.congestionNotification | .ptpMessage => Codec.ptpMessage | .getVersion => Codec.getVersion
  | .getCapabilities => Codec.getCapabilities | .negotiateAlgorithms => Codec.negotiateAlgorithms | .getDigests => Codec.getDigests
  | .getCertificate => Codec.getCertificate | .challenge => Codec.challenge | .getMeasurements => Codec.getMeasurements
  | .pldmPlatformMonitoring => Codec.pldmPlatformMonitoring | .pldmFirmwareUpdate => Codec.pldmFirmwareUpdate
  | .endpointIdentifierAssign => Codec.endpointIdentifierAssign | .eepromRead => Codec.eepromRead | .eepromWrite => Codec.eepromWrite
  | .reset => Codec.reset | .evacGo => Codec.evacGo | .evacAbort => Codec.evacAbort | .evacSaveDone => Codec.evacSaveDone
  | .evacOffer => Codec.evacOffer | .evacOfferAnswer => Codec.evacOfferAnswer | .evacOfferTimeout => Codec.evacOfferTimeout
  | .evacCopyDone => Codec.evacCopyDone | .evacDrainDone => Codec.evacDrainDone | .evacTimeout => Codec.evacTimeout
  | .evacArm => Codec.evacArm | .evacDisarm => Codec.evacDisarm | .evacAdopt => Codec.evacAdopt | .evacClaim => Codec.evacClaim
  | .evacClaimAnswer => Codec.evacClaimAnswer | .evacClaimTimeout => Codec.evacClaimTimeout | .thermalThrottle => Codec.thermalThrottle
  | .pepperGeneratorStep => Codec.pepperGeneratorStep | .evacFreezeDone => Codec.evacFreezeDone
  | .firmwareRetrain => Codec.firmwareRetrain | .bladePull => Codec.bladePull | .queuePairConnect => Codec.queuePairConnect
  | .managementControllerAccess => Codec.managementControllerAccess

/-- A word is decoded once its opcode map names an instruction that has that word and passes the checks of orders 4 and 5 (R76). -/
theorem decodeSlot_of {c : Cls} {i : Instr} (map : decodeOp c (fldN (encode i) 63 56) (encode i) = some i) (wf : i.wf = true) : decodeSlot c (encode i) = .ok i := by
  obtain ⟨unused, values⟩ := Bool.and_eq_true_iff.mp wf
  rw [decodeSlot, map]
  simp [unused, values]

/-- Settles O55: the map gives the instruction back, and what is well formed passes the checks. -/
theorem slotEncodingRoundTrip : Obligations.SlotEncodingRoundTrip :=
  fun i c cls wf => decodeSlot_of (decodeOp_encode i wf c cls) wf

end Sys2Proof
end

section
/-! SUPPORT. Elementwise slots that work sub-element by sub-element (R227, R255), from what they do to one sub-element. -/
namespace Sys2Proof.Machine
open Sys2Proof

/-- One destination cell of a slot that works sub-element by sub-element: `g` gives a sub-element from the context, its grid index, and the sub-elements of the sources and of the
destination; the poison is the OR of theirs (R227). -/
def laneCell (f : VV) (t : Tag) (useB useD : Bool) (g : VCtx → Nat → Nat → Nat → Nat → Nat) (x : VCtx) (off b j : Nat) : Cell × Bool :=
  let sub (c : Cell) (i : Nat) : Nat := (subs t c).getD i 0
  let a := x.src (vw f.vs1) t b off j
  let y := if useB then x.src (vw f.vs2) t b off j else (0, false)
  let d := if useD then x.src (vw f.vd) t b off j else (0, false)
  (join t ((List.range t.n).map (fun n => g x (x.pep (vw f.vd) t b j n) (sub a.1 n) (sub y.1 n) (sub d.1 n))), a.2 || y.2 || d.2)

/-- An elementwise slot over `lanes` writes those cells. -/
theorem lanes_elementwise {s : State} {h : Hart} {f : VV} {t : Tag} {acc : Tag → Bool} {useB useD : Bool} {g : VCtx → Tag → Nat → Nat → Nat → Nat → Nat}
    {g' : VCtx → Nat → Nat → Nat → Nat → Nat} {i : Instr} (e : s.cur = some h) (hi : exec i s = vElem f s acc true useB useD false (fun x => lanes useB useD (g x)))
    (hg : ∀ x p a b d, x.h = h → g x t p a b d = g' x p a b d) :
    s.elementwise h f t acc (if useB then [vw f.vs1, vw f.vs2] else [vw f.vs1]) useD false (laneCell f t useB useD g') i := by
  have cells := vElem_elementwise (t := t) (c := laneCell f t useB useD g') e hi (fun x off b j hx _ => by
    simp only [lanes, laneCell, hg x _ _ _ _ hx]
    cases useB <;> cases useD <;> simp)
  cases useB <;> exact cells

end Sys2Proof.Machine
end

section
/-! Elementwise vector arithmetic (R255 to R258, R260). -/
namespace Sys2Proof.Machine
open Sys2Proof

/-- Settles O24: each slot is an elementwise one over `lanes`, whose operation on a sub-element is the one that the rules give. -/
theorem vectorArithmetic : Obligations.VectorArithmetic := by
  intro s h f t e
  have arith (useB useD : Bool) (gf : Val → Val → Val → Val) (gi : Int → Int → Int → Int) (i : Instr) (hi : exec i s = vArith f s useB useD gf gi) :=
    lanes_elementwise (t := t) e hi (fun _ _ _ _ _ _ => rfl)
  have exact_ (useB : Bool) (gf : Fmt → Nat → Nat → Nat) (gi : Tag → Int → Int → Int) (i : Instr) (hi : exec i s = vExact f s useB gf gi) :=
    lanes_elementwise (t := t) (g' := fun _ _ a b _ => if t.fmt.isInt then narrowInt t.fmt (Sat f) (gi t (si t a) (si t b))
      else gf t.fmt (ftzBits t.fmt h.octrl.ftz a) (ftzBits t.fmt h.octrl.ftz b)) e hi (fun x _ _ _ _ hx => by rw [hx])
  exact ⟨arith true false (fun a b _ => Val.sum [a, b]) (fun a b _ => a + b) (.vadd f) rfl, arith true false (fun a b _ => Val.sum [a, b.neg]) (fun a b _ => a - b) (.vsub f) rfl,
    arith true false (fun a b _ => a.mul b) (fun a b _ => a * b) (.vmul f) rfl, arith true true (fun a b d => Val.sum [a.mul b, d]) (fun a b d => a * b + d) (.vfma f) rfl,
    arith true true (fun a b d => Val.sum [a.mul b, d.neg]) (fun a b d => a * b - d) (.vfms f) rfl,
    arith true true (fun a b d => Val.sum [d, (a.mul b).neg]) (fun a b d => d - a * b) (.vfnma f) rfl,
    exact_ true minBits (fun _ a b => min a b) (.vmin f) rfl, exact_ true maxBits (fun _ a b => max a b) (.vmax f) rfl,
    exact_ false (fun m a _ => absBits m a) (fun _ a _ => a.natAbs) (.vabs f) rfl, exact_ false (fun m a _ => negBits m a) (fun _ a _ => -a) (.vneg f) rfl⟩

end Sys2Proof.Machine
end

section
/-! Vector selects, moves and permutes (R266, R267). -/
namespace Sys2Proof.Machine
open Sys2Proof

/-- The cells that a slot writes which moves the cells of its first source about by `go'`, from the active cells, the length and its sources' cells at a distance from the primary columns. -/
def movedCells (f : VV) (t : Tag) (useB : Bool) (go' : List Nat → Nat → (Nat → Cell × Bool) → (Nat → Cell × Bool) → List (Nat × Cell × Bool)) (x : VCtx) (off : Nat) :
    List (Nat × Nat × Cell × Bool) :=
  (go' (active x f.k) x.len (x.src (vw f.vs1) t 0 off) (if useB then x.src (vw f.vs2) .i32 0 off else fun _ => (0, false))).map
    (fun q => ((vAt (vw f.vd) 0 q.1).1, (vAt (vw f.vd) 0 q.1).2, q.2))

/-- A slot over `vMove` that nothing holds writes those cells, where primary and mirror columns give the same ones. -/
theorem vMove_movedCells {s : State} {h : Hart} {f : VV} {t : Tag} {acc : Tag → Bool} {lat hold : Nat} {useB : Bool} {limit : Tag → Nat → Bool}
    {go : VCtx → Tag → (Nat → Cell × Bool) → (Nat → Cell × Bool) → List (Nat × Cell × Bool)} {o : Out}
    (go' : List Nat → Nat → (Nat → Cell × Bool) → (Nat → Cell × Bool) → List (Nat × Cell × Bool)) (e : s.cur = some h)
    (hi : o = vMove f s acc lat hold useB limit go) (hgo : ∀ x a b, go x t a b = go' (active x f.k) x.len a b) :
    let srcs := vw f.vs1 :: (if useB then [vw f.vs2] else [])
    let x := s.vIn h srcs
    let near := x.groupsAt ((vw f.vd :: srcs).flatMap (fun v => vCols v x.len))
    s.vFree h srcs (some (vw f.vd)) (srcs.flatMap (fun v => vRows v x.len 1)) (vRows (vw f.vd) x.len 1) near → x.probe (srcs ++ [vw f.vd]) 1 = none →
    (useB = true → ∀ o, x.srcTag (vw f.vs2) 1 = some o → o = some .i32) → tagEq acc [x.srcTag (vw f.vs1) 1] (x.dstTag (vw f.vd) 1) = .ok t → limit t x.len = true →
    (x.mir ≠ 0 → movedCells f t useB go' x x.mir = movedCells f t useB go' x 0) → (x.len = 0 → movedCells f t useB go' x 0 = []) →
    o = .next (s.vWrites x t srcs (vw f.vd) lat hold (vRows (vw f.vd) x.len 1) near (movedCells f t useB go' x 0)) := by
  intro srcs x near free checked index tags fits mirror empty
  rw [hi]
  refine vMove_writes e rfl rfl rfl (fun off at_ => ?_) free checked index tags fits empty
  rw [hgo]
  rcases at_ with rfl | ⟨rfl, protected_⟩
  · rfl
  · exact mirror protected_

/-- Settles O26: VSEL, VMOV and VZERO are elementwise, and the others move the cells of one source about. -/
theorem vectorMoves : Obligations.VectorMoves := by
  intro s h f t e
  refine ⟨vElem_elementwise (useA := true) (useB := true) (useD := false) (cell := fun _ v => if v.k then (v.a, v.pa) else (v.b, v.pb)) e rfl (fun x off b j _ _ => ?select),
    vElem_elementwise (useA := true) (useB := false) (useD := false) (cell := fun _ v => (v.a, v.pa)) e rfl (fun x off b j _ _ => rfl),
    vElem_elementwise (useA := false) (useB := false) (useD := false) (cell := fun _ _ => (0, false)) e rfl (fun x off b j _ _ => rfl), ?_, ?_, ?_, ?_, ?_⟩
  case select => cases (h.ok f.k.toNat).getLsbD j <;> rfl
  · have form : execVbcast f s = vMove f s _ _ _ false _ _ := rfl
    have moved := vMove_movedCells (t := t) (fun act _ a _ => act.map (fun j =>
      (j, join t (List.replicate t.n ((subs t (a (f.imm.toNat / t.n)).1).getD (f.imm.toNat % t.n) 0)), (a (f.imm.toNat / t.n)).2))) e form (fun _ _ _ => rfl)
    exact fun free checked index tags fits => moved free checked index tags (decide_eq_true (fits rfl))
  · have form : execVperm f s = vMove f s _ _ _ true _ _ := rfl
    have moved := vMove_movedCells (t := t)
      (fun act len a b => act.map (fun j => if 0 ≤ (b j).1.toInt ∧ (b j).1.toInt < len then (j, a (b j).1.toInt.toNat) else (j, 0, false))) e form (fun _ _ _ => rfl)
    exact fun free checked index tags _ => moved free checked index tags rfl
  · have form : execVrot f s = vMove f s _ _ _ false _ _ := rfl
    have moved := vMove_movedCells (t := t) (fun act len a _ => act.map (fun j => (j, a ((j + f.imm.toNat) % len)))) e form (fun _ _ _ => rfl)
    exact fun free checked index tags _ => moved free checked index tags rfl
  · have form : execVcompress f s = vMove f s _ _ _ false _ _ := rfl
    have moved := vMove_movedCells (t := t)
      (fun act len a _ => (List.range len).map (fun j => match act[j]? with | some i => (j, a i) | none => (j, 0, false))) e form (fun _ _ _ => rfl)
    exact fun free checked index tags _ => moved free checked index tags rfl
  · have form : execVexpand f s = vMove f s _ _ _ false _ _ := rfl
    have moved := vMove_movedCells (t := t) (fun act _ a _ => act.zipIdx.map (fun q => (q.1, a q.2))) e form (fun _ _ _ => rfl)
    exact fun free checked index tags _ => moved free checked index tags rfl

end Sys2Proof.Machine
end

section
/-! Vector conversions (R273 to R276). -/
namespace Sys2Proof.Machine
open Sys2Proof

@[simp] theorem VCtx.mirrored_nil {α : Type} (x : VCtx) : x.mirrored ([] : List (Nat × Nat × α)) = [] := by simp [VCtx.mirrored]

/-- A V slot with no drain queue that nothing holds and no check stops takes what it computes, where it finds no fault and primary and mirror columns give the same. -/
theorem vDrive_rest {sp : VSpec} {s : State} {h : Hart} {t : Tag} {x : VCtx} {r : VOut} (hx : x = s.vIn h sp.srcs) (nodq : ∀ n, sp.dst ≠ some (.dq n))
    (free : s.vFree h sp.srcs sp.dst (sp.reads x.len) (sp.writes x.len) (sp.groups x)) (inside : sp.beyond x = false) (checked : x.probe (sp.srcs ++ sp.dst.toList) sp.blk = none)
    (tags : sp.check x = .ok t) (primary : sp.body x t 0 = r) (mirror : x.mir ≠ 0 → x.len ≠ 0 → sp.body x t x.mir = r) (clean : r.err = none) (empty : x.len = 0 → r = { masks := r.masks }) :
    vDrive sp s h = s.vTaken sp.srcs sp.lat sp.hold (sp.rowsAt x.len) (sp.groups x)
      ((r.masks.filter (fun q => q.1 != 0)).map (fun q => Dep.k q.1) ++ (if r.vsc.isEmpty then [] else [Dep.vsc]))
      { gs := x.gs, puts := x.mirrored r.puts, keep := x.mirrored r.keep, tags := r.tags, masks := r.masks, vsc := r.vsc } := by
  subst hx
  rw [vDrive_of_free free inside checked tags, ← vTake_rest _ primary mirror clean empty]
  congr 1
  split
  · exact absurd ‹_› (nodq _)
  · rfl

/-- A slot that sets a tag touches every group of the gang (R221). -/
theorem VSpec.groups_of_band {sp : VSpec} {x : VCtx} (band : sp.band = true) (some_ : x.len ≠ 0) : sp.groups x = x.gs := by simp [VSpec.groups, band, some_]

/-- The cells that a conversion writes: sub-elements of the target, each rounded or widened from the bits that `pick` names, with the OR of their poison. -/
def convertedCells (x : VCtx) (f : VV) (t target : Tag) (rows : List Nat) (pick : VCtx → Nat → Nat → Nat → Nat → Nat × Bool) (off : Nat) : List (Nat × Nat × Cell × Bool) :=
  rows.flatMap (fun r => (List.range x.len).map (fun c =>
    let l := (List.range target.n).map (fun n => (n, pick x off r c n))
    (r, c, join target (l.map (fun q => convert (t.fmt.decode q.2.1) target.fmt (Rm f) (Sat f) (x.pep (.row r) target 0 c q.1))), l.any (fun q => q.2.2))))

/-- A conversion that nothing holds writes those cells and the tags of its rows' bands. -/
theorem vConvert_convertedCells {s : State} {h : Hart} {f : VV} {t : Tag} {srcs : List View} {blk : Nat} {rows : List Nat} {target : Tag} {lat hold : Nat} {ok : Tag → Bool}
    {cell : VCtx → Tag → Nat → Nat → Nat → Cell × Bool} {o : Out} (pick : VCtx → Nat → Nat → Nat → Nat → Nat × Bool) (e : s.cur = some h)
    (form : o = vConvert s srcs blk rows target lat hold ok id cell) (cells : ∀ x off r c, cell x t off r c = convCell x f t target r c (pick x off r c)) :
    let all := srcs ++ rows.map View.row
    let x := s.vIn h all
    let band := (rows.flatMap bandRows).eraseDups
    x.len ≠ 0 → s.vFree h all none (srcs.flatMap (fun v => vRows v x.len blk)) band x.gs → x.probe all 1 = none → tagEq ok (srcs.map (fun v => x.srcTag v blk)) none = .ok t →
    (x.mir ≠ 0 → convertedCells x f t target rows pick x.mir = convertedCells x f t target rows pick 0) →
    o = .next (s.vTaken all lat hold band x.gs [] { gs := x.gs, puts := x.mirrored (convertedCells x f t target rows pick 0), tags := rows.map (fun r => (r, target)) }) := by
  intro all x band some_ free checked tags mirror
  have computed (off : Nat) : rows.flatMap (fun r => (List.range x.len).map (fun c => let o := cell x t off r c; (r, c, o.1, o.2))) = convertedCells x f t target rows pick off := by
    simp only [cells]; rfl
  rw [form, vConvert, onHart_of _ e, vDrive_rest (x := x) (t := t) (r := { puts := convertedCells x f t target rows pick 0, tags := rows.map (fun r => (r, target)) }) rfl
    (by simp) ?free rfl ?checked tags ?primary ?mirror rfl (fun no => absurd no some_)]
  case free => rwa [VSpec.groups_of_band rfl some_]
  case checked => simpa using checked
  case primary => exact congrArg (fun l => ({ puts := l, tags := _ } : VOut)) (computed 0)
  case mirror => exact fun protected_ _ => congrArg (fun l => ({ puts := l, tags := _ } : VOut)) ((computed x.mir).trans (mirror protected_))
  rw [VSpec.groups_of_band rfl some_]
  simp only [VSpec.rowsAt, rowsOf, if_neg some_, VCtx.mirrored_nil]
  rfl

/-- Settles O29: each conversion is `vConvert` over the elements that feed a sub-element. -/
theorem vectorConversions : Obligations.VectorConversions := by
  intro s h f t e
  have narrow : execCvtN f s = vConvert s _ _ _ _ _ _ _ _ _ := rfl
  have widen : execCvtW f s = vConvert s _ _ _ _ _ _ _ _ _ := rfl
  have tiny : execCvtF4 f s = vConvert s _ _ _ _ _ _ _ _ _ := rfl
  have toInt : execCvtI f s = vConvert s _ _ _ _ _ _ _ _ _ := rfl
  have toFloat : execCvtF f s = vConvert s _ _ _ _ _ _ _ _ _ := rfl
  exact ⟨vConvert_convertedCells (fun x off _ c i =>
        let e := c * (tagOfFmt (fxOf f)).n + i
        if e < x.len * t.n then x.elem (vw f.vs1) t off e else x.elem (vw f.vs2) t off (e - x.len * t.n)) e narrow (fun _ _ _ _ => rfl),
    vConvert_convertedCells (fun x off r c i => x.elem (vw f.vs1) t off ((if r = rowOf f.vd then 0 else x.len * (tagOfFmt (fxOf f)).n) + c * (tagOfFmt (fxOf f)).n + i))
      e widen (fun _ _ _ _ => rfl),
    vConvert_convertedCells (fun x off _ c i =>
        let y := x.src (vw f.vs1) t ((c * 8 + i) / x.len) off ((c * 8 + i) % x.len)
        (y.1.toNat, y.2)) e tiny (fun _ _ _ _ => rfl),
    vConvert_convertedCells (fun x off _ c _ => x.elem (vw f.vs1) t off c) e toInt (fun _ _ _ _ => rfl),
    vConvert_convertedCells (fun x off _ c _ => x.elem (vw f.vs1) t off c) e toFloat (fun _ _ _ _ => rfl)⟩

end Sys2Proof.Machine
end

section
/-! VQUANT and the scale slots (R278, R279). -/
namespace Sys2Proof.Machine
open Sys2Proof

/-- A block of MX quantisation: its scale, its elements, and whether a source cell of it is poisoned. -/
abbrev QBlock := Nat × List Nat × Bool

/-- What VQUANT writes from the blocks that it quantised. -/
def quantised (f : VV) (x : VCtx) (blocks : List QBlock) : VOut :=
  let r := rowOf f.vd
  let target := tagOfFmt (fxOf f)
  let n := target.n
  { puts := (List.range ((x.len + n - 1) / n)).map (fun c =>
      (r, c, join target ((List.range n).map (fun i => (blocks.flatMap (fun q => q.2.1)).getD (c * n + i) 0)), (blocks.getD (c * n / 32) (0, [], false)).2.2))
    tags := [(r, target)], vsc := blocks.zipIdx.map (fun q => (vscBase f.vs2 + f.imm.toNat + q.2, BitVec.ofNat 8 q.1.1)) }

/-- Settles O30: both slots write what they compute; SETSC sub-elements into vsc, VQUANT the blocks that it quantised. -/
theorem quantiseAndScales : Obligations.QuantiseAndScales := by
  intro s h f e va st x
  refine ⟨?setsc, ?vquant⟩
  case setsc =>
    intro t free checked tags fits out mirror
    have empty : x.len = 0 → out 0 = [] := fun no => by simp [out, no]
    refine (onHart_of _ e).trans ?_
    rw [vDrive_rest (x := x) (t := t) (r := { vsc := out 0 }) rfl ?nodq ?free rfl ?checked ?tags rfl ?mirror rfl (fun no => by rw [empty no])]
    case nodq => simp
    case free => exact free
    case checked => exact checked
    case mirror => exact fun protected_ _ => congrArg (fun l => ({ vsc := l } : VOut)) (mirror protected_)
    case tags =>
      dsimp only
      rw [tags]
      exact if_neg (by omega)
    simp only [VSpec.rowsAt, rowsOf, ite_self, VCtx.mirrored_nil]
    rfl
  case vquant =>
    intro t r m target n hf some_ free checked tags fits block blocks puts mirror
    subst hf
    refine (onHart_of _ e).trans ?_
    rw [vDrive_rest (x := x) (t := .f32) (r := quantised f x (blocks 0)) rfl ?nodq ?free rfl ?checked ?tags rfl ?mirror rfl (fun no => absurd no some_)]
    case nodq => simp
    case checked => exact checked
    case mirror => exact fun protected_ _ => congrArg (quantised f x) (mirror protected_)
    case free => rwa [VSpec.groups_of_band rfl some_]
    case tags =>
      dsimp only
      rw [tags]
      exact if_neg (by omega)
    have scales : ((blocks 0).zipIdx.map (fun q => (vscBase f.vs2 + f.imm.toNat + q.2, BitVec.ofNat 8 q.1.1))).isEmpty = false := by
      have count : 1 ≤ x.len := by omega
      simpa [blocks, List.isEmpty_iff] using count
    rw [VSpec.groups_of_band rfl some_]
    simp only [VSpec.rowsAt, rowsOf, if_neg some_, quantised, VCtx.mirrored_nil, scales]
    rfl

end Sys2Proof.Machine
end

section
/-! The Carrel (R245 to R248). -/
namespace Sys2Proof.Machine
open Sys2Proof

/-- The state once an M slot of one cycle holds the engine (R237). -/
def State.heldM (s : State) : State := s.modCore s.issue.core (fun c => { c with mUntil := s.cycle + 1 })

/-- An M slot of one cycle goes on once the engine is free. -/
theorem mOne_of {s : State} {h : Hart} (go : Hart → State → State) (e : s.cur = some h) (free : (s.core s.issue.core).mUntil ≤ s.cycle) : mOne s go = .next (go h s.heldM) := by
  rw [mOne, onHart_of _ e, if_neg (Nat.not_lt.2 free)]
  rfl

theorem execCapb_of {s : State} {h : Hart} (f : MC) (e : s.cur = some h) (free : (s.core s.issue.core).mUntil ≤ s.cycle) :
    execCapb f s = .next (if h.carrel.st = .recording ∨ h.carrel.st = .replaying then s.heldM.carrelFault 5
      else (s.heldM.modCarrel (fun _ => { st := .recording, idx := f.d.toNat })).wrG f.d.toNat 0) := mOne_of _ e free
theorem execCape_of {s : State} {h : Hart} (f : MC) (e : s.cur = some h) (free : (s.core s.issue.core).mUntil ≤ s.cycle) :
    execCape f s = .next (match h.carrel.st with
      | .recording => s.heldM.modCarrel (fun c => { c with len := c.pos, pos := 0, st := .loaded, trip := 1 })
      | .replaying => s.heldM
      | _ => s.heldM.carrelFault 4) := mOne_of _ e free
theorem execCapr_of {s : State} {h : Hart} (f : MC) (e : s.cur = some h) (free : (s.core s.issue.core).mUntil ≤ s.cycle) :
    execCapr f s = .next (if h.carrel.st = .idle ∨ h.carrel.st = .recording then s.heldM.carrelFault 3 else if 2 ^ 32 ≤ (h.og f.s1.toNat).toNat then s.heldM.carrelFault 6
      else s.heldM.modCarrel (fun c => { c with count := (h.og f.s1.toNat).toNat }.start s.issue.npc)) := mOne_of _ e free
/-- CAPX in a state in which a body is there: a fault where the trip is too large, and otherwise the start of a replay (R248). -/
theorem capxFrom_of {s : State} {h : Hart} (trip : Hart → Nat) (e : s.cur = some h) (free : (s.core s.issue.core).mUntil ≤ s.cycle) :
    capxFrom s trip = .next (if h.carrel.st = .idle ∨ h.carrel.st = .recording then s.heldM.carrelFault 3 else if 2 ^ 32 ≤ trip h then s.heldM.carrelFault 6
      else s.heldM.modCarrel (fun c => { c with trip := trip h, pos := 0 }.start s.issue.npc)) := mOne_of _ e free

/-- The Carrel states in which no body can be replayed. -/
theorem not_usable_iff (c : CarState) : ¬ (c = .loaded ∨ c = .replaying) ↔ c = .idle ∨ c = .recording := by
  cases c <;> simp

/-- Settles O34: each slot holds the engine for a cycle, and the Carrel's state picks what it does. -/
theorem carrelInstructions : Obligations.CarrelInstructions := by
  intro s h f e free t n c car fault usable from_
  have idle : ¬ usable ↔ c.st = .idle ∨ c.st = .recording := not_usable_iff c.st
  have replay (o : Out) (trip : Nat) (then_ : State)
      (go : o = .next (if c.st = .idle ∨ c.st = .recording then t.carrelFault 3 else if 2 ^ 32 ≤ trip then t.carrelFault 6 else then_)) :
      (usable → trip < 2 ^ 32 → o = .next then_) ∧ (usable → 2 ^ 32 ≤ trip → o = fault 6) ∧ (¬ usable → o = fault 3) := by
    refine ⟨fun u small => ?_, fun u large => ?_, fun u => ?_⟩
    · rw [go, if_neg (fun none_ => idle.2 none_ u), if_neg (Nat.not_le.2 small)]
    · rw [go, if_neg (fun none_ => idle.2 none_ u), if_pos large]; rfl
    · rw [go, if_pos (idle.1 u)]; rfl
  have capb : exec (.capb f) s = _ := execCapb_of f e free
  have cape : exec (.cape f) s = _ := execCape_of f e free
  refine ⟨fun st => ?_, fun st => ?_, fun st => ?_, fun st => ?_, fun st => ?_, ?_⟩
  · rw [capb, if_neg (by change ¬ (c.st = _ ∨ c.st = _); rcases st with st | st <;> simp [st])]; rfl
  · rw [capb, if_pos st]; rfl
  · rw [cape, show h.carrel.st = _ from st]; rfl
  · rw [cape, show h.carrel.st = _ from st]; rfl
  · rw [cape]; rcases st with st | st <;> rw [show h.carrel.st = _ from st] <;> rfl
  · obtain ⟨starts, large, empty⟩ := replay _ n _ (execCapr_of f e free)
    exact ⟨starts, large, empty, replay _ n _ (capxFrom_of (fun h => (h.og f.s1.toNat).toNat) e free), replay _ c.trip _ (capxFrom_of (fun h => h.carrel.trip) e free),
      replay _ c.first _ (capxFrom_of (fun h => h.carrel.first) e free)⟩

end Sys2Proof.Machine
end

section
/-! SUPPORT. The bits of a mask that a predicate gives. -/
namespace Sys2Proof
open Sys2Proof

theorem maskOf_succ (n : Nat) (p : Nat → Bool) : maskOf (n + 1) p = if p n then maskOf n p + 2 ^ n else maskOf n p := by
  simp [maskOf, List.range_succ]

theorem maskOf_lt (n : Nat) (p : Nat → Bool) : maskOf n p < 2 ^ n := by
  induction n with
  | zero => simp [maskOf]
  | succ n ih => rw [maskOf_succ, Nat.pow_succ]; split <;> omega

theorem testBit_maskOf (n : Nat) (p : Nat → Bool) (i : Nat) : (maskOf n p).testBit i = (decide (i < n) && p i) := by
  induction n with
  | zero => simp [maskOf]
  | succ n ih =>
    have small := maskOf_lt n p
    rw [maskOf_succ]
    rcases Nat.lt_trichotomy i n with below | rfl | above
    · have old : (maskOf n p + 2 ^ n).testBit i = (maskOf n p).testBit i := by rw [Nat.add_comm, Nat.testBit_two_pow_add_gt below]
      split <;> simp [old, ih, below, Nat.lt_succ_of_lt below]
    · have none_ : (maskOf i p).testBit i = false := Nat.testBit_lt_two_pow small
      have new : (maskOf i p + 2 ^ i).testBit i = true := by rw [Nat.add_comm, Nat.testBit_two_pow_add_eq, none_]; rfl
      cases set : p i <;> simp [new, none_]
    · have out : ¬ i < n + 1 := by omega
      have wide : 2 ^ (n + 1) ≤ 2 ^ i := Nat.pow_le_pow_right (by decide) above
      have fits : (if p n then maskOf n p + 2 ^ n else maskOf n p) < 2 ^ (n + 1) := by rw [← maskOf_succ]; exact maskOf_lt _ _
      simp [Nat.testBit_lt_two_pow (fits.trans_le wide), out]

/-- A bit of a mask register written from a predicate. -/
theorem getLsbD_ofNat_maskOf {w : Nat} (p : Nat → Bool) {i : Nat} (small : i < w) : (BitVec.ofNat w (maskOf w p)).getLsbD i = p i := by
  rw [BitVec.getLsbD_ofNat, testBit_maskOf]
  simp [small]

end Sys2Proof
end

section
/-! Rank-k updates at length 0 (R221, R231). -/
namespace Sys2Proof.Machine
open Sys2Proof

/-- A head that an update may take: one visible FP32 entry. -/
def updateHead : Entry := { st := .visible }
/-- A hart at length 0 whose queues 0 and 1 hold such heads, in a cycle in which the matrix engine is free. -/
def lengthZero : State := { cycle := 1, cores := [(0, { q := [(0, { ents := [updateHead] }), (1, { ents := [updateHead] })], harts := [(0, some {})] })] }
/-- An FP32 update of queues 0 and 1. -/
def updateOf01 : MU := { qa := 0, qb := 1, hs := 0, fa := 0, fb := 0 }
/-- The cycle until which an outcome's core 0 holds its matrix engine. -/
def engineUntil : Out → Nat
  | .next t => (t.core 0).mUntil
  | _ => 0

/-- An update of length 0 dequeues its heads and also holds its engine, for the four cycles of an FP32 pair. -/
theorem engineUntil_mop_lengthZero : engineUntil (exec (.mop updateOf01) lengthZero) = 5 := by decide

/-- Refutes O32: the statement lets an update of length 0 only dequeue, but the model's also holds the matrix engine, as `lengthZero` shows. -/
theorem not_matrixUpdates : ¬ Obligations.MatrixUpdates := by
  intro ⟨issue, _⟩
  obtain ⟨dequeues, _⟩ := issue lengthZero {} updateOf01 updateHead updateHead rfl rfl rfl (by decide) (by decide) (by decide) (by decide) (by decide) rfl rfl
  have held := engineUntil_mop_lengthZero
  rw [dequeues] at held
  revert held
  decide

end Sys2Proof.Machine
end

section
/-! SUPPORT. M slots on one row or on the whole grid (R237), and what a hart's Colophon reads as after updates of the state. -/
namespace Sys2Proof.Machine
open Sys2Proof

/-- What no tag tells is the same ahead of the slot's own earlier packets. -/
theorem Core.tagsAhead_same {γ : Type} (g : Core → γ) (keeps : ∀ c gs r t, g (Core.putTag c gs r t) = g c) (c : Core) (slot : Nat) : g (c.tagsAhead slot) = g c := by
  unfold Core.tagsAhead
  refine foldl_same g _ _ _ (fun c f _ => ?_)
  split
  · split
    · exact foldl_same g _ _ _ (fun c q _ => keeps _ _ _ _)
    · rfl
  · rfl
@[simp] theorem Core.tagsAhead_mUntil (c : Core) (slot : Nat) : (c.tagsAhead slot).mUntil = c.mUntil := Core.tagsAhead_same _ (fun _ _ _ _ => rfl) c slot
@[simp] theorem Core.tagsAhead_chkrow (c : Core) (slot : Nat) : (c.tagsAhead slot).chkrow = c.chkrow := Core.tagsAhead_same _ (fun _ _ _ _ => rfl) c slot
@[simp] theorem Core.tagsAhead_chkcol (c : Core) (slot : Nat) : (c.tagsAhead slot).chkcol = c.chkcol := Core.tagsAhead_same _ (fun _ _ _ _ => rfl) c slot
@[simp] theorem Core.tagsAhead_lmap (c : Core) (slot : Nat) : (c.tagsAhead slot).lmap = c.lmap := Core.tagsAhead_same _ (fun _ _ _ _ => rfl) c slot

variable {s : State} {h : Hart}

theorem State.vctx_mUntil (s : State) (h : Hart) (n : Nat) : (s.vctx h n).c.mUntil = (s.core s.issue.core).mUntil := Core.tagsAhead_mUntil _ _
/-- Holding the matrix engine changes no group of a gang. -/
theorem State.vctx_heldM_gs (s : State) (h : Hart) (n : Nat) : (s.heldM.vctx h n).gs = (s.vctx h n).gs := by
  have core : (s.heldM.core s.issue.core).lat = (s.core s.issue.core).lat := by rw [State.heldM, State.core_modCore_same]
  change (s.heldM.groupsOf s.issue.core h) = _
  unfold State.groupsOf State.heldGroups Core.groups
  rw [core]
  rfl
theorem State.vctx_heldM_width (s : State) (h : Hart) (n : Nat) : (s.heldM.vctx h n).width = (s.vctx h n).width :=
  congrArg (fun gs : List Nat => protCols h.octrl.prot gs.length) (s.vctx_heldM_gs h n)

/-- The state once an M slot on the whole grid is taken up. -/
def State.wholeM (s : State) (hold : Nat) (gs : List Nat) : State :=
  { s.modCore s.issue.core (·.takeM s.cycle hold
      [{ id := s.nextId, slot := s.issue.slot, due := s.cycle + hold - 1, rows := List.range 256, groups := gs, eff := .v { gs := gs } }]) with nextId := s.nextId + 1 }

/-- An M slot on the whole grid goes on once the engine is free and no other hart's setting holds a row. -/
theorem mWhole_of (hold : Nat) (go : Hart → VCtx → State → State) (e : s.cur = some h) (free : (s.vctx h h.mLen).c.mUntil ≤ s.cycle)
    (quiet : s.rowsBusy s.issue.core s.issue.slot (List.range 256) (s.vctx h h.mLen).gs = false) :
    mWhole s hold go = .next (go h (s.vctx h h.mLen) (s.wholeM hold (s.vctx h h.mLen).gs)) := by
  have goes : ¬ (s.cycle < (s.vctx h h.mLen).c.mUntil ∨ s.rowsBusy s.issue.core s.issue.slot (List.range 256) (s.vctx h h.mLen).gs = true) := by simp [quiet, Nat.not_lt.2 free]
  rw [mWhole, onHart_of _ e, if_neg goes]
  rfl

/-! What the Colophon of a hart and its core read as. -/
theorem State.colo_setColo (s : State) (p : Nat) (h : Hart) (k : Colo) : (s.setColo p h k).colo p h = k := by
  simp [State.colo, State.setColo, State.modGang]
@[simp] theorem State.core_setColo (s : State) (p q : Nat) (h : Hart) (k : Colo) : (s.setColo p h k).core q = s.core q := rfl
theorem State.colo_of_dies {t : State} (p : Nat) (h : Hart) (same : t.dies = s.dies) : t.colo p h = s.colo p h := by
  unfold State.colo State.gang State.die
  rw [same]
theorem State.colo_modCur (s : State) (f : Hart → Hart) (p : Nat) (h : Hart) : (s.modCur f).colo p h = s.colo p h := State.colo_of_dies p h (State.modCur_dies s f)
theorem State.colo_wrG (s : State) (n : Nat) (v : Word) (p : Nat) (h : Hart) : (s.wrG n v).colo p h = s.colo p h := State.colo_of_dies p h (State.wrG_dies s n v)
theorem State.cur_setColo (s : State) (p : Nat) (h : Hart) (k : Colo) : (s.setColo p h k).cur = s.cur := rfl
/-- What no hart tells of a core stands through a change of a hart. -/
theorem State.core_modHart_same {γ : Type} (g : Core → γ) (keeps : ∀ c harts, g { c with harts := harts } = g c) (s : State) (p i q : Nat) (f : Hart → Hart) :
    g ((s.modHart p i f).core q) = g (s.core q) := by
  unfold State.modHart
  split
  · rfl
  · rw [State.setHart, State.core_modCore]
    split
    · rename_i here; rw [here]; exact keeps _ _
    · rfl
theorem State.core_modCur_same {γ : Type} (g : Core → γ) (keeps : ∀ c harts, g { c with harts := harts } = g c) (s : State) (q : Nat) (f : Hart → Hart) :
    g ((s.modCur f).core q) = g (s.core q) := State.core_modHart_same g keeps s _ _ q f
theorem State.core_wrG_same {γ : Type} (g : Core → γ) (keeps : ∀ c harts, g { c with harts := harts } = g c) (s : State) (q n : Nat) (v : Word) :
    g ((s.wrG n v).core q) = g (s.core q) := State.core_modCur_same g keeps s q _

/-- A cell that was written reads back, with its poison bit. -/
theorem Core.cell_putCell (c : Core) (gs : List Nat) (i j : Nat) (v : Cell) (b : Bool) :
    (c.putCell gs i j v b).cell gs i j = v ∧ (c.putCell gs i j v b).poison gs i j = b := ⟨tget_tset_same _ _ _ _, tget_tset_same _ _ _ _⟩

end Sys2Proof.Machine
end

section
/-! The slots of the Colophon (R237 to R244), each in a state in which nothing holds it. -/
namespace Sys2Proof.Machine
open Sys2Proof

variable {s : State} {h : Hart} {f : MC}

theorem execCkrdRow_of (e : s.cur = some h) (free : (s.core s.issue.core).mUntil ≤ s.cycle) (inside : f.imm.toNat % 256 < (s.vctx h h.mLen).width) :
    execCkrdRow f s = .next (s.heldM.wrG f.d.toNat (ckExport (h.og f.s1.toNat)
      (let y := (s.heldM.coloAhead s.issue.core h).1.chkRowAt (s.vctx h h.mLen).gs (f.imm.toNat % 256); ⟨y.1, y.2⟩)
      ((s.heldM.coloAhead s.issue.core h).2.nfCol.getLsbD (f.imm.toNat % 256)) (f.imm.toNat / 1024 % 4))) := by
  rw [execCkrdRow, mOne_of _ e free]
  dsimp only
  rw [s.vctx_heldM_width, if_neg (Nat.not_le.2 inside), s.vctx_heldM_gs]
  rfl
theorem execCkrdCol_of (e : s.cur = some h) (free : (s.core s.issue.core).mUntil ≤ s.cycle) :
    execCkrdCol f s = .next (s.heldM.wrG f.d.toNat (ckExport (h.og f.s1.toNat) ((s.heldM.coloAhead s.issue.core h).1.chkColAt (s.vctx h h.mLen).gs (f.imm.toNat % 256))
      ((s.heldM.coloAhead s.issue.core h).2.nfRow.getLsbD (f.imm.toNat % 256)) (f.imm.toNat / 1024 % 4))) := by
  rw [execCkrdCol, mOne_of _ e free]
  dsimp only
  rw [s.vctx_heldM_gs]
  rfl

theorem execCkrdSt_of (e : s.cur = some h) (free : (s.core s.issue.core).mUntil ≤ s.cycle) :
    execCkrdSt f s = .next (s.heldM.wrG f.d.toNat (BitVec.ofNat 64 ((s.heldM.coloAhead s.issue.core h).2.u + (s.heldM.coloAhead s.issue.core h).2.fmts * 2 ^ 32))) :=
  mOne_of _ e free
theorem execCkloc_of (e : s.cur = some h) (free : (s.core s.issue.core).mUntil ≤ s.cycle) :
    execCkloc f s = .next (s.heldM.wrK (f.d.toNat % 8) (match f.imm.toNat % 4 with
      | 0 => (s.colo s.issue.core h).locR | 1 => (s.colo s.issue.core h).locC | 2 => (s.colo s.issue.core h).locUR | _ => (s.colo s.issue.core h).locUC)) :=
  mOne_of _ e free

/-- A corruption of one cell that nothing holds. -/
theorem ckInject_of (go : Hart → Cell × Bool → Cell × Bool) (e : s.cur = some h) (free : (s.vctx h h.mLen).c.mUntil ≤ s.cycle)
    (written : s.rowsLate s.issue.core s.issue.slot h Flight.writes [f.imm.toNat % 256] [(s.vctx h h.mLen).gs.getD (f.imm.toNat / 256 % 256 / 16) 99] = false)
    (quiet : s.rowsBusy s.issue.core s.issue.slot [f.imm.toNat % 256] [(s.vctx h h.mLen).gs.getD (f.imm.toNat / 256 % 256 / 16) 99] = false)
    (inside : f.imm.toNat / 256 % 256 < (s.vctx h h.mLen).width) :
    let x := s.vctx h h.mLen
    let i := f.imm.toNat % 256
    let j := f.imm.toNat / 256 % 256
    let y := go h (x.c.cell x.gs i j, x.c.poison x.gs i j)
    ckInject f s go = .next ((s.modCore s.issue.core (fun c => { c.putCell x.gs i j y.1 y.2 with mUntil := s.cycle + 1 })).modCur
      (fun h => { h with ready := h.ready ++ [(.row i, s.cycle + 2)] })) := by
  intro x i j y
  have written' : s.rowsLate x.p s.issue.slot h Flight.writes [i] [x.gs.getD (j / 16) 99] = false := written
  have quiet' : s.rowsBusy x.p s.issue.slot [i] [x.gs.getD (j / 16) 99] = false := quiet
  have goes : ¬ (s.cycle < x.c.mUntil ∨ s.rowsBusy x.p s.issue.slot [i] [x.gs.getD (j / 16) 99] = true) := not_or.2 ⟨Nat.not_lt.2 free, by rw [quiet']; decide⟩
  rw [ckInject, onHart_of _ e]
  simp only [show s.rowsLate (s.vctx h h.mLen).p s.issue.slot h Flight.writes [f.imm.toNat % 256] [(s.vctx h h.mLen).gs.getD (f.imm.toNat / 256 % 256 / 16) 99] = false from written,
    Bool.false_eq_true, if_false]
  rw [if_neg goes, if_neg (Nat.not_le.2 inside)]
  rfl

/-- The sums that CKCLR takes over a list of counted cells, tag, row and gang column of each (R238). -/
def VCtx.sumOf (x : VCtx) (l : List (Tag × Nat × Nat)) : Dy := Dy.sum (l.filterMap (fun q => x.val q.1 q.2.1 q.2.2))
/-- The chkcol partials that CKCLR records. -/
def VCtx.clearedParts (x : VCtx) : List (Nat × Int × Int) :=
  (List.range 256).flatMap (fun i => x.gs.zipIdx.map (fun g => (i * 17 + x.c.phys g.1, dyPair (match x.countedTag i with
    | some t => Dy.sum ((((List.range 16).map (16 * g.2 + ·)).filter (fun j => decide (j < x.width))).filterMap (x.val t i))
    | none => Dy.zero))))
/-- The chkrow cells that CKCLR records. -/
def VCtx.clearedCols (x : VCtx) : List (Nat × Int × Int) :=
  x.counted.map (fun j => (x.c.col x.gs j, dyPair (Dy.sum (x.countedRows.filterMap (fun r => x.val r.2 r.1 j)))))
/-- The Colophon state that CKCLR leaves. -/
def VCtx.clearedColo (x : VCtx) : Colo :=
  { nfRow := BitVec.ofNat 256 (maskOf 256 (fun i => match x.countedTag i with | some t => x.counted.any (fun j => (x.val t i j).isNone) | none => false))
    nfCol := BitVec.ofNat 256 (maskOf 256 (fun j => decide (j < x.width) && x.countedRows.any (fun r => (x.val r.2 r.1 j).isNone))) }

/-- The sum over the columns of a group that count. -/
theorem VCtx.sumOf_group (x : VCtx) (t : Tag) (i m : Nat) :
    x.sumOf (((List.range 16).map (fun q => 16 * m + q)).filterMap (fun j => if j < x.width then some (t, i, j) else none))
      = Dy.sum ((((List.range 16).map (16 * m + ·)).filter (fun j => decide (j < x.width))).filterMap (x.val t i)) := by
  rw [VCtx.sumOf, List.filterMap_filterMap, List.filterMap_filter]
  congr 2
  funext j
  by_cases counted : j < x.width <;> simp [counted]
/-- The sum over a column. -/
theorem VCtx.sumOf_column (x : VCtx) (j : Nat) : x.sumOf (x.countedRows.map (fun r => (r.2, r.1, j))) = Dy.sum (x.countedRows.filterMap (fun r => x.val r.2 r.1 j)) := by
  rw [VCtx.sumOf, List.filterMap_map]; rfl

theorem execCkclr_of (e : s.cur = some h) (free : (s.vctx h h.mLen).c.mUntil ≤ s.cycle)
    (quiet : s.rowsBusy s.issue.core s.issue.slot (List.range 256) (s.vctx h h.mLen).gs = false) :
    let x := s.vctx h h.mLen
    execCkclr f s = .next (((((s.wholeM 16 x.gs).modCore s.issue.core (fun c => { c with chkcol := tsetMany c.chkcol x.clearedParts, chkrow := tsetMany c.chkrow x.clearedCols })).setColo
      s.issue.core h x.clearedColo)).modCur (fun h => if h.carrel.st = .recording ∨ h.carrel.st = .replaying then { h with carrel := { h.carrel with first := h.carrel.trip } } else h)) := by
  intro x
  rw [execCkclr, mWhole_of _ _ e free quiet]
  have parts : x.clearedParts = (List.range 256).flatMap (fun i => x.gs.zipIdx.map (fun g => (i * 17 + x.c.phys g.1, dyPair (match x.countedTag i with
      | some t => x.sumOf (((List.range 16).map (fun q => 16 * g.2 + q)).filterMap (fun j => if j < x.width then some (t, i, j) else none))
      | none => Dy.zero)))) := by
    simp only [VCtx.sumOf_group]; rfl
  have cols : x.clearedCols = x.counted.map (fun j => (x.c.col x.gs j, dyPair (x.sumOf (x.countedRows.map (fun r => (r.2, r.1, j)))))) := by
    simp only [VCtx.sumOf_column]; rfl
  rw [parts, cols]
  rfl

theorem execCkchk_of (e : s.cur = some h) (free : (s.vctx h h.mLen).c.mUntil ≤ s.cycle)
    (quiet : s.rowsBusy s.issue.core s.issue.slot (List.range 256) (s.vctx h h.mLen).gs = false) :
    let q := ckLocate h (s.vctx h h.mLen) (s.colo s.issue.core h) f.hs.toNat
    let v := ckSummary (f.hs == 2) q
    let t := ((s.wholeM 16 (s.vctx h h.mLen).gs).setColo s.issue.core h q).wrG f.d.toNat v
    execCkchk f s = .next (if fldN v 17 0 ≠ 0 ∧ v.getLsbD 52 = false then t.after { cause := 0x26, info := 2 ^ 16, ret := 2 } else t) := mWhole_of _ _ e free quiet

/-- The state that CKFIX leaves where it restores a cell. -/
def State.fixed (s : State) (f : MC) (h : Hart) (x : VCtx) (v : Cell) : State :=
  let k := s.colo s.issue.core h
  let i := fldN (h.og f.s1.toNat) 7 0
  let j := fldN (h.og f.s1.toNat) 15 8
  let b (m : Mask) (n : Nat) : Mask := if (cellVal (x.c.tag x.gs i) v).isNone then m ||| BitVec.ofNat 256 (2 ^ n) else m
  (((((s.wholeM 8 x.gs).modCore s.issue.core (fun c =>
      let c1 := c.putCell x.gs i j v false
      if x.mir = 0 then c1 else c1.putCell x.gs i (j + x.mir) v false)).setColo s.issue.core h { k with
        locR := clearBit k.locR i, locC := clearBit k.locC j, locUR := clearBit k.locUR i, locUC := clearBit k.locUC j
        nfRow := b k.nfRow i, nfCol := b k.nfCol j }).wrG f.d.toNat 0).modCur (fun h => { h with ready := h.ready ++ [(.row i, s.cycle + 9)] }))
theorem execCkfix_of (e : s.cur = some h) (free : (s.vctx h h.mLen).c.mUntil ≤ s.cycle)
    (quiet : s.rowsBusy s.issue.core s.issue.slot (List.range 256) (s.vctx h h.mLen).gs = false) :
    execCkfix f s = .next (match ckFix h (s.vctx h h.mLen) (s.colo s.issue.core h) (h.og f.s1.toNat) with
      | .error n => (s.wholeM 8 (s.vctx h h.mLen).gs).wrG f.d.toNat (BitVec.ofNat 64 n)
      | .ok v => s.fixed f h (s.vctx h h.mLen) v) := mWhole_of _ _ e free quiet

theorem State.core_wholeM (s : State) (hold : Nat) (gs : List Nat) :
    (s.wholeM hold gs).core s.issue.core = (s.core s.issue.core).takeM s.cycle hold
      [{ id := s.nextId, slot := s.issue.slot, due := s.cycle + hold - 1, rows := List.range 256, groups := gs, eff := .v { gs := gs } }] :=
  State.core_modCore_same s s.issue.core (·.takeM s.cycle hold
    [{ id := s.nextId, slot := s.issue.slot, due := s.cycle + hold - 1, rows := List.range 256, groups := gs, eff := .v { gs := gs } }])

/-- The state that CKCLR leaves. -/
def State.clearedM (s : State) (x : VCtx) (h : Hart) : State :=
  ((((s.wholeM 16 x.gs).modCore s.issue.core (fun c => { c with chkcol := tsetMany c.chkcol x.clearedParts, chkrow := tsetMany c.chkrow x.clearedCols })).setColo
    s.issue.core h x.clearedColo)).modCur (fun h => if h.carrel.st = .recording ∨ h.carrel.st = .replaying then { h with carrel := { h.carrel with first := h.carrel.trip } } else h)

/-- What no hart tells of the core that CKCLR cleared. -/
theorem State.core_clearedM_same {γ : Type} (g : Core → γ) (keeps : ∀ c harts, g { c with harts := harts } = g c) (s : State) (x : VCtx) (h : Hart) :
    g ((s.clearedM x h).core s.issue.core) = g { (s.core s.issue.core).takeM s.cycle 16
      [{ id := s.nextId, slot := s.issue.slot, due := s.cycle + 16 - 1, rows := List.range 256, groups := x.gs, eff := .v { gs := x.gs } }] with
      chkcol := tsetMany (s.core s.issue.core).chkcol x.clearedParts, chkrow := tsetMany (s.core s.issue.core).chkrow x.clearedCols } := by
  refine (State.core_modCur_same g keeps _ _ _).trans (congrArg g ?_)
  rw [State.core_setColo, State.core_modCore_same, State.core_wholeM]
  rfl

/-- A core that keeps its harts keeps the hart that issues. -/
theorem State.cur_modCore (s : State) (p : Nat) (f : Core → Core) (keeps : ∀ c, (f c).harts = c.harts) : (s.modCore p f).cur = s.cur := by
  have harts : ((s.modCore p f).core s.issue.core).harts = (s.core s.issue.core).harts := by
    rw [State.core_modCore]
    split
    · rename_i here; rw [keeps, here]
    · rfl
  exact congrArg (fun l => tget none l s.issue.slot) harts

theorem State.cur_wholeM (s : State) (hold : Nat) (gs : List Nat) : (s.wholeM hold gs).cur = s.cur :=
  State.cur_modCore s s.issue.core (·.takeM s.cycle hold
    [{ id := s.nextId, slot := s.issue.slot, due := s.cycle + hold - 1, rows := List.range 256, groups := gs, eff := .v { gs := gs } }]) (fun _ => rfl)

theorem State.cur_clearedM (x : VCtx) (e : s.cur = some h) :
    (s.clearedM x h).cur = some (if h.carrel.st = .recording ∨ h.carrel.st = .replaying then { h with carrel := { h.carrel with first := h.carrel.trip } } else h) := by
  refine State.cur_modCur _ _ h ?_
  rw [State.cur_setColo, State.cur_modCore]
  case keeps => exact fun _ => rfl
  rw [State.cur_wholeM, e]

theorem State.colo_clearedM (s : State) (x : VCtx) (h : Hart) : (s.clearedM x h).colo s.issue.core h = x.clearedColo := by
  rw [State.clearedM, State.colo_modCur, State.colo_setColo]

/-- What CKCLR clears and records. -/
theorem State.clearedM_spec (s : State) (x : VCtx) (h : Hart) (e : s.cur = some h) (row : x.c.chkrow = (s.core s.issue.core).chkrow) (col : x.c.chkcol = (s.core s.issue.core).chkcol) :
    let t := s.clearedM x h
    let p := s.issue.core
    t.mem = s.mem ∧ (t.core p).grid = (s.core p).grid ∧ (t.core p).tags = (s.core p).tags ∧ t.colo p h = x.clearedColo
      ∧ (t.core p).chkrow = tsetMany x.c.chkrow x.clearedCols ∧ (t.core p).chkcol = tsetMany x.c.chkcol x.clearedParts
      ∧ t.cur.map (·.carrel) = some (if h.carrel.st = .recording ∨ h.carrel.st = .replaying then { h.carrel with first := h.carrel.trip } else h.carrel) := by
  refine ⟨by simp [State.clearedM, State.setColo, State.wholeM], State.core_clearedM_same _ (fun _ _ => rfl) s x h, State.core_clearedM_same _ (fun _ _ => rfl) s x h,
    s.colo_clearedM x h, ?_, ?_, ?_⟩
  · rw [row]; exact State.core_clearedM_same _ (fun _ _ => rfl) s x h
  · rw [col]; exact State.core_clearedM_same _ (fun _ _ => rfl) s x h
  · rw [State.cur_clearedM x e, Option.map_some]
    split <;> rfl

/-- What the rest of CKFIX leaves of the core once it restored a cell. -/
theorem State.core_fixed_same {γ : Type} (g : Core → γ) (keeps : ∀ c harts, g { c with harts := harts } = g c) (s : State) (f : MC) (h : Hart) (x : VCtx) (v : Cell) :
    let i := fldN (h.og f.s1.toNat) 7 0
    let j := fldN (h.og f.s1.toNat) 15 8
    let c := (s.wholeM 8 x.gs).core s.issue.core
    let c1 := c.putCell x.gs i j v false
    g ((s.fixed f h x v).core s.issue.core) = g (if x.mir = 0 then c1 else c1.putCell x.gs i (j + x.mir) v false) := by
  intro i j c c1
  refine (State.core_modCur_same g keeps _ _ _).trans ((State.core_wrG_same g keeps _ _ _ _).trans (congrArg g ?_))
  rw [State.core_setColo, State.core_modCore_same]

theorem State.fixed_mem (s : State) (f : MC) (h : Hart) (x : VCtx) (v : Cell) : (s.fixed f h x v).mem = s.mem := by
  simp [State.fixed, State.setColo, State.wholeM]

theorem State.colo_fixed (s : State) (f : MC) (h : Hart) (x : VCtx) (v : Cell) :
    ∃ nfRow nfCol, (s.fixed f h x v).colo s.issue.core h = { s.colo s.issue.core h with
      locR := clearBit (s.colo s.issue.core h).locR (fldN (h.og f.s1.toNat) 7 0), locC := clearBit (s.colo s.issue.core h).locC (fldN (h.og f.s1.toNat) 15 8)
      locUR := clearBit (s.colo s.issue.core h).locUR (fldN (h.og f.s1.toNat) 7 0), locUC := clearBit (s.colo s.issue.core h).locUC (fldN (h.og f.s1.toNat) 15 8)
      nfRow := nfRow, nfCol := nfCol } :=
  ⟨_, _, by rw [State.fixed, State.colo_modCur, State.colo_wrG, State.colo_setColo]⟩

/-- Settles O33: each slot of the Colophon in a state in which nothing holds it. -/
theorem colophon : Obligations.Colophon := by
  intro s h f e p x k w free one ac ak
  have freeM : (s.core s.issue.core).mUntil ≤ s.cycle := (s.vctx_mUntil h h.mLen) ▸ free
  refine ⟨execCkrdRow_of e freeM, execCkrdCol_of e freeM, execCkrdSt_of e freeM, execCkloc_of e freeM, ?_, ?_⟩
  · intro i j g put written quiet inside
    have flip : execCkinj f s = _ := ckInject_of _ e free written quiet inside
    have poison : execCkinjP f s = _ := ckInject_of _ e free written quiet inside
    exact ⟨flip, poison⟩
  · intro quiet whole
    have clear : exec (.ckclr f) s = .next (s.clearedM x h) := execCkclr_of (f := f) e free quiet
    refine ⟨⟨s.clearedM x h, clear, ?_⟩, execCkchk_of e free quiet, fun n bad => ?_, fun v good => ?_⟩
    · obtain ⟨mem, grid, tags, colo, chkrow, chkcol, carrel⟩ := s.clearedM_spec x h e (Core.tagsAhead_chkrow _ _) (Core.tagsAhead_chkcol _ _)
      refine ⟨mem, grid, tags, ?_, chkrow, chkcol, carrel⟩
      rw [colo]
      refine ⟨rfl, rfl, rfl, rfl, rfl, rfl, fun i small => getLsbD_ofNat_maskOf _ small, fun j inside small => ?_⟩
      refine (getLsbD_ofNat_maskOf _ small).trans ?_
      simp [inside]
    · have fix : exec (.ckfix f) s = _ := execCkfix_of e free quiet
      rw [fix, show ckFix h (s.vctx h h.mLen) (s.colo s.issue.core h) (h.og f.s1.toNat) = .error n from bad]
      rfl
    · intro i j
      have fix : exec (.ckfix f) s = _ := execCkfix_of e free quiet
      rw [show ckFix h (s.vctx h h.mLen) (s.colo s.issue.core h) (h.og f.s1.toNat) = .ok v from good] at fix
      obtain ⟨nfRow, nfCol, colo⟩ := s.colo_fixed f h x v
      have cells := State.core_fixed_same (fun c => (c.cell x.gs i j, c.poison x.gs i j)) (fun _ _ => rfl) s f h x v
      have mirrors := State.core_fixed_same (fun c => (c.cell x.gs i (j + x.mir), c.poison x.gs i (j + x.mir))) (fun _ _ => rfl) s f h x v
      refine ⟨s.fixed f h x v, fix, fun none_ => ?_, fun some_ => ?_, ?_⟩
      · simp only [if_pos none_] at cells
        obtain ⟨cell, poison⟩ := Prod.mk.inj cells
        exact ⟨cell.trans (Core.cell_putCell _ _ _ _ _ _).1, poison.trans (Core.cell_putCell _ _ _ _ _ _).2⟩
      · simp only [if_neg some_] at mirrors
        obtain ⟨cell, poison⟩ := Prod.mk.inj mirrors
        exact ⟨cell.trans (Core.cell_putCell _ _ _ _ _ _).1, poison.trans (Core.cell_putCell _ _ _ _ _ _).2⟩
      · rw [colo]
        exact ⟨rfl, rfl, rfl, rfl, rfl, rfl, s.fixed_mem f h x v⟩

end Sys2Proof.Machine
end

section
/-! SUPPORT. Memory keeps its canonical form through the meanings that instructions share. -/
namespace Sys2Proof.Machine
open Sys2Proof

/-- An answer whose next state, if there is one, has memory in its canonical form. -/
def Out.MemOk : Out → Prop
  | .next t => Memory.wf t.mem = true
  | _ => True

theorem memOk_of {s : State} (hs : Memory.wf s.mem = true) : s.memOk := hs
theorem onHart_memOk {s : State} {k : Hart → State} (keeps : ∀ h, (k h).memOk) : Out.MemOk (onHart s k) := by
  unfold onHart
  split
  · trivial
  · exact keeps _
theorem below_memOk {i n : Nat} {t : State} (keeps : t.memOk) : Out.MemOk (below i n t) := by
  unfold below
  split
  · exact keeps
  · trivial
theorem next_memOk {t : State} (keeps : t.memOk) : Out.MemOk (.next t) := keeps
theorem onLink_memOk {s t : State} (keeps : t.memOk) : Out.MemOk (onLink s t) := by
  unfold onLink
  split
  · exact keeps
  · trivial
theorem engineOf_memOk {s : State} {k : Nat → Nat → EngQ → State} (hs : Memory.wf s.mem = true) (keeps : ∀ d n q, (k d n q).memOk) : Out.MemOk (s.engineOf k) := by
  unfold State.engineOf
  dsimp only
  split
  · trivial
  · split
    · exact hs
    · exact keeps _ _ _
theorem request_memOk (s : State) (qp : Nat) (m : HostMsg) (hs : Memory.wf s.mem = true) : Out.MemOk (s.request qp m) := by
  refine below_memOk ?_
  split
  · exact hs
  · split
    · exact State.answer_memOk _ _ _ _ hs
    · exact State.serveQp_memOk _ _ _ (State.modQp_memOk _ _ _ hs)

theorem branchIf_memOk (f : SB) (s : State) (c : Word → Word → Bool) (hs : Memory.wf s.mem = true) : Out.MemOk (branchIf f s c) :=
  onHart_memOk fun _ => ite_memOk (State.jump_memOk _ _ hs) hs
theorem setLength_memOk (f : SR) (s : State) (put : Ctrl → Nat → Nat → Ctrl) (hs : Memory.wf s.mem = true) : Out.MemOk (setLength f s put) := by
  refine onHart_memOk fun h => ?_
  extract_lets p req pending
  have grown (c : Prop) [Decidable c] : Memory.wf (if c then s.grow p h req else (s, none)).1.mem = true := by
    split
    · exact State.grow_memOk _ _ _ _ hs
    · exact hs
  split
  rename_i s1 x e
  have hs1 : Memory.wf s1.mem = true := memOk_fst e (grown _)
  split
  · exact State.stall_memOk _ hs
  · split
    · exact State.stall_memOk _ hs
    · exact State.releasePending_memOk _ _ _ (State.wrG_memOk _ _ _ (State.modCtrl_memOk _ _ hs1))

/-! Scalar accesses. -/
theorem scalarLoad_memOk (f : LM) (n : Nat) (s : State) (put : State → List Byte → State) (hs : Memory.wf s.mem = true)
    (keeps : ∀ t b, Memory.wf t.mem = true → Memory.wf (put t b).mem = true) : Out.MemOk (scalarLoad f n s put) := by
  refine onHart_memOk fun h => ite_memOk (State.memTrap_memOk _ _ _ _ _ _ _ hs) (State.scalar_memOk _ _ _ _ _ _ hs fun t l b ht => ?_)
  split
  · exact State.stall_memOk _ ht
  · split
    · exact State.memTrap_memOk _ _ _ _ _ _ _ ht
    · exact State.bump_memOk _ _ _ _ (State.noteSeen_memOk _ _ (keeps _ _ ht))
theorem loadInt_memOk (f : LM) (n : Nat) (signed : Bool) (s : State) (hs : Memory.wf s.mem = true) : Out.MemOk (loadInt f n signed s) :=
  scalarLoad_memOk _ _ _ _ hs fun _ _ ht => State.wrG_memOk _ _ _ ht
theorem scalarStore_memOk (f : LM) (n : Nat) (s : State) (bytes : Hart → List Byte) (hs : Memory.wf s.mem = true) : Out.MemOk (scalarStore f n s bytes) :=
  onHart_memOk fun _ => ite_memOk (State.memTrap_memOk _ _ _ _ _ _ _ hs) (ite_memOk (State.stall_memOk _ hs) (State.scalar_memOk _ _ _ _ _ _ hs fun _ _ _ ht =>
    State.bump_memOk _ _ _ _ (State.noteWrites_memOk _ _ _ _ (State.putBytes_memOk _ _ _ ht) ht)))
theorem amo_memOk (f : LM) (s : State) (op : Nat → Nat → Nat → Nat → Option Nat) (hs : Memory.wf s.mem = true) : Out.MemOk (amo f s op) := by
  refine onHart_memOk fun h => ite_memOk (State.memTrap_memOk _ _ _ _ _ _ _ hs) (ite_memOk (State.stall_memOk _ hs) (State.scalar_memOk _ _ _ _ _ _ hs fun t l b ht => ?_))
  have written (new : Option Nat) (n : Nat) (puts : Nat → List (Nat × Byte)) (none_ : Bool) :
      Memory.wf (State.mem (match new with
        | none => (t.breakLinks none (granules (locKeys l))).breakAway l
        | some v => if none_ then (t.send [] n false true).breakAway l else t.sendHome (puts v) n false)) = true := by
    split
    · exact State.breakAway_memOk _ _ (State.breakLinks_memOk _ _ _ ht)
    · exact ite_memOk (State.breakAway_memOk _ _ (State.send_memOk _ _ _ _ _ ht)) (State.sendHome_memOk _ _ _ _ ht)
  dsimp only
  split
  · exact State.stall_memOk _ ht
  · split
    · exact State.memTrap_memOk _ _ _ _ _ _ _ ht
    · exact State.noteSeen_memOk _ _ (State.wrG_memOk _ _ _ (State.noteWrites_memOk _ _ _ _ (written _ _ _ _) ht))

/-! Vector accesses. -/
theorem vload_memOk (form : VForm) (code : Nat) (gll : Bool) (f : LM) (s : State) (hs : Memory.wf s.mem = true) : Out.MemOk (vload form code gll f s) := by
  refine onHart_memOk fun h => ?_
  dsimp only
  repeat' with_reducible (first | assumption | apply State.bump_memOk | apply State.modCur_memOk | apply State.deq_memOk | apply State.stall_memOk | apply State.operand_memOk | apply vloadGo_memOk | split | apply memOk_of)
theorem vstore_memOk (form : VForm) (scc : Bool) (f : LM) (s : State) (hs : Memory.wf s.mem = true) : Out.MemOk (vstore form scc f s) := by
  refine onHart_memOk fun h => ?_
  dsimp only
  repeat' with_reducible (first | assumption | apply State.stall_memOk | apply State.operand_memOk | apply sccStep_memOk | apply vstoreGo_memOk | split | apply memOk_of)
theorem vamo_memOk (code : Nat) (f : LM) (s : State) (op : Nat → Nat → Nat) (hs : Memory.wf s.mem = true) : Out.MemOk (vamo code f s op) := by
  refine onHart_memOk fun h => ?_
  dsimp only
  repeat' with_reducible (first | assumption | apply State.stall_memOk | apply State.operand_memOk | apply vamoStep_memOk | apply vamoBegin_memOk | apply vamoGo_memOk | split | apply memOk_of)
theorem literalRun_memOk (w : Who) (wb : Nat) (a : VAddr) (cnt : Nat) (s : State) (hs : Memory.wf s.mem = true) : Memory.wf (literalRun w wb a cnt s).1.mem = true := by
  induction cnt generalizing a s with
  | zero => exact hs
  | succ n ih =>
    unfold literalRun
    split
    · exact memOk_fst ‹_› (State.vxlate_memOk _ _ _ _ _ hs)
    · have ht := memOk_fst ‹_› (State.vxlate_memOk _ _ _ _ _ hs)
      split <;> exact memOk_fst ‹_› (ih _ _ ht)
theorem Scan.stop_memOk (c : Scan) (t : State) (x : VAddr × XFault) (hs : Memory.wf c.s.mem = true) (ht : Memory.wf t.mem = true) : Memory.wf (c.stop t x).s.mem = true := by
  unfold Scan.stop
  split <;> assumption
theorem scan_memOk (w : Who) (f : LM) (wb ne budget : Nat) (start : VAddr) (n : Nat) (c : Scan) (hs : Memory.wf c.s.mem = true) :
    Memory.wf (scan w f wb ne budget start n c).s.mem = true := by
  induction n generalizing c with
  | zero => exact hs
  | succ n ih =>
    unfold scan
    dsimp only
    split
    · exact hs
    · split
      · exact Scan.stop_memOk _ _ _ hs (memOk_fst ‹_› (State.vxlate_memOk _ _ _ _ _ hs))
      · have ht := memOk_fst ‹_› (State.vxlate_memOk _ _ _ _ _ hs)
        repeat' with_reducible (first | assumption | apply State.verify_memOk | apply ih | apply Scan.stop_memOk | exact memOk_fst ‹_› (literalRun_memOk _ _ _ _ _ ‹_›) | split)

/-! Commands for engines, for Catalogue units and to the Folio. -/
theorem copySlot_memOk (kind : Nat) (f : LC) (s : State) (hs : Memory.wf s.mem = true) : Out.MemOk (copySlot kind f s) := by
  refine onHart_memOk fun h => ?_
  dsimp only
  repeat' with_reducible (first | assumption | refine memOk_fst (by assumption) ?_ | apply State.wrG_memOk | apply State.stall_memOk | apply State.copyTrap_memOk | apply State.copyRuns_memOk | apply State.copyXlate_memOk | apply CopyCmd.settleBlocks_memOk | apply State.join_memOk | apply State.drawn_memOk | split | apply memOk_of)
theorem catSlot_memOk (upd : Bool) (f : LC) (s : State) (hs : Memory.wf s.mem = true) : Out.MemOk (catSlot upd f s) := by
  refine onHart_memOk fun h => ?_
  dsimp only
  repeat' with_reducible (first | assumption | refine memOk_fst (by assumption) ?_ | apply State.wrG_memOk | apply State.stall_memOk | apply State.copyTrap_memOk | apply State.catRows_memOk | apply CatCmd.settleBlocks_memOk | apply State.catSend_memOk | apply State.drawn_memOk | split | apply memOk_of)
theorem folioAt_memOk (f : LC) (s : State) (k : Hart → State → Folio → Nat → State) (hs : Memory.wf s.mem = true)
    (keeps : ∀ h t fo mw, Memory.wf (State.mem t) = true → Memory.wf (k h t fo mw).mem = true) : Out.MemOk (folioAt f s k) := by
  refine onHart_memOk fun h => ?_
  dsimp only
  repeat' with_reducible (first | assumption | refine memOk_fst (by assumption) ?_ | apply keeps | apply State.wrG_memOk | apply State.stall_memOk | apply State.copyTrap_memOk | apply State.folioLeaf_memOk | apply State.seeFolio_memOk | apply State.folioOut_memOk | apply State.verify_memOk | split | apply memOk_of)
theorem folioPool_memOk (f : LC) (s : State) (rise : Bool) (k : State → Folio → Nat → Nat → State) (hs : Memory.wf s.mem = true)
    (keeps : ∀ t fo b key, Memory.wf (State.mem t) = true → Memory.wf (k t fo b key).mem = true) : Out.MemOk (folioPool f s rise k) := by
  refine onHart_memOk fun h => ?_
  dsimp only
  repeat' with_reducible (first | assumption | apply keeps | apply State.memTrap_memOk | apply State.wrG_memOk | apply State.stall_memOk | apply State.seeOwnFolio_memOk | apply State.verify_memOk | split | apply memOk_of)

/-! M slots. -/
theorem mUpdate_memOk (f : MU) (zero scaled : Bool) (s : State) (hs : Memory.wf s.mem = true) : Out.MemOk (mUpdate f zero scaled s) := by
  refine onHart_memOk fun h => ?_
  dsimp only
  repeat' with_reducible (first | assumption | apply State.late_memOk | apply State.stall_memOk | apply State.operand_memOk | apply State.modCore_memOk | apply State.popAll_memOk | apply ite_memOk | split | apply memOk_of)
theorem mWhole_memOk (s : State) (hold : Nat) (go : Hart → VCtx → State → State) (hs : Memory.wf s.mem = true)
    (keeps : ∀ h x t, State.memOk t → (go h x t).memOk) : Out.MemOk (mWhole s hold go) := by
  have held (gs : List Nat) : (s.wholeM hold gs).memOk := by simpa [State.wholeM, State.memOk] using hs
  exact onHart_memOk fun h => ite_memOk (State.stall_memOk _ hs) (keeps _ _ (s.wholeM hold _) (held _))
theorem mOne_memOk (s : State) (go : Hart → State → State) (hs : Memory.wf s.mem = true) (keeps : ∀ h t, Memory.wf (State.mem t) = true → Memory.wf (go h t).mem = true) : Out.MemOk (mOne s go) :=
  onHart_memOk fun _ => ite_memOk (State.stall_memOk _ hs) (keeps _ _ (State.modCore_memOk _ _ _ hs))
theorem ckInject_memOk (f : MC) (s : State) (go : Hart → Cell × Bool → Cell × Bool) (hs : Memory.wf s.mem = true) : Out.MemOk (ckInject f s go) := by
  refine onHart_memOk fun h => ?_
  dsimp only
  repeat' with_reducible (first | assumption | apply State.late_memOk | apply State.stall_memOk | apply State.operand_memOk | apply State.modCur_memOk | apply State.modCore_memOk | split | apply memOk_of)
theorem capxFrom_memOk (s : State) (trip : Hart → Nat) (hs : Memory.wf s.mem = true) : Out.MemOk (capxFrom s trip) :=
  mOne_memOk _ _ hs fun _ _ ht => ite_memOk (State.carrelFault_memOk _ _ ht) (ite_memOk (State.carrelFault_memOk _ _ ht) (State.modCarrel_memOk _ _ ht))

end Sys2Proof.Machine
end

section
/-! SUPPORT. Memory keeps its canonical form through the instructions and events that have a meaning of their own. -/
namespace Sys2Proof.Machine
open Sys2Proof

theorem execCkclr_memOk (f : MC) (s : State) (hs : Memory.wf s.mem = true) : Out.MemOk (execCkclr f s) :=
  mWhole_memOk _ _ _ hs fun _ _ _ ht => State.modCur_memOk _ _ (State.setColo_memOk _ _ _ _ (State.modCore_memOk _ _ _ ht))
/-- What CKCHK leaves once it holds the engine (R239). -/
def State.checkedM (t : State) (f : MC) (h : Hart) (x : VCtx) : State :=
  let k := ckLocate h x (t.colo x.p h) f.hs.toNat
  let w := ckSummary (f.hs == 2) k
  let s1 := (t.setColo x.p h k).wrG f.d.toNat w
  if fldN w 17 0 ≠ 0 ∧ w.getLsbD 52 = false then s1.after { cause := 0x26, info := 2 ^ 16, ret := 2 } else s1
theorem State.checkedM_memOk (t : State) (f : MC) (h : Hart) (x : VCtx) (ht : t.memOk) : (t.checkedM f h x).memOk := by
  have answered (k : Colo) (w : Word) : Memory.wf (State.mem ((t.setColo x.p h k).wrG f.d.toNat w)) = true := State.wrG_memOk _ _ _ (State.setColo_memOk _ _ _ _ ht)
  unfold State.checkedM
  generalize ckLocate h x (t.colo x.p h) f.hs.toNat = k
  exact ite_memOk (State.after_memOk _ _ (answered _ _)) (answered _ _)
theorem execCkchk_eq (f : MC) (s : State) : execCkchk f s = mWhole s 16 (fun h x t => t.checkedM f h x) := by
  unfold execCkchk
  refine congrArg (mWhole s 16) (funext fun h => funext fun x => funext fun t => ?_)
  unfold State.checkedM
  rfl
theorem execCkchk_memOk (f : MC) (s : State) (hs : Memory.wf s.mem = true) : Out.MemOk (execCkchk f s) := by
  rw [execCkchk_eq]
  exact mWhole_memOk _ _ _ hs fun h x t ht => State.checkedM_memOk t f h x ht
theorem execCkloc_memOk (f : MC) (s : State) (hs : Memory.wf s.mem = true) : Out.MemOk (execCkloc f s) :=
  mOne_memOk _ _ hs fun _ _ ht => State.wrK_memOk _ _ _ ht
theorem execCkfix_memOk (f : MC) (s : State) (hs : Memory.wf s.mem = true) : Out.MemOk (execCkfix f s) := by
  refine mWhole_memOk _ _ _ hs fun h x t ht => ?_
  dsimp only
  split
  · exact State.wrG_memOk _ _ _ ht
  · exact State.modCur_memOk _ _ (State.wrG_memOk _ _ _ (State.setColo_memOk _ _ _ _ (State.modCore_memOk _ _ _ ht)))
theorem execCkrdRow_memOk (f : MC) (s : State) (hs : Memory.wf s.mem = true) : Out.MemOk (execCkrdRow f s) :=
  mOne_memOk _ _ hs fun _ _ ht => ite_memOk (State.operand_memOk _ _ ht) (State.wrG_memOk _ _ _ ht)
theorem execCkrdCol_memOk (f : MC) (s : State) (hs : Memory.wf s.mem = true) : Out.MemOk (execCkrdCol f s) :=
  mOne_memOk _ _ hs fun _ _ ht => State.wrG_memOk _ _ _ ht
theorem execCkrdSt_memOk (f : MC) (s : State) (hs : Memory.wf s.mem = true) : Out.MemOk (execCkrdSt f s) :=
  mOne_memOk _ _ hs fun _ _ ht => State.wrG_memOk _ _ _ ht
theorem execCapb_memOk (f : MC) (s : State) (hs : Memory.wf s.mem = true) : Out.MemOk (execCapb f s) :=
  mOne_memOk _ _ hs fun _ _ ht => ite_memOk (State.carrelFault_memOk _ _ ht) (State.wrG_memOk _ _ _ (State.modCarrel_memOk _ _ ht))
theorem execCape_memOk (f : MC) (s : State) (hs : Memory.wf s.mem = true) : Out.MemOk (execCape f s) := by
  refine mOne_memOk _ _ hs fun h t ht => ?_
  split
  · exact State.modCarrel_memOk _ _ ht
  · exact ht
  · exact State.carrelFault_memOk _ _ ht
theorem execCapr_memOk (f : MC) (s : State) (hs : Memory.wf s.mem = true) : Out.MemOk (execCapr f s) :=
  mOne_memOk _ _ hs fun _ _ ht => ite_memOk (State.carrelFault_memOk _ _ ht) (ite_memOk (State.carrelFault_memOk _ _ ht) (State.modCarrel_memOk _ _ ht))

theorem execFolmap_memOk (f : LC) (s : State) (hs : Memory.wf s.mem = true) : Out.MemOk (execFolmap f s) := by
  refine folioAt_memOk _ _ _ hs fun h t fo mw ht => ?_
  dsimp only
  split
  · split
    · exact State.folioOut_memOk _ _ _ ht
    · split
      · exact State.wrG_memOk _ _ _ ht
      · have popped := State.popFree_memOk _ _ ht ‹_›
        split
        · exact State.folioOut_memOk _ _ _ ht
        · exact State.wrG_memOk _ _ _ (State.remap_memOk _ _ _ _ _ (State.store_memOk _ _ _ _ popped))
  · split
    · exact ite_memOk (State.folioOut_memOk _ _ _ ht) (State.wrG_memOk _ _ _ ht)
    · exact ite_memOk (State.stall_memOk _ ht) (State.wrG_memOk _ _ _ (State.remap_memOk _ _ _ _ _ (State.store_memOk _ _ _ _ ht)))
theorem execFolmapU_memOk (f : LC) (s : State) (hs : Memory.wf s.mem = true) : Out.MemOk (execFolmapU f s) :=
  folioAt_memOk _ _ _ hs fun _ _ _ _ ht => State.wrG_memOk _ _ _ (State.remap_memOk _ _ _ _ _ ht)
theorem execFolref_memOk (f : LC) (s : State) (hs : Memory.wf s.mem = true) : Out.MemOk (execFolref f s) :=
  folioPool_memOk _ _ _ _ hs fun _ _ _ _ ht => State.folioDrop_memOk _ _ (State.store_memOk _ _ _ _ ht)
theorem execFoldrop_memOk (f : LC) (s : State) (hs : Memory.wf s.mem = true) : Out.MemOk (execFoldrop f s) :=
  folioPool_memOk _ _ _ _ hs fun _ _ _ _ ht => State.drop_memOk _ _ _ ht
theorem vldcDone_memOk (f : LM) (h : Hart) (j : VJob) (c : Scan) (hs : Memory.wf c.s.mem = true) : Memory.wf (vldcDone f h j c).mem = true := by
  have seen := State.noteSeen_memOk (c.s.verify (granules c.ks)) c.ks (State.verify_memOk _ _ hs)
  unfold vldcDone
  extract_lets p n el vals proto s1 raws s2 s3
  have hs2 : Memory.wf s2.mem = true := ite_memOk seen (State.keepReads_memOk _ _ _ _ _ _ (State.deliver_memOk _ _ _ _ _ _ seen) seen)
  have hs3 : Memory.wf s3.mem = true := State.bump_memOk _ _ _ _ (State.wrG_memOk _ _ _ (State.modCtrl_memOk _ _ hs2))
  split
  · exact hs3
  · split
    exact State.after_memOk _ _ (State.modCur_memOk _ _ (memOk_fst ‹_› (State.pushRecs_memOk _ _ _ hs3)))
theorem execSemts_memOk (f : SI) (s : State) (hs : Memory.wf s.mem = true) : Out.MemOk (execSemts f s) := by
  unfold execSemts
  repeat' with_reducible (first | assumption | apply onHart_memOk | refine memOk_fst (by assumption) ?_ | apply State.modDie_memOk | apply State.pend_memOk | apply State.retireG_memOk | apply State.atDie_memOk | dsimp only | split | apply memOk_of | intro)
theorem execSemtsTry_memOk (f : SI) (s : State) (hs : Memory.wf s.mem = true) : Out.MemOk (execSemtsTry f s) := by
  unfold execSemtsTry
  repeat' with_reducible (first | assumption | apply onHart_memOk | refine memOk_fst (by assumption) ?_ | apply State.modDie_memOk | apply State.retireG_memOk | apply State.atDie_memOk | dsimp only | split | apply memOk_of | intro)
theorem execSemclr_memOk (f : SR) (s : State) (hs : Memory.wf s.mem = true) : Out.MemOk (execSemclr f s) := by
  unfold execSemclr
  repeat' with_reducible (first | assumption | apply onHart_memOk | apply State.modDie_memOk | apply State.pend_memOk | apply State.drawn_memOk | apply State.retireG_memOk | apply State.atDie_memOk | dsimp only | split | apply memOk_of | intro)
theorem execCmrd_memOk (f : SR) (s : State) (hs : Memory.wf s.mem = true) : Out.MemOk (execCmrd f s) := by
  unfold execCmrd
  repeat' with_reducible (first | assumption | apply onHart_memOk | apply State.retireG_memOk | apply State.atDie_memOk | dsimp only | split | apply memOk_of | intro)
theorem execCmwr_memOk (f : SR) (s : State) (hs : Memory.wf s.mem = true) : Out.MemOk (execCmwr f s) := by
  unfold execCmwr
  repeat' with_reducible (first | assumption | apply onHart_memOk | apply State.modDie_memOk | apply State.retireG_memOk | apply State.atDie_memOk | dsimp only | split | apply memOk_of | intro)
theorem execBarwait_memOk (f : SI) (s : State) (hs : Memory.wf s.mem = true) : Out.MemOk (execBarwait f s) := by
  unfold execBarwait
  repeat' with_reducible (first | assumption | apply onHart_memOk | apply State.pend_memOk | apply State.retireG_memOk | dsimp only | split | apply memOk_of | intro)
theorem execBarwaitSet_memOk (f : SI) (s : State) (hs : Memory.wf s.mem = true) : Out.MemOk (execBarwaitSet f s) := by
  unfold execBarwaitSet
  repeat' with_reducible (first | assumption | apply onHart_memOk | apply State.retireG_memOk | apply State.setBar_memOk | dsimp only | split | apply memOk_of | intro)
theorem execLaunch_memOk (f : SR) (s : State) (hs : Memory.wf s.mem = true) : Out.MemOk (execLaunch f s) := by
  unfold execLaunch
  repeat' with_reducible (first | assumption | apply onHart_memOk | apply State.stall_memOk | apply State.noteSeen_memOk | apply State.memTrap_memOk | apply State.scalar_memOk | apply State.retireG_memOk | apply State.accept_memOk | dsimp only | split | apply memOk_of | intro)
theorem execSignal_memOk (f : SR) (s : State) (hs : Memory.wf s.mem = true) : Out.MemOk (execSignal f s) := by
  unfold execSignal
  repeat' with_reducible (first | assumption | apply onHart_memOk | apply State.pend_memOk | apply State.setRecAt_memOk | apply State.seeNote_memOk | apply State.retireG_memOk | apply State.atDie_memOk | dsimp only | split | apply memOk_of | intro)
theorem execCancel_memOk (f : SR) (s : State) (hs : Memory.wf s.mem = true) : Out.MemOk (execCancel f s) := by
  unfold execCancel
  repeat' with_reducible (first | assumption | apply onHart_memOk | apply State.pendServed_memOk | apply State.modGang_memOk | apply State.endGang_memOk | apply State.retireG_memOk | apply State.atDie_memOk | apply State.cancelUnplaced_memOk | dsimp only | split | apply memOk_of | intro)
theorem execNwait_memOk (f : SR) (s : State) (hs : Memory.wf s.mem = true) : Out.MemOk (execNwait f s) := by
  unfold execNwait
  repeat' with_reducible (first | assumption | apply onHart_memOk | apply State.pend_memOk | apply State.verify_memOk | apply State.noteSeen_memOk | apply State.retireG_memOk | dsimp only | split | apply memOk_of | intro)
theorem execNpost_memOk (f : SR) (s : State) (hs : Memory.wf s.mem = true) : Out.MemOk (execNpost f s) := by
  unfold execNpost
  repeat' with_reducible (first | assumption | apply onHart_memOk | apply State.pend_memOk | apply State.verify_memOk | apply State.sendHome_memOk | apply State.retireG_memOk | dsimp only | split | apply memOk_of | intro)
theorem execYield_memOk (f : SI) (s : State) (hs : Memory.wf s.mem = true) : Out.MemOk (execYield f s) := by
  unfold execYield
  repeat' with_reducible (first | assumption | apply onHart_memOk | apply State.modCur_memOk | apply State.pend_memOk | apply State.retireG_memOk | dsimp only | split | apply memOk_of | intro)
theorem execYieldGang_memOk (f : SI) (s : State) (hs : Memory.wf s.mem = true) : Out.MemOk (execYieldGang f s) := by
  unfold execYieldGang
  repeat' with_reducible (first | assumption | apply onHart_memOk | apply State.suspend_memOk | apply State.gangRuns_memOk | apply State.retireG_memOk | dsimp only | split | apply memOk_of | intro)
theorem execGexit_memOk (f : SR) (s : State) (hs : Memory.wf s.mem = true) : Out.MemOk (execGexit f s) := by
  unfold execGexit
  repeat' with_reducible (first | assumption | apply onHart_memOk | apply State.modCur_memOk | apply State.pend_memOk | apply State.modGang_memOk | apply State.endGang_memOk | apply State.releasePending_memOk | dsimp only | split | apply memOk_of | intro)
theorem execEret_memOk (f : SR) (s : State) (hs : Memory.wf s.mem = true) : Out.MemOk (execEret f s) := by
  unfold execEret
  repeat' with_reducible (first | assumption | apply onHart_memOk | apply State.illegal_memOk | apply State.leaveTrap_memOk | apply State.unstall_memOk | dsimp only | split | apply memOk_of | intro)
theorem execStest_memOk (f : SR) (s : State) (hs : Memory.wf s.mem = true) : Out.MemOk (execStest f s) := by
  unfold execStest
  repeat' with_reducible (first | assumption | apply onHart_memOk | apply State.modCore_memOk | apply State.pend_memOk | apply State.retireG_memOk | dsimp only | split | apply memOk_of | intro)
theorem execFrqpop_memOk (f : SR) (s : State) (hs : Memory.wf s.mem = true) : Out.MemOk (execFrqpop f s) := by
  unfold execFrqpop
  repeat' with_reducible (first | assumption | apply onHart_memOk | apply State.modCore_memOk | apply State.wrG_memOk | apply foldl_memOk | dsimp only | split | apply memOk_of | intro)
theorem execVldc_memOk (f : LM) (s : State) (hs : Memory.wf s.mem = true) : Out.MemOk (execVldc f s) := by
  unfold execVldc
  repeat' with_reducible (first | assumption | apply onHart_memOk | apply State.stall_memOk | apply State.operand_memOk | apply State.bump_memOk | refine State.farAsk_memOk _ _ _ ?_ (by assumption) | apply scan_memOk | apply vldcDone_memOk | dsimp only | split | apply memOk_of | intro)
theorem execDrv_memOk (f : LM) (s0 : State) (hs : Memory.wf s0.mem = true) : Out.MemOk (execDrv f s0) := by
  unfold execDrv
  repeat' with_reducible (first | assumption | apply onHart_memOk | apply next_memOk | apply State.stall_memOk | apply State.late_memOk | apply State.operand_memOk | apply State.setQueue_memOk | dsimp only | split | apply memOk_of | intro)
theorem execScc_memOk (f : LM) (s : State) (hs : Memory.wf s.mem = true) : Out.MemOk (execScc f s) := by
  unfold execScc
  repeat' with_reducible (first | assumption | apply onHart_memOk | apply sccGoesOn_memOk | apply vstore_memOk | dsimp only | split | apply memOk_of | intro)
theorem execFence_memOk (f : LM) (s : State) (hs : Memory.wf s.mem = true) : Out.MemOk (execFence f s) := by
  unfold execFence
  repeat' with_reducible (first | assumption | apply onHart_memOk | apply State.stall_memOk | apply State.pend_memOk | apply State.fence_memOk | dsimp only | split | apply memOk_of | intro)
theorem execBararr_memOk (f : LM) (s : State) (hs : Memory.wf s.mem = true) : Out.MemOk (execBararr f s) := by
  unfold execBararr
  repeat' with_reducible (first | assumption | apply onHart_memOk | apply State.modCur_memOk | apply State.pend_memOk | apply State.arrive_memOk | apply State.setBar_memOk | dsimp only | split | apply memOk_of | intro)
theorem execCpstWait_memOk (f : LC) (s : State) (hs : Memory.wf s.mem = true) : Out.MemOk (execCpstWait f s) := by
  unfold execCpstWait
  repeat' with_reducible (first | assumption | apply onHart_memOk | apply State.wrG_memOk | apply State.stall_memOk | dsimp only | split | apply memOk_of | intro)
theorem execPacketIssue_memOk (s : State) (hs : Memory.wf s.mem = true) : Out.MemOk (execPacketIssue s) := by
  unfold execPacketIssue
  repeat' with_reducible (first | assumption | apply below_memOk | apply State.issuePacket_memOk | dsimp only | split | apply memOk_of)
theorem execVectorAccessComplete_memOk (s : State) (hs : Memory.wf s.mem = true) : Out.MemOk (execVectorAccessComplete s) := by
  unfold execVectorAccessComplete
  repeat' with_reducible (first | assumption | apply below_memOk | apply State.elementNow_memOk | apply State.elementFails_memOk | apply State.accessDone_memOk | dsimp only | split | apply memOk_of)
theorem execWriteHomeMoment_memOk (s : State) (hs : Memory.wf s.mem = true) : Out.MemOk (execWriteHomeMoment s) := by
  unfold execWriteHomeMoment
  repeat' with_reducible (first | assumption | apply next_memOk | apply State.homeMoment_memOk | apply State.writeFails_memOk | apply State.peerRequest_memOk | dsimp only | split | apply memOk_of)
theorem execCopyCommandStart_memOk (s : State) (hs : Memory.wf s.mem = true) : Out.MemOk (execCopyCommandStart s) := by
  unfold execCopyCommandStart
  repeat' with_reducible (first | assumption | refine memOk_fst (by assumption) ?_ | apply State.hopFailure_memOk | apply State.setEngQ_memOk | apply CopyCmd.readOne_memOk | apply State.copyStart_memOk | refine engineOf_memOk hs fun _ _ _ => ?_ | dsimp only | split | apply memOk_of)
theorem execCopyChunkVisible_memOk (s : State) (hs : Memory.wf s.mem = true) : Out.MemOk (execCopyChunkVisible s) := by
  unfold execCopyChunkVisible
  repeat' with_reducible (first | assumption | refine memOk_fst (by assumption) ?_ | apply State.drop_memOk | apply State.setEngQ_memOk | apply State.chunkBit_memOk | apply State.engineWrites_memOk | refine engineOf_memOk hs fun _ _ _ => ?_ | apply foldl_fst_memOk | dsimp only | split | apply memOk_of)
theorem execBarrierCredit_memOk (s : State) (hs : Memory.wf s.mem = true) : Out.MemOk (execBarrierCredit s) := by
  unfold execBarrierCredit
  repeat' with_reducible (first | assumption | apply State.modGang_memOk | apply State.setEngQ_memOk | refine engineOf_memOk hs fun _ _ _ => ?_ | dsimp only | split | apply memOk_of)
theorem execCopyCommandComplete_memOk (s : State) (hs : Memory.wf s.mem = true) : Out.MemOk (execCopyCommandComplete s) := by
  unfold execCopyCommandComplete
  repeat' with_reducible (first | assumption | refine memOk_fst (by assumption) ?_ | apply State.event_memOk | apply State.setEngQ_memOk | apply CopyCmd.finish_memOk | apply State.finish_memOk | refine engineOf_memOk hs fun _ _ _ => ?_ | dsimp only | split | apply memOk_of)
theorem execCatalogueCommandComplete_memOk (s : State) (hs : Memory.wf s.mem = true) : Out.MemOk (execCatalogueCommandComplete s) := by
  unfold execCatalogueCommandComplete
  repeat' with_reducible (first | assumption | apply below_memOk | apply State.catComplete_memOk | apply State.catFromAway_memOk | dsimp only | split | apply memOk_of)
theorem execRegisterWrite_memOk (s : State) (hs : Memory.wf s.mem = true) : Out.MemOk (execRegisterWrite s) := by
  unfold execRegisterWrite
  repeat' with_reducible (first | assumption | apply below_memOk | apply State.regWrite_memOk | dsimp only | split | apply memOk_of)
theorem execGangPlace_memOk (s : State) (hs : Memory.wf s.mem = true) : Out.MemOk (execGangPlace s) := by
  unfold execGangPlace
  repeat' with_reducible (first | assumption | apply below_memOk | apply State.place_memOk | dsimp only | split | apply memOk_of)
theorem execGangResume_memOk (s : State) (hs : Memory.wf s.mem = true) : Out.MemOk (execGangResume s) := by
  unfold execGangResume
  repeat' with_reducible (first | assumption | apply below_memOk | apply State.resume_memOk | dsimp only | split | apply memOk_of)
theorem execReclaimTimeout_memOk (s : State) (hs : Memory.wf s.mem = true) : Out.MemOk (execReclaimTimeout s) := by
  unfold execReclaimTimeout
  repeat' with_reducible (first | assumption | apply below_memOk | apply State.suspend_memOk | dsimp only | split | apply memOk_of)
theorem execGroupRelease_memOk (s : State) (hs : Memory.wf s.mem = true) : Out.MemOk (execGroupRelease s) := by
  unfold execGroupRelease
  repeat' with_reducible (first | assumption | apply below_memOk | apply State.setGang_memOk | dsimp only | split | apply memOk_of)
theorem execGangEnd_memOk (s : State) (hs : Memory.wf s.mem = true) : Out.MemOk (execGangEnd s) := by
  unfold execGangEnd
  repeat' with_reducible (first | assumption | apply below_memOk | apply State.dropSem_memOk | apply State.endWord_memOk | apply State.releaseCore_memOk | apply State.freeRec_memOk | apply foldl_memOk | dsimp only | split | apply memOk_of | intro)
theorem execYieldWake_memOk (s : State) (hs : Memory.wf s.mem = true) : Out.MemOk (execYieldWake s) := by
  unfold execYieldWake
  repeat' with_reducible (first | assumption | apply below_memOk | apply State.setHart_memOk | apply State.pend_memOk | apply State.gangRuns_memOk | apply State.settle_memOk | dsimp only | split | apply memOk_of)
theorem execStestDone_memOk (s : State) (hs : Memory.wf s.mem = true) : Out.MemOk (execStestDone s) := by
  unfold execStestDone
  repeat' with_reducible (first | assumption | apply below_memOk | apply State.testEnds_memOk | dsimp only | split | apply memOk_of)
theorem execStestAbort_memOk (s : State) (hs : Memory.wf s.mem = true) : Out.MemOk (execStestAbort s) := by
  unfold execStestAbort
  repeat' with_reducible (first | assumption | apply below_memOk | apply State.testEnds_memOk | dsimp only | split | apply memOk_of)
theorem execLaneShadowRotate_memOk (s : State) (hs : Memory.wf s.mem = true) : Out.MemOk (execLaneShadowRotate s) := by
  unfold execLaneShadowRotate
  repeat' with_reducible (first | assumption | apply onLink_memOk | apply State.rotate_memOk | dsimp only | split | apply memOk_of)
theorem execRetrainDone_memOk (s : State) (hs : Memory.wf s.mem = true) : Out.MemOk (execRetrainDone s) := by
  unfold execRetrainDone
  repeat' with_reducible (first | assumption | apply onLink_memOk | apply State.retrained_memOk | dsimp only | split | apply memOk_of)
theorem execFlitCrcError_memOk (s : State) (hs : Memory.wf s.mem = true) : Out.MemOk (execFlitCrcError s) := by
  unfold execFlitCrcError
  repeat' with_reducible (first | assumption | apply onLink_memOk | apply State.flitError_memOk | dsimp only | split | apply memOk_of)
theorem execLinkDown_memOk (s : State) (hs : Memory.wf s.mem = true) : Out.MemOk (execLinkDown s) := by
  unfold execLinkDown
  repeat' with_reducible (first | assumption | apply onLink_memOk | apply State.linkFails_memOk | dsimp only | split | apply memOk_of)
theorem execOrphanCompletion_memOk (s : State) (hs : Memory.wf s.mem = true) : Out.MemOk (execOrphanCompletion s) := by
  unfold execOrphanCompletion
  repeat' with_reducible (first | assumption | apply next_memOk | refine memOk_fst (by assumption) ?_ | apply State.orphan_memOk | dsimp only | split | apply memOk_of)
theorem execFencedSelftestDone_memOk (s : State) (hs : Memory.wf s.mem = true) : Out.MemOk (execFencedSelftestDone s) := by
  unfold execFencedSelftestDone
  repeat' with_reducible (first | assumption | apply below_memOk | apply State.event_memOk | apply State.modWit_memOk | apply State.testLeaves_memOk | dsimp only | split | apply memOk_of)
theorem execPtpMessage_memOk (s : State) (hs : Memory.wf s.mem = true) : Out.MemOk (execPtpMessage s) := by
  unfold execPtpMessage
  repeat' with_reducible (first | assumption | apply next_memOk | apply State.ptp_memOk | dsimp only | split | apply memOk_of)
theorem execEepromRead_memOk (s : State) (hs : Memory.wf s.mem = true) : Out.MemOk (execEepromRead s) := by
  unfold execEepromRead
  repeat' with_reducible (first | assumption | apply below_memOk | apply State.put_memOk | dsimp only | split | apply memOk_of)
theorem execEepromWrite_memOk (s : State) (hs : Memory.wf s.mem = true) : Out.MemOk (execEepromWrite s) := by
  unfold execEepromWrite
  repeat' with_reducible (first | assumption | apply below_memOk | apply State.modHub_memOk | dsimp only | split | apply memOk_of)
theorem execEvacSaveDone_memOk (s : State) (hs : Memory.wf s.mem = true) : Out.MemOk (execEvacSaveDone s) := by
  unfold execEvacSaveDone
  repeat' with_reducible (first | assumption | apply next_memOk | apply State.put_memOk | apply State.modEvac_memOk | apply State.suspendAll_memOk | apply State.writeImage_memOk | apply foldl_memOk | dsimp only | split | apply memOk_of | intro)
theorem execEvacOfferAnswer_memOk (s : State) (hs : Memory.wf s.mem = true) : Out.MemOk (execEvacOfferAnswer s) := by
  unfold execEvacOfferAnswer
  repeat' with_reducible (first | assumption | apply next_memOk | apply State.modEvac_memOk | apply State.evacFail_memOk | dsimp only | split | apply memOk_of)
theorem execEvacOfferTimeout_memOk (s : State) (hs : Memory.wf s.mem = true) : Out.MemOk (execEvacOfferTimeout s) := by
  unfold execEvacOfferTimeout
  repeat' with_reducible (first | assumption | apply next_memOk | apply State.evacFail_memOk | dsimp only | split | apply memOk_of)
theorem execEvacCopyDone_memOk (s : State) (hs : Memory.wf s.mem = true) : Out.MemOk (execEvacCopyDone s) := by
  unfold execEvacCopyDone
  repeat' with_reducible (first | assumption | apply next_memOk | apply State.put_memOk | apply State.modEvac_memOk | apply State.copyOut_memOk | dsimp only | split | apply memOk_of)
theorem execEvacDrainDone_memOk (s : State) (hs : Memory.wf s.mem = true) : Out.MemOk (execEvacDrainDone s) := by
  unfold execEvacDrainDone
  repeat' with_reducible (first | assumption | apply next_memOk | apply State.modEvac_memOk | apply State.service_memOk | apply State.evacFail_memOk | dsimp only | split | apply memOk_of)
theorem execEvacTimeout_memOk (s : State) (hs : Memory.wf s.mem = true) : Out.MemOk (execEvacTimeout s) := by
  unfold execEvacTimeout
  repeat' with_reducible (first | assumption | apply next_memOk | apply State.evacFail_memOk | dsimp only | split | apply memOk_of)
theorem execEvacClaim_memOk (s : State) (hs : Memory.wf s.mem = true) : Out.MemOk (execEvacClaim s) := by
  unfold execEvacClaim
  repeat' with_reducible (first | assumption | apply next_memOk | apply State.put_memOk | apply State.modEvac_memOk | dsimp only | split | apply memOk_of)
theorem execPepperGeneratorStep_memOk (s : State) (hs : Memory.wf s.mem = true) : Out.MemOk (execPepperGeneratorStep s) := by
  unfold execPepperGeneratorStep
  repeat' with_reducible (first | assumption | apply next_memOk | apply State.portRound_memOk | dsimp only | split | apply memOk_of)
theorem execEvacFreezeDone_memOk (s : State) (hs : Memory.wf s.mem = true) : Out.MemOk (execEvacFreezeDone s) := by
  unfold execEvacFreezeDone
  repeat' with_reducible (first | assumption | apply next_memOk | apply State.modEvac_memOk | apply State.suspendAll_memOk | apply State.abortTests_memOk | dsimp only | split | apply memOk_of)
theorem execFirmwareRetrain_memOk (s : State) (hs : Memory.wf s.mem = true) : Out.MemOk (execFirmwareRetrain s) := by
  unfold execFirmwareRetrain
  repeat' with_reducible (first | assumption | apply onLink_memOk | apply State.modLink_memOk | dsimp only | split | apply memOk_of)
theorem execManagementControllerAccess_memOk (s : State) (hs : Memory.wf s.mem = true) : Out.MemOk (execManagementControllerAccess s) := by
  unfold execManagementControllerAccess
  repeat' with_reducible (first | assumption | apply next_memOk | apply State.put_memOk | apply State.measure_memOk | apply State.ctlWrite_memOk | dsimp only | split | apply memOk_of)

end Sys2Proof.Machine
end

section
/-! Memory stays canonical (log 1): through every instruction and event, through a packet and its end, and so through a step. -/
namespace Sys2Proof.Machine
open Sys2Proof

/-- Whatever an instruction or event does, memory keeps its canonical form. -/
theorem exec_memOk (i : Instr) (s : State) (hs : Memory.wf s.mem = true) : Out.MemOk (exec i s) :=
  match i with
  | .add f => (onHart_memOk fun _ => State.wrG_memOk _ _ _ hs : Out.MemOk (execAdd f s))
  | .sub f => (onHart_memOk fun _ => State.wrG_memOk _ _ _ hs : Out.MemOk (execSub f s))
  | .mul f => (onHart_memOk fun _ => State.wrG_memOk _ _ _ hs : Out.MemOk (execMul f s))
  | .mulh f => (onHart_memOk fun _ => State.wrG_memOk _ _ _ hs : Out.MemOk (execMulh f s))
  | .mulhu f => (onHart_memOk fun _ => State.wrG_memOk _ _ _ hs : Out.MemOk (execMulhu f s))
  | .div f => (onHart_memOk fun _ => State.wrG_memOk _ _ _ hs : Out.MemOk (execDiv f s))
  | .divu f => (onHart_memOk fun _ => State.wrG_memOk _ _ _ hs : Out.MemOk (execDivu f s))
  | .rem f => (onHart_memOk fun _ => State.wrG_memOk _ _ _ hs : Out.MemOk (execRem f s))
  | .remu f => (onHart_memOk fun _ => State.wrG_memOk _ _ _ hs : Out.MemOk (execRemu f s))
  | .and f => (onHart_memOk fun _ => State.wrG_memOk _ _ _ hs : Out.MemOk (execAnd f s))
  | .or f => (onHart_memOk fun _ => State.wrG_memOk _ _ _ hs : Out.MemOk (execOr f s))
  | .xor f => (onHart_memOk fun _ => State.wrG_memOk _ _ _ hs : Out.MemOk (execXor f s))
  | .shl f => (onHart_memOk fun _ => State.wrG_memOk _ _ _ hs : Out.MemOk (execShl f s))
  | .shr f => (onHart_memOk fun _ => State.wrG_memOk _ _ _ hs : Out.MemOk (execShr f s))
  | .sra f => (onHart_memOk fun _ => State.wrG_memOk _ _ _ hs : Out.MemOk (execSra f s))
  | .addi f => (onHart_memOk fun _ => State.wrG_memOk _ _ _ hs : Out.MemOk (execAddi f s))
  | .andi f => (onHart_memOk fun _ => State.wrG_memOk _ _ _ hs : Out.MemOk (execAndi f s))
  | .ori f => (onHart_memOk fun _ => State.wrG_memOk _ _ _ hs : Out.MemOk (execOri f s))
  | .xori f => (onHart_memOk fun _ => State.wrG_memOk _ _ _ hs : Out.MemOk (execXori f s))
  | .shli f => (onHart_memOk fun _ => State.wrG_memOk _ _ _ hs : Out.MemOk (execShli f s))
  | .shri f => (onHart_memOk fun _ => State.wrG_memOk _ _ _ hs : Out.MemOk (execShri f s))
  | .srai f => (onHart_memOk fun _ => State.wrG_memOk _ _ _ hs : Out.MemOk (execSrai f s))
  | .lui f => (onHart_memOk fun _ => State.wrG_memOk _ _ _ hs : Out.MemOk (execLui f s))
  | .seq f => (onHart_memOk fun _ => State.wrG_memOk _ _ _ hs : Out.MemOk (execSeq f s))
  | .sne f => (onHart_memOk fun _ => State.wrG_memOk _ _ _ hs : Out.MemOk (execSne f s))
  | .slt f => (onHart_memOk fun _ => State.wrG_memOk _ _ _ hs : Out.MemOk (execSlt f s))
  | .sltu f => (onHart_memOk fun _ => State.wrG_memOk _ _ _ hs : Out.MemOk (execSltu f s))
  | .sle f => (onHart_memOk fun _ => State.wrG_memOk _ _ _ hs : Out.MemOk (execSle f s))
  | .sleu f => (onHart_memOk fun _ => State.wrG_memOk _ _ _ hs : Out.MemOk (execSleu f s))
  | .min f => (onHart_memOk fun _ => State.wrG_memOk _ _ _ hs : Out.MemOk (execMin f s))
  | .max f => (onHart_memOk fun _ => State.wrG_memOk _ _ _ hs : Out.MemOk (execMax f s))
  | .aadd f => (onHart_memOk fun _ => State.wrA_memOk _ _ _ hs : Out.MemOk (execAadd f s))
  | .aaddi f => (onHart_memOk fun _ => State.wrA_memOk _ _ _ hs : Out.MemOk (execAaddi f s))
  | .asub f => (onHart_memOk fun _ => State.wrG_memOk _ _ _ hs : Out.MemOk (execAsub f s))
  | .amovg f => (onHart_memOk fun _ => State.wrA_memOk _ _ _ hs : Out.MemOk (execAmovg f s))
  | .amova f => (onHart_memOk fun _ => State.wrG_memOk _ _ _ hs : Out.MemOk (execAmova f s))
  | .ahi f => (onHart_memOk fun _ => State.wrA_memOk _ _ _ hs : Out.MemOk (execAhi f s))
  | .ahig f => (onHart_memOk fun _ => State.wrA_memOk _ _ _ hs : Out.MemOk (execAhig f s))
  | .fadd f => (onHart_memOk fun _ => State.wrG_memOk _ _ _ hs : Out.MemOk (execFadd f s))
  | .fsub f => (onHart_memOk fun _ => State.wrG_memOk _ _ _ hs : Out.MemOk (execFsub f s))
  | .fmul f => (onHart_memOk fun _ => State.wrG_memOk _ _ _ hs : Out.MemOk (execFmul f s))
  | .ffma f => (onHart_memOk fun _ => State.wrG_memOk _ _ _ hs : Out.MemOk (execFfma f s))
  | .fdiv f => (onHart_memOk fun _ => State.wrG_memOk _ _ _ hs : Out.MemOk (execFdiv f s))
  | .fsqrt f => (onHart_memOk fun _ => State.wrG_memOk _ _ _ hs : Out.MemOk (execFsqrt f s))
  | .fmin f => (onHart_memOk fun _ => State.wrG_memOk _ _ _ hs : Out.MemOk (execFmin f s))
  | .fmax f => (onHart_memOk fun _ => State.wrG_memOk _ _ _ hs : Out.MemOk (execFmax f s))
  | .fcmpeq f => (onHart_memOk fun _ => State.wrG_memOk _ _ _ hs : Out.MemOk (execFcmpeq f s))
  | .fcmplt f => (onHart_memOk fun _ => State.wrG_memOk _ _ _ hs : Out.MemOk (execFcmplt f s))
  | .fcmple f => (onHart_memOk fun _ => State.wrG_memOk _ _ _ hs : Out.MemOk (execFcmple f s))
  | .fcvtI f => (onHart_memOk fun _ => State.wrG_memOk _ _ _ hs : Out.MemOk (execFcvtI f s))
  | .fcvtF f => (onHart_memOk fun _ => State.wrG_memOk _ _ _ hs : Out.MemOk (execFcvtF f s))
  | .fclass f => (onHart_memOk fun _ => State.wrG_memOk _ _ _ hs : Out.MemOk (execFclass f s))
  | .beq f => (branchIf_memOk _ _ _ hs : Out.MemOk (execBeq f s))
  | .bne f => (branchIf_memOk _ _ _ hs : Out.MemOk (execBne f s))
  | .blt f => (branchIf_memOk _ _ _ hs : Out.MemOk (execBlt f s))
  | .bltu f => (branchIf_memOk _ _ _ hs : Out.MemOk (execBltu f s))
  | .bge f => (branchIf_memOk _ _ _ hs : Out.MemOk (execBge f s))
  | .bgeu f => (branchIf_memOk _ _ _ hs : Out.MemOk (execBgeu f s))
  | .bz f => (branchIf_memOk _ _ _ hs : Out.MemOk (execBz f s))
  | .bnz f => (branchIf_memOk _ _ _ hs : Out.MemOk (execBnz f s))
  | .jmp f => (onHart_memOk fun _ => State.jump_memOk _ _ hs : Out.MemOk (execJmp f s))
  | .jal f => (onHart_memOk fun _ => State.jump_memOk _ _ (State.wrA_memOk _ _ _ hs) : Out.MemOk (execJal f s))
  | .jr f => (onHart_memOk fun _ => State.jump_memOk _ _ hs : Out.MemOk (execJr f s))
  | .ret f => (onHart_memOk fun _ => State.jump_memOk _ _ hs : Out.MemOk (execRet f s))
  | .movs f => (onHart_memOk fun _ => State.wrG_memOk _ _ _ hs : Out.MemOk (execMovs f s))
  | .movd f => (onHart_memOk fun _ => State.crWrite_memOk _ _ _ _ hs : Out.MemOk (execMovd f s))
  | .setvl f => (setLength_memOk _ _ _ hs : Out.MemOk (execSetvl f s))
  | .setmvl f => (setLength_memOk _ _ _ hs : Out.MemOk (execSetmvl f s))
  | .semts f => execSemts_memOk f s hs
  | .semtsTry f => execSemtsTry_memOk f s hs
  | .semclr f => execSemclr_memOk f s hs
  | .cmrd f => execCmrd_memOk f s hs
  | .cmwr f => execCmwr_memOk f s hs
  | .barwait f => execBarwait_memOk f s hs
  | .barwaitSet f => execBarwaitSet_memOk f s hs
  | .launch f => execLaunch_memOk f s hs
  | .signal f => execSignal_memOk f s hs
  | .cancel f => execCancel_memOk f s hs
  | .nwait f => execNwait_memOk f s hs
  | .npost f => execNpost_memOk f s hs
  | .yield f => execYield_memOk f s hs
  | .yieldGang f => execYieldGang_memOk f s hs
  | .gexit f => execGexit_memOk f s hs
  | .pbcrd f => (onHart_memOk fun _ => State.wrG_memOk _ _ _ hs : Out.MemOk (execPbcrd f s))
  | .trap f => (onHart_memOk fun _ => State.after_memOk _ _ hs : Out.MemOk (execTrap f s))
  | .eret f => execEret_memOk f s hs
  | .stest f => execStest_memOk f s hs
  | .nop f => (onHart_memOk fun _ => hs : Out.MemOk (execNop f s))
  | .frqpop f => execFrqpop_memOk f s hs
  | .ldB f => (loadInt_memOk _ _ _ _ hs : Out.MemOk (execLdB f s))
  | .ldH f => (loadInt_memOk _ _ _ _ hs : Out.MemOk (execLdH f s))
  | .ldW f => (loadInt_memOk _ _ _ _ hs : Out.MemOk (execLdW f s))
  | .ldD f => (loadInt_memOk _ _ _ _ hs : Out.MemOk (execLdD f s))
  | .lduB f => (loadInt_memOk _ _ _ _ hs : Out.MemOk (execLduB f s))
  | .lduH f => (loadInt_memOk _ _ _ _ hs : Out.MemOk (execLduH f s))
  | .lduW f => (loadInt_memOk _ _ _ _ hs : Out.MemOk (execLduW f s))
  | .stB f => (scalarStore_memOk _ _ _ _ hs : Out.MemOk (execStB f s))
  | .stH f => (scalarStore_memOk _ _ _ _ hs : Out.MemOk (execStH f s))
  | .stW f => (scalarStore_memOk _ _ _ _ hs : Out.MemOk (execStW f s))
  | .stD f => (scalarStore_memOk _ _ _ _ hs : Out.MemOk (execStD f s))
  | .lda f => (scalarLoad_memOk _ _ _ _ hs fun _ _ ht => State.wrA_memOk _ _ _ ht : Out.MemOk (execLda f s))
  | .sta f => (scalarStore_memOk _ _ _ _ hs : Out.MemOk (execSta f s))
  | .vld f => (vload_memOk _ _ _ _ _ hs : Out.MemOk (execVld f s))
  | .vlds f => (vload_memOk _ _ _ _ _ hs : Out.MemOk (execVlds f s))
  | .vldseg f => (vload_memOk _ _ _ _ _ hs : Out.MemOk (execVldseg f s))
  | .vldx f => (vload_memOk _ _ _ _ _ hs : Out.MemOk (execVldx f s))
  | .vldc f => execVldc_memOk f s hs
  | .vpf f => (onHart_memOk fun _ => State.bump_memOk _ _ _ _ hs : Out.MemOk (execVpf f s))
  | .vst f => (vstore_memOk _ _ _ _ hs : Out.MemOk (execVst f s))
  | .vsts f => (vstore_memOk _ _ _ _ hs : Out.MemOk (execVsts f s))
  | .vstseg f => (vstore_memOk _ _ _ _ hs : Out.MemOk (execVstseg f s))
  | .vstx f => (vstore_memOk _ _ _ _ hs : Out.MemOk (execVstx f s))
  | .drv f => execDrv_memOk f s hs
  | .amoadd f => (amo_memOk _ _ _ hs : Out.MemOk (execAmoadd f s))
  | .amomin f => (amo_memOk _ _ _ hs : Out.MemOk (execAmomin f s))
  | .amomax f => (amo_memOk _ _ _ hs : Out.MemOk (execAmomax f s))
  | .amoand f => (amo_memOk _ _ _ hs : Out.MemOk (execAmoand f s))
  | .amoor f => (amo_memOk _ _ _ hs : Out.MemOk (execAmoor f s))
  | .amoxor f => (amo_memOk _ _ _ hs : Out.MemOk (execAmoxor f s))
  | .amoswp f => (amo_memOk _ _ _ hs : Out.MemOk (execAmoswp f s))
  | .amocas f => (amo_memOk _ _ _ hs : Out.MemOk (execAmocas f s))
  | .vamoadd f => (vamo_memOk _ _ _ _ hs : Out.MemOk (execVamoadd f s))
  | .vamomin f => (vamo_memOk _ _ _ _ hs : Out.MemOk (execVamomin f s))
  | .vamomax f => (vamo_memOk _ _ _ _ hs : Out.MemOk (execVamomax f s))
  | .vamoswp f => (vamo_memOk _ _ _ _ hs : Out.MemOk (execVamoswp f s))
  | .gll f => (vload_memOk _ _ _ _ _ hs : Out.MemOk (execGll f s))
  | .scc f => execScc_memOk f s hs
  | .fence f => execFence_memOk f s hs
  | .bararr f => execBararr_memOk f s hs
  | .cpy f => (copySlot_memOk _ _ _ hs : Out.MemOk (execCpy f s))
  | .cpyx f => (copySlot_memOk _ _ _ hs : Out.MemOk (execCpyx f s))
  | .cpym f => (copySlot_memOk _ _ _ hs : Out.MemOk (execCpym f s))
  | .cpyb f => (copySlot_memOk _ _ _ hs : Out.MemOk (execCpyb f s))
  | .cpst f => (onHart_memOk fun _ => State.wrG_memOk _ _ _ hs : Out.MemOk (execCpst f s))
  | .cpstWait f => execCpstWait_memOk f s hs
  | .catq f => (catSlot_memOk _ _ _ hs : Out.MemOk (execCatq f s))
  | .catu f => (catSlot_memOk _ _ _ hs : Out.MemOk (execCatu f s))
  | .folmap f => execFolmap_memOk f s hs
  | .folmapU f => execFolmapU_memOk f s hs
  | .folref f => execFolref_memOk f s hs
  | .foldrop f => execFoldrop_memOk f s hs
  | .vadd f => (onHart_memOk fun _ => vDrive_memOk _ _ _ hs : Out.MemOk (execVadd f s))
  | .vsub f => (onHart_memOk fun _ => vDrive_memOk _ _ _ hs : Out.MemOk (execVsub f s))
  | .vmul f => (onHart_memOk fun _ => vDrive_memOk _ _ _ hs : Out.MemOk (execVmul f s))
  | .vfma f => (onHart_memOk fun _ => vDrive_memOk _ _ _ hs : Out.MemOk (execVfma f s))
  | .vfms f => (onHart_memOk fun _ => vDrive_memOk _ _ _ hs : Out.MemOk (execVfms f s))
  | .vfnma f => (onHart_memOk fun _ => vDrive_memOk _ _ _ hs : Out.MemOk (execVfnma f s))
  | .vmin f => (onHart_memOk fun _ => vDrive_memOk _ _ _ hs : Out.MemOk (execVmin f s))
  | .vmax f => (onHart_memOk fun _ => vDrive_memOk _ _ _ hs : Out.MemOk (execVmax f s))
  | .vabs f => (onHart_memOk fun _ => vDrive_memOk _ _ _ hs : Out.MemOk (execVabs f s))
  | .vneg f => (onHart_memOk fun _ => vDrive_memOk _ _ _ hs : Out.MemOk (execVneg f s))
  | .vand f => (onHart_memOk fun _ => vDrive_memOk _ _ _ hs : Out.MemOk (execVand f s))
  | .vor f => (onHart_memOk fun _ => vDrive_memOk _ _ _ hs : Out.MemOk (execVor f s))
  | .vxor f => (onHart_memOk fun _ => vDrive_memOk _ _ _ hs : Out.MemOk (execVxor f s))
  | .vshl f => (onHart_memOk fun _ => vDrive_memOk _ _ _ hs : Out.MemOk (execVshl f s))
  | .vshr f => (onHart_memOk fun _ => vDrive_memOk _ _ _ hs : Out.MemOk (execVshr f s))
  | .vsra f => (onHart_memOk fun _ => vDrive_memOk _ _ _ hs : Out.MemOk (execVsra f s))
  | .vrcpe f => (onHart_memOk fun _ => vDrive_memOk _ _ _ hs : Out.MemOk (execVrcpe f s))
  | .vrsqe f => (onHart_memOk fun _ => vDrive_memOk _ _ _ hs : Out.MemOk (execVrsqe f s))
  | .vgetexp f => (onHart_memOk fun _ => vDrive_memOk _ _ _ hs : Out.MemOk (execVgetexp f s))
  | .vscaleb f => (onHart_memOk fun _ => vDrive_memOk _ _ _ hs : Out.MemOk (execVscaleb f s))
  | .vrint f => (onHart_memOk fun _ => vDrive_memOk _ _ _ hs : Out.MemOk (execVrint f s))
  | .vcmpeq f => (onHart_memOk fun _ => vDrive_memOk _ _ _ hs : Out.MemOk (execVcmpeq f s))
  | .vcmpne f => (onHart_memOk fun _ => vDrive_memOk _ _ _ hs : Out.MemOk (execVcmpne f s))
  | .vcmplt f => (onHart_memOk fun _ => vDrive_memOk _ _ _ hs : Out.MemOk (execVcmplt f s))
  | .vcmple f => (onHart_memOk fun _ => vDrive_memOk _ _ _ hs : Out.MemOk (execVcmple f s))
  | .vcmpltu f => (onHart_memOk fun _ => vDrive_memOk _ _ _ hs : Out.MemOk (execVcmpltu f s))
  | .vcmpleu f => (onHart_memOk fun _ => vDrive_memOk _ _ _ hs : Out.MemOk (execVcmpleu f s))
  | .kand f => (onHart_memOk fun _ => vDrive_memOk _ _ _ hs : Out.MemOk (execKand f s))
  | .kor f => (onHart_memOk fun _ => vDrive_memOk _ _ _ hs : Out.MemOk (execKor f s))
  | .kxor f => (onHart_memOk fun _ => vDrive_memOk _ _ _ hs : Out.MemOk (execKxor f s))
  | .knot f => (onHart_memOk fun _ => vDrive_memOk _ _ _ hs : Out.MemOk (execKnot f s))
  | .kmov f => (onHart_memOk fun _ => vDrive_memOk _ _ _ hs : Out.MemOk (execKmov f s))
  | .kpop f => (onHart_memOk fun _ => vDrive_memOk _ _ _ hs : Out.MemOk (execKpop f s))
  | .kpois f => (onHart_memOk fun _ => vDrive_memOk _ _ _ hs : Out.MemOk (execKpois f s))
  | .kfirst f => (onHart_memOk fun _ => vDrive_memOk _ _ _ hs : Out.MemOk (execKfirst f s))
  | .vsel f => (onHart_memOk fun _ => vDrive_memOk _ _ _ hs : Out.MemOk (execVsel f s))
  | .vbcast f => (onHart_memOk fun _ => vDrive_memOk _ _ _ hs : Out.MemOk (execVbcast f s))
  | .vmov f => (onHart_memOk fun _ => vDrive_memOk _ _ _ hs : Out.MemOk (execVmov f s))
  | .vzero f => (onHart_memOk fun _ => vDrive_memOk _ _ _ hs : Out.MemOk (execVzero f s))
  | .vperm f => (onHart_memOk fun _ => vDrive_memOk _ _ _ hs : Out.MemOk (execVperm f s))
  | .vrot f => (onHart_memOk fun _ => vDrive_memOk _ _ _ hs : Out.MemOk (execVrot f s))
  | .gxpose f => (onHart_memOk fun _ => vDrive_memOk _ _ _ hs : Out.MemOk (execGxpose f s))
  | .vtag f => (onHart_memOk fun _ => vDrive_memOk _ _ _ hs : Out.MemOk (execVtag f s))
  | .vcompress f => (onHart_memOk fun _ => vDrive_memOk _ _ _ hs : Out.MemOk (execVcompress f s))
  | .vexpand f => (onHart_memOk fun _ => vDrive_memOk _ _ _ hs : Out.MemOk (execVexpand f s))
  | .vrsum f => (onHart_memOk fun _ => vDrive_memOk _ _ _ hs : Out.MemOk (execVrsum f s))
  | .vrmax f => (onHart_memOk fun _ => vDrive_memOk _ _ _ hs : Out.MemOk (execVrmax f s))
  | .vrmin f => (onHart_memOk fun _ => vDrive_memOk _ _ _ hs : Out.MemOk (execVrmin f s))
  | .vramax f => (onHart_memOk fun _ => vDrive_memOk _ _ _ hs : Out.MemOk (execVramax f s))
  | .vrbx f => (onHart_memOk fun _ => vDrive_memOk _ _ _ hs : Out.MemOk (execVrbx f s))
  | .vrexp f => (onHart_memOk fun _ => vDrive_memOk _ _ _ hs : Out.MemOk (execVrexp f s))
  | .cvtN f => (onHart_memOk fun _ => vDrive_memOk _ _ _ hs : Out.MemOk (execCvtN f s))
  | .cvtW f => (onHart_memOk fun _ => vDrive_memOk _ _ _ hs : Out.MemOk (execCvtW f s))
  | .cvtF4 f => (onHart_memOk fun _ => vDrive_memOk _ _ _ hs : Out.MemOk (execCvtF4 f s))
  | .cvtI f => (onHart_memOk fun _ => vDrive_memOk _ _ _ hs : Out.MemOk (execCvtI f s))
  | .cvtF f => (onHart_memOk fun _ => vDrive_memOk _ _ _ hs : Out.MemOk (execCvtF f s))
  | .vquant f => (onHart_memOk fun _ => vDrive_memOk _ _ _ hs : Out.MemOk (execVquant f s))
  | .setsc f => (onHart_memOk fun _ => vDrive_memOk _ _ _ hs : Out.MemOk (execSetsc f s))
  | .bxadd f => (onHart_memOk fun _ => vDrive_memOk _ _ _ hs : Out.MemOk (execBxadd f s))
  | .bxacc f => (onHart_memOk fun _ => vDrive_memOk _ _ _ hs : Out.MemOk (execBxacc f s))
  | .bxanch f => (onHart_memOk fun _ => vDrive_memOk _ _ _ hs : Out.MemOk (execBxanch f s))
  | .bxanchI f => (onHart_memOk fun _ => vDrive_memOk _ _ _ hs : Out.MemOk (execBxanchI f s))
  | .bxcvt f => (onHart_memOk fun _ => vDrive_memOk _ _ _ hs : Out.MemOk (execBxcvt f s))
  | .mop f => (mUpdate_memOk _ _ _ _ hs : Out.MemOk (execMop f s))
  | .mopS f => (mUpdate_memOk _ _ _ _ hs : Out.MemOk (execMopS f s))
  | .mopZ f => (mUpdate_memOk _ _ _ _ hs : Out.MemOk (execMopZ f s))
  | .mopZs f => (mUpdate_memOk _ _ _ _ hs : Out.MemOk (execMopZs f s))
  | .ckclr f => execCkclr_memOk f s hs
  | .ckchk f => execCkchk_memOk f s hs
  | .ckloc f => execCkloc_memOk f s hs
  | .ckfix f => execCkfix_memOk f s hs
  | .ckrdRow f => execCkrdRow_memOk f s hs
  | .ckrdCol f => execCkrdCol_memOk f s hs
  | .ckrdSt f => execCkrdSt_memOk f s hs
  | .ckinj f => (ckInject_memOk _ _ _ hs : Out.MemOk (execCkinj f s))
  | .ckinjP f => (ckInject_memOk _ _ _ hs : Out.MemOk (execCkinjP f s))
  | .capb f => execCapb_memOk f s hs
  | .cape f => execCape_memOk f s hs
  | .capr f => execCapr_memOk f s hs
  | .capx f => (capxFrom_memOk _ _ hs : Out.MemOk (execCapx f s))
  | .capxSaved f => (capxFrom_memOk _ _ hs : Out.MemOk (execCapxSaved f s))
  | .capxFirst f => (capxFrom_memOk _ _ hs : Out.MemOk (execCapxFirst f s))
  | .packetIssue => execPacketIssue_memOk s hs
  | .packetRetire => (below_memOk (State.retire_memOk _ _ _ hs) : Out.MemOk (execPacketRetire s))
  | .vWriteback => (below_memOk (State.vWriteback_memOk _ _ _ hs) : Out.MemOk (execVWriteback s))
  | .updateWriteback => (below_memOk (State.updateWriteback_memOk _ _ _ hs) : Out.MemOk (execUpdateWriteback s))
  | .vectorAccessComplete => execVectorAccessComplete_memOk s hs
  | .scalarAccessComplete => (below_memOk (State.modHart_memOk _ _ _ _ (State.checkFailure_memOk _ hs)) : Out.MemOk (execScalarAccessComplete s))
  | .translationWalk => (below_memOk (State.xlate_memOk _ _ _ _ _ hs) : Out.MemOk (execTranslationWalk s))
  | .writeHomeMoment => execWriteHomeMoment_memOk s hs
  | .writeDomainMoment => (next_memOk (State.domainMoment_memOk _ _ hs) : Out.MemOk (execWriteDomainMoment s))
  | .writeSystemMoment => (next_memOk (State.systemMoment_memOk _ _ hs) : Out.MemOk (execWriteSystemMoment s))
  | .copyCommandStart => execCopyCommandStart_memOk s hs
  | .copyChunkVisible => execCopyChunkVisible_memOk s hs
  | .barrierCredit => execBarrierCredit_memOk s hs
  | .copyCommandComplete => execCopyCommandComplete_memOk s hs
  | .catalogueCommandComplete => execCatalogueCommandComplete_memOk s hs
  | .xltInv => (below_memOk (State.xltInv_memOk _ _ _ hs) : Out.MemOk (execXltInv s))
  | .invalidationDone => (below_memOk (State.invDone_memOk _ _ hs) : Out.MemOk (execInvalidationDone s))
  | .memIlvWrite => (next_memOk (State.writeIlv_memOk _ _ hs) : Out.MemOk (execMemIlvWrite s))
  | .dieBootGo => (below_memOk (State.writeBoot_memOk _ _ _ hs) : Out.MemOk (execDieBootGo s))
  | .xltCtxbaseWrite => (below_memOk (State.writeCtxbase_memOk _ _ _ hs) : Out.MemOk (execXltCtxbaseWrite s))
  | .schedCtlWrite => (below_memOk (State.writeSched_memOk _ _ _ hs) : Out.MemOk (execSchedCtlWrite s))
  | .saveStallClear => (below_memOk (State.writeSaveStat_memOk _ _ _ hs) : Out.MemOk (execSaveStallClear s))
  | .lmapWrite => (below_memOk (State.modCore_memOk _ _ _ hs) : Out.MemOk (execLmapWrite s))
  | .latWrite => (below_memOk (State.modCore_memOk _ _ _ hs) : Out.MemOk (execLatWrite s))
  | .pgseedWrite => (below_memOk (State.modCore_memOk _ _ _ hs) : Out.MemOk (execPgseedWrite s))
  | .protectedModeEnable => (below_memOk (State.protect_memOk _ _ _ hs) : Out.MemOk (execProtectedModeEnable s))
  | .registerWrite => execRegisterWrite_memOk s hs
  | .gangPlace => execGangPlace_memOk s hs
  | .gangResume => execGangResume_memOk s hs
  | .reclaimMark => (below_memOk (State.reclaim_memOk _ _ hs) : Out.MemOk (execReclaimMark s))
  | .reclaimTimeout => execReclaimTimeout_memOk s hs
  | .saveUnit => (below_memOk (State.saveUnit_memOk _ _ _ hs) : Out.MemOk (execSaveUnit s))
  | .groupRelease => execGroupRelease_memOk s hs
  | .groupPowerGate => (below_memOk (State.modCore_memOk _ _ _ hs) : Out.MemOk (execGroupPowerGate s))
  | .gangEnd => execGangEnd_memOk s hs
  | .notifyEvaluate => (below_memOk (State.notify_memOk _ _ _ _ hs) : Out.MemOk (execNotifyEvaluate s))
  | .notifyPoll => (below_memOk (State.notify_memOk _ _ _ _ hs) : Out.MemOk (execNotifyPoll s))
  | .yieldWake => execYieldWake_memOk s hs
  | .stestDone => execStestDone_memOk s hs
  | .stestAbort => execStestAbort_memOk s hs
  | .laneShadowRotate => execLaneShadowRotate_memOk s hs
  | .retrainDone => execRetrainDone_memOk s hs
  | .flitCrcError => execFlitCrcError_memOk s hs
  | .linkDown => execLinkDown_memOk s hs
  | .roundStart => (next_memOk (State.roundStart_memOk _ hs) : Out.MemOk (execRoundStart s))
  | .heartbeatReceive => (below_memOk (State.hear_memOk _ _ _ hs) : Out.MemOk (execHeartbeatReceive s))
  | .roundEnd => (next_memOk (State.roundEnd_memOk _ hs) : Out.MemOk (execRoundEnd s))
  | .orphanCompletion => execOrphanCompletion_memOk s hs
  | .fencedSelftestDone => execFencedSelftestDone_memOk s hs
  | .rdmaWrite => (request_memOk _ _ _ hs : Out.MemOk (execRdmaWrite s))
  | .rdmaRead => (request_memOk _ _ _ (State.checkFailure_memOk _ hs) : Out.MemOk (execRdmaRead s))
  | .atomicCompareAndSwap => (request_memOk _ _ _ hs : Out.MemOk (execAtomicCompareAndSwap s))
  | .atomicFetchAndAdd => (request_memOk _ _ _ hs : Out.MemOk (execAtomicFetchAndAdd s))
  | .invalidRequest => (request_memOk _ _ _ hs : Out.MemOk (execInvalidRequest s))
  | .priorityFlowControl => (next_memOk (State.sendHeld_memOk _ (State.modHub_memOk _ _ hs)) : Out.MemOk (execPriorityFlowControl s))
  | .congestionNotification => (below_memOk (State.put_memOk _ _ _ _ _ (State.modHub_memOk _ _ hs)) : Out.MemOk (execCongestionNotification s))
  | .ptpMessage => execPtpMessage_memOk s hs
  | .getVersion => (next_memOk (State.spdm_memOk _ _ _ hs) : Out.MemOk (execGetVersion s))
  | .getCapabilities => (next_memOk (State.spdm_memOk _ _ _ hs) : Out.MemOk (execGetCapabilities s))
  | .negotiateAlgorithms => (next_memOk (State.spdm_memOk _ _ _ hs) : Out.MemOk (execNegotiateAlgorithms s))
  | .getDigests => (next_memOk (State.spdm_memOk _ _ _ hs) : Out.MemOk (execGetDigests s))
  | .getCertificate => (next_memOk (State.spdm_memOk _ _ _ hs) : Out.MemOk (execGetCertificate s))
  | .challenge => (next_memOk (State.spdm_memOk _ _ _ hs) : Out.MemOk (execChallenge s))
  | .getMeasurements => (next_memOk (State.spdm_memOk _ _ _ hs) : Out.MemOk (execGetMeasurements s))
  | .pldmPlatformMonitoring => (next_memOk (State.put_memOk _ _ _ _ _ (State.drawn_memOk _ hs)) : Out.MemOk (execPldmPlatformMonitoring s))
  | .pldmFirmwareUpdate => (next_memOk (State.modHub_memOk _ _ hs) : Out.MemOk (execPldmFirmwareUpdate s))
  | .endpointIdentifierAssign => (next_memOk (State.modHub_memOk _ _ hs) : Out.MemOk (execEndpointIdentifierAssign s))
  | .eepromRead => execEepromRead_memOk s hs
  | .eepromWrite => execEepromWrite_memOk s hs
  | .reset => (next_memOk (State.boot_memOk _ (State.restart_memOk _ _)) : Out.MemOk (execReset s))
  | .evacGo => (next_memOk (State.writeEvac_memOk _ _ hs) : Out.MemOk (execEvacGo s))
  | .evacAbort => (next_memOk (State.evacAbort_memOk _ hs) : Out.MemOk (execEvacAbort s))
  | .evacSaveDone => execEvacSaveDone_memOk s hs
  | .evacOffer => (next_memOk (State.put_memOk _ _ _ _ _ hs) : Out.MemOk (execEvacOffer s))
  | .evacOfferAnswer => execEvacOfferAnswer_memOk s hs
  | .evacOfferTimeout => execEvacOfferTimeout_memOk s hs
  | .evacCopyDone => execEvacCopyDone_memOk s hs
  | .evacDrainDone => execEvacDrainDone_memOk s hs
  | .evacTimeout => execEvacTimeout_memOk s hs
  | .evacArm => (next_memOk (State.writeRx_memOk _ _ hs) : Out.MemOk (execEvacArm s))
  | .evacDisarm => (next_memOk (State.writeRx_memOk _ _ hs) : Out.MemOk (execEvacDisarm s))
  | .evacAdopt => (next_memOk (State.writeRx_memOk _ _ hs) : Out.MemOk (execEvacAdopt s))
  | .evacClaim => execEvacClaim_memOk s hs
  | .evacClaimAnswer => (next_memOk (State.claimed_memOk _ _ hs) : Out.MemOk (execEvacClaimAnswer s))
  | .evacClaimTimeout => (next_memOk (State.claimed_memOk _ _ hs) : Out.MemOk (execEvacClaimTimeout s))
  | .thermalThrottle => (next_memOk (State.modHub_memOk _ _ hs) : Out.MemOk (execThermalThrottle s))
  | .pepperGeneratorStep => execPepperGeneratorStep_memOk s hs
  | .evacFreezeDone => execEvacFreezeDone_memOk s hs
  | .firmwareRetrain => execFirmwareRetrain_memOk s hs
  | .bladePull => (next_memOk (State.restart_memOk _ _) : Out.MemOk (execBladePull s))
  | .queuePairConnect => (below_memOk (State.modQp_memOk _ _ _ hs) : Out.MemOk (execQueuePairConnect s))
  | .managementControllerAccess => execManagementControllerAccess_memOk s hs

theorem runSlots_memOk (l : List Instr) (s : State) (hs : Memory.wf s.mem = true) : Out.MemOk (runSlots exec l s) := by
  induction l generalizing s with
  | nil => exact hs
  | cons i r ih =>
    have ran := exec_memOk i s hs
    unfold runSlots
    split
    · rename_i e; rw [e] at ran; exact ih _ ran
    · trivial
    · trivial

/-- A verdict whose state, where it has one, has memory in its canonical form. -/
def Verdict.MemOk : Verdict → Prop
  | .waits t | .traps t | .issues t => Memory.wf t.mem = true
  | .stops o => Out.MemOk o

theorem judge_memOk (s : State) (h : Hart) (hs : Memory.wf s.mem = true) : Verdict.MemOk (judge exec s h) := by
  have ran := runSlots_memOk s.issue.slots s.record (State.record_memOk _ hs)
  unfold judge
  split
  · trivial
  · trivial
  · rename_i t e
    rw [e] at ran
    have ht : Memory.wf t.mem = true := ran
    have trapped (w : Option (Who × VAddr × Nat × Acc)) (x : TrapReq) : Verdict.MemOk (.traps (s.trapAll w x)) := State.trapAll_memOk _ _ _ hs
    dsimp only
    split
    · exact State.afterPending_memOk _ _ _ hs ht
    · split
      · exact State.waitAll_memOk _ _ hs ht
      · split
        · split
          · exact trapped _ _
          · exact hs
        · split
          · exact trapped _ _
          · split
            · exact trapped _ _
            · exact State.finish_memOk _ _ _ hs ht

theorem carryOut_memOk (s : State) (hs : Memory.wf s.mem = true) : Out.MemOk (carryOut exec s) := by
  unfold carryOut
  split
  · exact hs
  · rename_i h _
    have judged := judge_memOk s h hs
    split <;> rename_i e <;> rw [e] at judged
    · exact judged
    · exact judged
    · exact judged
    · split
      · exact hs
      · exact judged

/-- Settles O54: every arm of a step keeps the form, and so does a packet carried to its end. -/
theorem memoryStaysCanonical : Obligations.MemoryStaysCanonical := by
  intro s t hs e
  suffices steps : Out.MemOk (step s) by rw [e] at steps; exact steps
  unfold step
  split
  · exact hs
  · rename_i a i r _
    dsimp only
    split
    · exact hs
    · have ran := exec_memOk i { s with arg := a, agenda := r } hs
      split
      · rename_i t' e'
        rw [e'] at ran
        split
        · exact carryOut_memOk _ ran
        · exact ran
      · trivial
      · trivial

end Sys2Proof.Machine
end

section
/-! Writes of one hart's registers (R74, R142). -/
namespace Sys2Proof.Machine
open Sys2Proof

/-- What a change of the registers of the hart in issue leaves: every other hart, and of a core and of the package all but the harts. -/
theorem State.modCur_frame {s : State} {h : Hart} (f : Hart → Hart) (e : s.cur = some h) :
    (∀ p i, ¬ (p = s.issue.core ∧ i = s.issue.slot) → (s.modCur f).hart? p i = s.hart? p i)
      ∧ (∀ p, { (s.modCur f).core p with harts := (s.core p).harts } = s.core p) ∧ { s.modCur f with cores := s.cores } = s := by
  refine ⟨State.hart?_modCur_other s f, fun p => ?_, ?_⟩
  · rw [State.modCur_of s f h e, State.setHart, State.core_modCore]
    split
    · rename_i here; rw [here]
    · rfl
  · rw [State.modCur_of s f h e]; rfl

/-- Settles O1: each write changes the registers of the hart in issue by the write law of its kind. -/
theorem registerWrites : Obligations.RegisterWrites := by
  intro s h n e rest
  have keeps (f : Hart → Hart) (same : { f h with regs := h.regs } = h) : (s.modCur f).cur = some (f h) ∧ rest (s.modCur f) (f h) :=
    ⟨State.cur_modCur s f h e, same, State.modCur_frame f e⟩
  refine ⟨fun v => ?_, fun v => ?_, fun v => ?_⟩
  · obtain ⟨cur, frame⟩ := keeps (fun h => { h with regs := writeG h.regs n v }) rfl
    exact ⟨_, cur, readG_writeG_same _ _, readG_zero _, fun m => readG_writeG_ne _ _, fun m => readA_writeG _ _ _ _, fun m => readK_writeG _ _ _ _, frame⟩
  · obtain ⟨cur, frame⟩ := keeps (fun h => { h with regs := writeA h.regs n v }) rfl
    exact ⟨_, cur, readA_writeA_same _ _ _, fun m => readA_writeA_ne _ _, fun m => readG_writeA _ _ _ _, fun m => readK_writeA _ _ _ _, frame⟩
  · obtain ⟨cur, frame⟩ := keeps (fun h => h.putK s.cycle n v) rfl
    exact ⟨_, cur, readK_writeK_same _ _, readK_zero _, fun m => readK_writeK_ne _ _, fun m => readG_writeK _ _ _ _, fun m => readA_writeK _ _ _ _, frame⟩

end Sys2Proof.Machine
end

section
/-! Scalar floating point (R310, R311). -/
namespace Sys2Proof.Machine
open Sys2Proof

variable {s : State} {h : Hart}

theorem fpOp_of (f : SR) (op : Val → Val → Word) (e : s.cur = some h) {v : Word} (hv : op (f32of (h.og f.s1.toNat)) (f32of (h.og f.s2.toNat)) = v) :
    fpOp f s op = .next (s.wrG f.d.toNat v) := by
  rw [fpOp, onHart_of _ e, hv]
theorem execFfma_of (f : SR) (e : s.cur = some h) :
    execFfma f s = .next (s.wrG f.d.toNat (sRound (Val.sum [(f32of (h.og f.s1.toNat)).mul (f32of (h.og f.s2.toNat)), f32of (h.og f.d.toNat)]) f.rm)) := onHart_of _ e

/-- Rounding by a code that names a mode. -/
theorem sRound_of {rm : BitVec 3} {r : Rnd} (code : Rnd.ofCode rm.toNat = some r) (v : Val) : sRound v rm = BitVec.ofNat 64 (convert v .fp32 r false 0) := by
  rw [sRound, code, Option.getD_some]
theorem Fsr_of {f : SR} {r : Rnd} (code : Rnd.ofCode f.rm.toNat = some r) : Fsr f = r := by rw [Fsr, code, Option.getD_some]

theorem flag_fpEq (a b : Val) : flag (fpEq a b) = if ¬ a.isNaN ∧ ¬ b.isNaN ∧ a.eqv b then 1 else 0 := by simp [flag, fpEq, and_assoc]
theorem flag_fpLt (a b : Val) : flag (fpLt a b) = if ¬ a.isNaN ∧ ¬ b.isNaN ∧ a.lt b then 1 else 0 := by simp [flag, fpLt, and_assoc]
theorem flag_fpLe (a b : Val) : flag (fpLe a b) = if ¬ a.isNaN ∧ ¬ b.isNaN ∧ ¬ b.lt a then 1 else 0 := by simp [flag, fpLe, and_assoc]
theorem fpClass_lt (x : Nat) : fpClass x < 9 := by
  unfold fpClass
  split
  · decide
  · split <;> decide
  · repeat' split
    all_goals decide
/-- Conversion to a signed 64-bit integer, with its bounds for what does not fit. -/
theorem fpToInt64_eq (a : Val) (r : Rnd) : fpToInt64 a r = if a.isNaN then 0 else match a with
    | .inf neg => if neg then 0x8000000000000000#64 else 0x7FFFFFFFFFFFFFFF#64
    | v => BitVec.ofInt 64 (max (-(2 ^ 63)) (min (2 ^ 63 - 1) (roundInt v r 0))) := by
  cases a <;> rfl

/-- Settles O3: each form writes the value that its rule gives for the operands as they stood at issue. -/
theorem scalarFloat : Obligations.ScalarFloat := by
  refine ⟨fun s h f r e code => ?_, fun s h f e => ?_⟩
  · intro a b d w rounded
    have add : execFadd f s = _ := fpOp_of f (fun a b => sRound (Val.sum [a, b]) f.rm) e (sRound_of code _)
    have sub : execFsub f s = _ := fpOp_of f (fun a b => sRound (Val.sum [a, b.neg]) f.rm) e (sRound_of code _)
    have mul : execFmul f s = _ := fpOp_of f (fun a b => sRound (a.mul b) f.rm) e (sRound_of code _)
    have fma : execFfma f s = _ := execFfma_of f e
    rw [sRound_of code] at fma
    have div : execFdiv f s = _ := fpOp_of f (fun a b => BitVec.ofNat 64 (divRound a b .fp32 (Fsr f))) e (by rw [Fsr_of code])
    have sqrt : execFsqrt f s = _ := fpOp_of f (fun a _ => BitVec.ofNat 64 (sqrtRound a .fp32 (Fsr f))) e (by rw [Fsr_of code])
    have cvtF : execFcvtF f s = _ := intOp_of f (fun a _ => sRound (Val.ofDy ⟨a.toInt, 0⟩) f.rm) e (sRound_of code _)
    have cvtI : execFcvtI f s = _ := fpOp_of f (fun a _ => fpToInt64 a (Fsr f)) e ((congrArg (fpToInt64 a) (Fsr_of code)).trans (fpToInt64_eq a r))
    exact ⟨add, sub, mul, fma, div, sqrt, cvtF, cvtI⟩
  · intro a b ea eb w
    have min : execFmin f s = _ := intOp_of f (fun a b => BitVec.ofNat 64 (fmin32 (a.toNat % 2 ^ 32) (b.toNat % 2 ^ 32))) e rfl
    have max : execFmax f s = _ := intOp_of f (fun a b => BitVec.ofNat 64 (fmax32 (a.toNat % 2 ^ 32) (b.toNat % 2 ^ 32))) e rfl
    have eq : execFcmpeq f s = _ := fpOp_of f (fun a b => flag (fpEq a b)) e (flag_fpEq _ _)
    have lt : execFcmplt f s = _ := fpOp_of f (fun a b => flag (fpLt a b)) e (flag_fpLt _ _)
    have le : execFcmple f s = _ := fpOp_of f (fun a b => flag (fpLe a b)) e (flag_fpLe _ _)
    have cls : execFclass f s = _ := intOp_of f (fun a _ => BitVec.ofNat 64 (2 ^ fpClass (a.toNat % 2 ^ 32))) e rfl
    exact ⟨min, max, eq, lt, le, cls, fpClass_lt _⟩

end Sys2Proof.Machine
end

section
/-! What reset leaves (R9, R38, R101, R216, R218, R333, R381, R402, R419, R432, R439), and words of the encoding tables (R47, R48, R64 to R73). -/
namespace Sys2Proof.Machine
open Sys2Proof

/-- Settles O53: memory after reset is the empty one. -/
theorem memoryCanonicalAtReset : Obligations.MemoryCanonicalAtReset := rfl

/-- Settles O56: each word is decoded. -/
theorem decodedWords : Obligations.DecodedWords := by
  refine ⟨?_, ?_, ?_, ?_, ?_, ?_, ?_⟩ <;> decide

/-- No group of a core is owned at reset. -/
theorem latOwner_reset : ∀ g < 16, latOwner 0x0000FFFFFFFFFFFF#64 g = 7 ∧ latPend 0x0000FFFFFFFFFFFF#64 g = false := by decide

/-- Settles O52: reset leaves every table empty, so each register reads its default. -/
theorem resetState : Obligations.ResetState := by
  refine ⟨fun p => ?_, fun d => ?_, ?_⟩
  · exact ⟨rfl, rfl, rfl, latOwner_reset, fun _ => rfl, fun _ => ⟨rfl, rfl, rfl⟩, fun _ => rfl, fun _ => ⟨rfl, rfl⟩, rfl⟩
  · exact ⟨fun _ => rfl, rfl, rfl, rfl, rfl, rfl, rfl, rfl, rfl, rfl, rfl, rfl, rfl, rfl, rfl, rfl, rfl, fun _ => rfl, fun _ => rfl, fun _ => rfl⟩
  · exact ⟨rfl, rfl, rfl, rfl, rfl, rfl, rfl, rfl, rfl, rfl, rfl, rfl, rfl, rfl, rfl, rfl⟩

end Sys2Proof.Machine
end

section
/-! SETVL and SETMVL (R316). -/
namespace Sys2Proof.Machine
open Sys2Proof

variable {s : State} {h : Hart} {f : SR} {put : Ctrl → Nat → Nat → Ctrl}

/-- What a granted length leaves. -/
def State.granted (s : State) (p : Nat) (f : SR) (h : Hart) (put : Ctrl → Nat → Nat → Ctrl) : State :=
  let grant := min (h.og f.s1.toNat).toNat (s.maxl p h)
  ((s.modCtrl (fun c => put c (h.og f.s1.toNat).toNat grant)).wrG f.d.toNat (BitVec.ofNat 64 grant)).releasePending h.die h.idx

/-- A length for which the gang grows, or groups of it are restored, before it is granted. -/
def State.lengthGrows (s : State) (f : SR) (h : Hart) : Prop :=
  (!(s.heldGroups s.issue.core h).any (latPend (s.core s.issue.core).lat) ∧ s.maxl s.issue.core h < (h.og f.s1.toNat).toNat) ∨ !(s.gang h.die h.idx).unrestored.isEmpty

theorem setLength_of_fits (e : s.cur = some h) (running : (s.gang h.die h.idx).growStalled = false) (fits : ¬ s.lengthGrows f h) :
    setLength f s put = .next (s.granted s.issue.core f h put) := by
  unfold State.lengthGrows at fits
  rw [setLength, onHart_of _ e]
  dsimp only
  rw [if_neg fits, running]
  rfl
theorem setLength_of_grows (e : s.cur = some h) (running : (s.gang h.die h.idx).growStalled = false) (grows : s.lengthGrows f h)
    (restored : (s.grow s.issue.core h (h.og f.s1.toNat).toNat).2 = none) :
    setLength f s put = .next ((s.grow s.issue.core h (h.og f.s1.toNat).toNat).1.granted s.issue.core f h put) := by
  unfold State.lengthGrows at grows
  rw [setLength, onHart_of _ e]
  dsimp only
  rw [if_pos grows, running]
  generalize s.grow s.issue.core h (h.og f.s1.toNat).toNat = q at restored ⊢
  obtain ⟨s1, x⟩ := q
  cases restored
  rfl
theorem setLength_of_stalled (e : s.cur = some h) (stalled : (s.gang h.die h.idx).growStalled = true) : setLength f s put = .next s.stall := by
  rw [setLength, onHart_of _ e]
  dsimp only
  split
  · rfl
  · exact absurd stalled ‹_›

/-- Settles O6: a length that fits is granted as it stands, one that grows the gang after the growth. -/
theorem setLengths : Obligations.SetLengths := by
  intro s h f e p req pending vl mvl g s1
  refine ⟨fun running whole fits => ?_, fun running grows restored => ?_, fun stalled => ?_⟩
  · have fits : ¬ s.lengthGrows f h := by
      rintro (⟨none_, large⟩ | left)
      · rcases fits with held | small
        · rw [show (s.heldGroups s.issue.core h).any _ = true from held] at none_; cases none_
        · exact absurd small (Nat.not_le.2 large)
      · rw [show (s.gang h.die h.idx).unrestored = [] from whole] at left; cases left
    have a : execSetvl f s = _ := setLength_of_fits e running fits
    have b : execSetmvl f s = _ := setLength_of_fits e running fits
    exact ⟨a, b⟩
  · have grows : s.lengthGrows f h := by
      rcases grows with left | ⟨none_, large⟩
      · exact Or.inr (by simpa using left)
      · exact Or.inl ⟨by rw [show (s.heldGroups s.issue.core h).any _ = false from none_]; rfl, large⟩
    have a : execSetvl f s = _ := setLength_of_grows e running grows restored
    have b : execSetmvl f s = _ := setLength_of_grows e running grows restored
    exact ⟨a, b⟩
  · have a : execSetvl f s = _ := setLength_of_stalled e stalled
    have b : execSetmvl f s = _ := setLength_of_stalled e stalled
    exact ⟨a, b⟩

end Sys2Proof.Machine
end

section
/-! Scalar accesses that land (R179 to R181, R186): each form in the state that its translation leaves. -/
namespace Sys2Proof.Machine
open Sys2Proof

variable {s s1 : State} {h : Hart} {f : LM} {l : List XOk}

/-- An access that lands goes on with the places it reaches. -/
theorem State.scalar_of {va : VAddr} {n : Nat} {acc : Acc} (k : State → List XOk → List Byte → State) (lands : s.lands h va n acc s1 l) :
    s.scalar h va n acc k = k s1 l [] := by
  obtain ⟨fresh, span, near, there, device⟩ := lands
  unfold State.scalar
  rw [fresh]
  dsimp only
  rw [span]
  dsimp only
  rw [device, near, there]
  rfl

/-- A test of alignment to 16 bytes that passes. -/
theorem not_misaligned {n : Nat} {va : VAddr} (aligned : n = 16 → va.toNat % 16 = 0) : ¬ (n = 16 ∧ va.toNat % 16 ≠ 0) := fun a => a.2 (aligned a.1)

theorem scalarLoad_of {n : Nat} (put : State → List Byte → State) (e : s.cur = some h) (aligned : n = 16 → (h.ea f).toNat % 16 = 0) (lands : s.lands h (h.ea f) n .load s1 l)
    (whole : s1.badByte l = none) (seen : s1.readWaits f (locKeys l) = false) :
    scalarLoad f n s put = .next (((put s1 (s1.got l [])).noteSeen (locKeys l)).bump h f) := by
  rw [scalarLoad, onHart_of _ e]
  dsimp only
  rw [if_neg (not_misaligned aligned), State.scalar_of _ lands, seen, whole]
  rfl

theorem scalarStore_of {n : Nat} (bytes : Hart → List Byte) (e : s.cur = some h) (aligned : n = 16 → (h.ea f).toNat % 16 = 0)
    (released : f.rel = false ∨ s.relReady h f.sc.toNat = true) (lands : s.lands h (h.ea f) n .store s1 l) :
    scalarStore f n s bytes = .next (((s1.putBytes l (bytes h)).noteWrites s1 (l.any (fun o => o.attr == 2)) f.acq).bump h f) := by
  have goes : ¬ (f.rel = true ∧ (!s.relReady h f.sc.toNat) = true) := by
    rcases released with r | r <;> simp [r]
  rw [scalarStore, onHart_of _ e]
  dsimp only
  rw [if_neg (not_misaligned aligned), if_neg goes, State.scalar_of _ lands]

/-- Settles O12: each form is a scalar load of its width. -/
theorem scalarLoads : Obligations.ScalarLoads := by
  intro s h f e va good fin num sx zx
  have signed (n : Nat) (narrow : n ≠ 16) (s1 : State) (l : List XOk) (g : good n s1 l) :
      loadInt f n true s = fin l (s1.wrG f.t.toNat (BitVec.ofInt 64 (sintOf (8 * n) (num n s1 l)))) :=
    scalarLoad_of _ e (fun a => absurd a narrow) g.1 g.2.1 g.2.2
  have unsigned (n : Nat) (narrow : n ≠ 16) (s1 : State) (l : List XOk) (g : good n s1 l) :
      loadInt f n false s = fin l (s1.wrG f.t.toNat (BitVec.ofNat 64 (num n s1 l))) :=
    scalarLoad_of _ e (fun a => absurd a narrow) g.1 g.2.1 g.2.2
  have address (aligned : va.toNat % 16 = 0) (s1 : State) (l : List XOk) (g : good 16 s1 l) : execLda f s = fin l (s1.wrA f.t.toNat (mk80 (s1.got l []) 0)) :=
    scalarLoad_of _ e (fun _ => aligned) g.1 g.2.1 g.2.2
  exact ⟨signed 1 (by decide), signed 2 (by decide), signed 4 (by decide), signed 8 (by decide), unsigned 1 (by decide), unsigned 2 (by decide), unsigned 4 (by decide), address⟩

/-- Settles O13: each form is a scalar store of its width. -/
theorem scalarStores : Obligations.ScalarStores := by
  intro s h f e released va puts x
  have int (n : Nat) (narrow : n ≠ 16) (s1 : State) (l : List XOk) (lands : s.lands h va n .store s1 l) :
      storeInt f n s = .next (((s1.putBytes l (leBytes n x)).noteWrites s1 (l.any (fun o => o.attr == 2)) f.acq).bump h f) :=
    scalarStore_of _ e (fun a => absurd a narrow) released lands
  have address (aligned : va.toNat % 16 = 0) (s1 : State) (l : List XOk) (lands : s.lands h va 16 .store s1 l) :
      execSta f s = .next (((s1.putBytes l (leBytes 10 (h.oa f.t.toNat).toNat ++ List.replicate 6 0)).noteWrites s1 (l.any (fun o => o.attr == 2)) f.acq).bump h f) :=
    scalarStore_of _ e (fun _ => aligned) released lands
  exact ⟨int 1 (by decide), int 2 (by decide), int 4 (by decide), int 8 (by decide), address⟩

end Sys2Proof.Machine
end

section
/-! Scalar atomics (R186), and accesses off their alignment (R180). -/
namespace Sys2Proof.Machine
open Sys2Proof

variable {s s1 : State} {h : Hart} {f : LM} {l : List XOk}

/-- The address, the width in bytes and the operands of a scalar atomic. -/
def Hart.amoAddr (h : Hart) (f : LM) : VAddr := h.oa f.a.toNat + f.off.signExtend 80
def amoBytes (f : LM) : Nat := if f.t.getLsbD 5 then 8 else 4
def Hart.amoNew (h : Hart) (f : LM) (op : Nat → Nat → Nat → Nat → Option Nat) (old : Nat) : Option Nat :=
  op (8 * (amoBytes f)) old ((h.og f.x.toNat).toNat % 2 ^ (8 * (amoBytes f))) ((h.og (f.t.toNat % 32)).toNat % 2 ^ (8 * (amoBytes f)))
/-- What an atomic returns for an old value. -/
def amoBack (f : LM) (old : Nat) : Word := if amoBytes f = 4 ∧ f.t.getLsbD 6 = false then BitVec.ofInt 64 (sintOf 32 old) else BitVec.ofNat 64 old
/-- What a scalar atomic leaves once its write, if any, is made. -/
def State.amoEnds (t s1 : State) (f : LM) (l : List XOk) (old : Nat) : Out :=
  .next (((t.noteWrites s1 false f.acq).wrG (f.t.toNat % 32) (amoBack f old)).noteSeen (locKeys l))
/-- The bytes that an atomic writes at its home. -/
def homeBytes (l : List XOk) (n v : Nat) : List (Nat × Byte) :=
  (l.zip (leBytes n v)).filterMap (fun q => match q.1.loc with | .mem k => some (k, q.2) | _ => none)

theorem amo_misaligned (op : Nat → Nat → Nat → Nat → Option Nat) (e : s.cur = some h) (off : (h.amoAddr f).toNat % (amoBytes f) ≠ 0) :
    amo f s op = .next (s.memTrap 0x21 (h.amoAddr f) .atomic (amoBytes f) 15 false) := by
  rw [amo, onHart_of _ e]
  exact congrArg Host.Outcome.next (if_pos off)

theorem amo_of (op : Nat → Nat → Nat → Nat → Option Nat) (e : s.cur = some h) (aligned : (h.amoAddr f).toNat % (amoBytes f) = 0)
    (released : f.rel = false ∨ s.relReady h f.sc.toNat = true) (lands : s.lands h (h.amoAddr f) (amoBytes f) .atomic s1 l)
    (whole : s1.badByte l = none) (seen : s1.readWaits f (locKeys l) = false) (home : locKeys l ≠ []) :
    amo f s op = (match h.amoNew f op (leNat (s1.got l []) % 2 ^ (8 * (amoBytes f))) with
      | none => ((s1.breakLinks none (granules (locKeys l))).breakAway l).amoEnds s1 f l (leNat (s1.got l []) % 2 ^ (8 * (amoBytes f)))
      | some v => (s1.sendHome (homeBytes l (amoBytes f) v) (amoBytes f) false).amoEnds s1 f l (leNat (s1.got l []) % 2 ^ (8 * (amoBytes f)))) := by
  have goes : ¬ (f.rel = true ∧ (!s.relReady h f.sc.toNat) = true) := by
    rcases released with r | r <;> simp [r]
  have near : (locKeys l).isEmpty = false := by cases keys : locKeys l with | nil => exact absurd keys home | cons => rfl
  unfold Hart.amoAddr amoBytes at aligned lands
  rw [amo, onHart_of _ e]
  dsimp only
  rw [if_neg (fun off => off aligned), if_neg goes, State.scalar_of _ lands, seen, if_neg Bool.false_ne_true, whole]
  dsimp only
  rw [near]
  unfold Hart.amoNew State.amoEnds amoBack amoBytes
  simp only [Bool.not_eq_true']
  generalize op _ _ _ _ = new
  cases new <;> rfl

theorem scalarLoad_misaligned (put : State → List Byte → State) (e : s.cur = some h) (off : (h.ea f).toNat % 16 ≠ 0) :
    scalarLoad f 16 s put = .next (s.memTrap 0x21 (h.ea f) .load 16 15 false) := by
  rw [scalarLoad, onHart_of _ e]
  exact congrArg Host.Outcome.next (if_pos ⟨rfl, off⟩)
theorem scalarStore_misaligned (bytes : Hart → List Byte) (e : s.cur = some h) (off : (h.ea f).toNat % 16 ≠ 0) :
    scalarStore f 16 s bytes = .next (s.memTrap 0x21 (h.ea f) .store 16 15 false) := by
  rw [scalarStore, onHart_of _ e]
  exact congrArg Host.Outcome.next (if_pos ⟨rfl, off⟩)

/-- The operation of AMOCAS. -/
def casOp (_w old x t : Nat) : Option Nat := if old = t then some x else none

/-- Settles O15: each form is an atomic whose operation gives the value that R186 names. -/
theorem scalarAtomics : Obligations.ScalarAtomics := by
  intro s s1 h f l e n w va aligned released lands whole seen home x old back gives less more
  have writes (i : Instr) (op : Nat → Nat → Nat → Nat → Option Nat) (v : Nat) (form : exec i s = amo f s op) (new : h.amoNew f op old = some v) : gives i v := by
    refine (form.trans (amo_of op e aligned released lands whole seen home)).trans ?_
    rw [show h.amoNew f op (leNat (s1.got l []) % 2 ^ (8 * amoBytes f)) = _ from new]
    rfl
  have cas : exec (.amocas f) s = amo f s casOp := rfl
  refine ⟨writes _ (fun w old x _ => some ((old + x) % 2 ^ w)) _ rfl rfl, writes _ (fun w old x _ => some (amoPick (f.t.getLsbD 6) true w old x)) _ rfl rfl,
    writes _ (fun w old x _ => some (amoPick (f.t.getLsbD 6) false w old x)) _ rfl rfl, writes _ (fun _ old x _ => some (old &&& x)) _ rfl rfl,
    writes _ (fun _ old x _ => some (old ||| x)) _ rfl rfl, writes _ (fun _ old x _ => some (old ^^^ x)) _ rfl rfl, writes _ (fun _ _ x _ => some x) _ rfl rfl,
    fun equal => writes _ _ x cas (if_pos equal), fun differ => ?_⟩
  rw [cas, amo_of _ e aligned released lands whole seen home, show h.amoNew f casOp (leNat (s1.got l []) % 2 ^ (8 * amoBytes f)) = none from if_neg differ]
  rfl

/-- Settles O16: the test of alignment comes before every other check of the access. -/
theorem alignmentTraps : Obligations.AlignmentTraps := by
  intro s h f e n va
  refine ⟨fun off => ?_, fun off i among => ?_⟩
  · have load : scalarLoad f 16 s _ = _ := scalarLoad_misaligned (fun s b => s.wrA f.t.toNat (mk80 b 0)) e off
    have store : scalarStore f 16 s _ = _ := scalarStore_misaligned (fun h => leBytes 10 (h.oa f.t.toNat).toNat ++ List.replicate 6 0) e off
    exact ⟨load, store⟩
  · have info : trinfo .atomic (sizeLog (amoBytes f)) 15 false = 15 + (if n = 8 then 3 else 2) * 16 + 1024 := by
      change trinfo .atomic (sizeLog (if f.t.getLsbD 5 then 8 else 4)) 15 false = 15 + (if (if f.t.getLsbD 5 then 8 else 4) = 8 then 3 else 2) * 16 + 1024
      split <;> decide
    have traps (op : Nat → Nat → Nat → Nat → Option Nat) : amo f s op = .next (s.raise { cause := 0x21, va := va, info := 15 + (if n = 8 then 3 else 2) * 16 + 1024 }) := by
      rw [amo_misaligned op e off, State.memTrap, info]
      rfl
    have add : execAmoadd f s = _ := traps (fun w old x _ => some ((old + x) % 2 ^ w))
    have min : execAmomin f s = _ := traps (fun w old x _ => some (amoPick (f.t.getLsbD 6) true w old x))
    have max : execAmomax f s = _ := traps (fun w old x _ => some (amoPick (f.t.getLsbD 6) false w old x))
    have and : execAmoand f s = _ := traps (fun _ old x _ => some (old &&& x))
    have or : execAmoor f s = _ := traps (fun _ old x _ => some (old ||| x))
    have xor : execAmoxor f s = _ := traps (fun _ old x _ => some (old ^^^ x))
    have swp : execAmoswp f s = _ := traps (fun _ _ x _ => some x)
    have cas : execAmocas f s = _ := traps casOp
    simp only [List.mem_cons, List.not_mem_nil, or_false] at among
    obtain rfl | rfl | rfl | rfl | rfl | rfl | rfl | rfl := among
    · exact add
    · exact min
    · exact max
    · exact and
    · exact or
    · exact xor
    · exact swp
    · exact cas

end Sys2Proof.Machine
end

section
/-! Stores on their way and at their home moment (R181, R186, R292, R411). -/
namespace Sys2Proof.Machine
open Sys2Proof

variable {s : State}

@[simp] theorem State.send_mem (s : State) (bs : List (Nat × Byte)) (n : Nat) (mark remote : Bool) : (s.send bs n mark remote).mem = s.mem := State.modCur_mem _ _
@[simp] theorem State.breakLinks_mem (s : State) (keep : Option (Nat × Nat)) (gs : List Nat) : (s.breakLinks keep gs).mem = s.mem := rfl
@[simp] theorem State.breakAway_mem (s : State) (l : List XOk) : (s.breakAway l).mem = s.mem := by
  unfold State.breakAway
  dsimp only
  split <;> rfl
@[simp] theorem State.sendAll_mem (s : State) (bs : List (Nat × Byte)) (marked : Nat → Bool) : (s.sendAll bs marked).mem = s.mem :=
  (State.modCur_mem _ _).trans (foldl_same State.mem _ _ _ (fun _ _ _ => State.send_mem _ _ _ _ _))
@[simp] theorem State.uncountOf_mem (s : State) (hart : Option (Nat × Nat)) (lo hi n : Nat) : (s.uncountOf hart lo hi n).mem = s.mem := by
  unfold State.uncountOf
  split
  · rfl
  · dsimp only
    split
    · exact State.modHart_mem _ _ _ _
    · rfl
@[simp] theorem State.commit_mem (s : State) (bs : List (Nat × Byte)) (mark : Bool) (keep : Option (Nat × Nat)) (part : List (Nat × Byte)) (cov : List (Nat × Byte × Byte)) :
    (s.commit bs mark keep part cov).mem = memSetMany s.mem bs := rfl
@[simp] theorem State.sendHome_mem (s : State) (bs : List (Nat × Byte)) (n : Nat) (mark : Bool) : (s.sendHome bs n mark).mem = memSetMany s.mem bs := by
  simp [State.sendHome]

/-- A store whose places are all memory changes none of its bytes yet. -/
theorem State.putBytes_mem (l : List XOk) (b : List Byte) (places : ∀ o ∈ l, ∃ k, o.loc = .mem k) : (s.putBytes l b).mem = s.mem := by
  have sent (s : State) (c : Prop) [Decidable c] (n : Nat) : (if c then s else (s.send [] n false true).breakAway l).mem = s.mem := by split <;> simp
  unfold State.putBytes
  cases l with
  | nil => exact (sent _ _ _).trans (State.sendAll_mem _ _ _)
  | cons o r =>
    obtain ⟨k, at_⟩ := places o (List.mem_cons_self ..)
    simp only [List.head?_cons, Option.map_some, at_]
    exact (sent _ _ _).trans (State.sendAll_mem _ _ _)

/-- The state once a write is home. -/
def State.homed (s : State) (id : Nat) (w : PW) : State :=
  ({ s.commit (s.landing w) w.mark none w.keep w.cov with
    pw := s.pw.filter (fun v => v.id != id) ++ [{ w with phase := 1, old := w.bytes.map (fun b => (b.1, s.byte b.1)) }] } : State).uncountOf w.hart 0 3 w.cnt
theorem State.homed_mem (id : Nat) (w : PW) : (s.homed id w).mem = memSetMany s.mem (s.landing w) := State.uncountOf_mem _ _ _ _ _

theorem State.homeMoment_of {id : Nat} {w : PW} (found : s.pw.find? (fun v => v.id == id) = some w) (fresh : w.phase = 0)
    (first : s.pw.any (fun v => v.hart == w.hart && decide (v.id < id) && v.touches w) = false) (ordered : ∀ a ∈ w.after, s.visibleAt a.2 a.1 = true)
    (open_ : ∀ b ∈ w.bytes, dieOfKey b.1 < 16 → s.hub.fset.testBit (dieOfKey b.1) = false) : s.homeMoment id = s.homed id w := by
  have released : w.after.all (fun a => s.visibleAt a.2 a.1) = true := List.all_eq_true.2 ordered
  have reached : w.bytes.any (fun b => decide (dieOfKey b.1 < 16) && s.hub.fset.testBit (dieOfKey b.1)) = false := by simpa using open_
  unfold State.homeMoment
  rw [found]
  dsimp only
  rw [first, released, reached, fresh, if_neg (by decide)]
  rfl
theorem State.homeMoment_fenced {id : Nat} {w : PW} (found : s.pw.find? (fun v => v.id == id) = some w)
    (fenced : ∃ b ∈ w.bytes, dieOfKey b.1 < 16 ∧ s.hub.fset.testBit (dieOfKey b.1) = true) : s.homeMoment id = s := by
  have stays : w.bytes.any (fun b => decide (dieOfKey b.1 < 16) && s.hub.fset.testBit (dieOfKey b.1)) = true := by simpa using fenced
  unfold State.homeMoment
  rw [found]
  exact if_pos (Or.inr (Or.inr (Or.inr stays)))

/-- What lands of a write are its own keys. -/
theorem State.landing_keys (w : PW) (a : Nat) (away : ∀ q ∈ w.bytes, q.1 ≠ a) : ∀ q ∈ s.landing w, q.1 ≠ a := by
  unfold State.landing
  split
  · exact away
  · intro q among
    obtain ⟨b, inside, rfl⟩ := List.mem_map.1 among
    exact away b inside

/-- Settles O14: a store sends its bytes, and the home moment of a write sets exactly them. -/
theorem storeIsPendingUntilHome : Obligations.StoreIsPendingUntilHome := by
  have others (s t : State) (bs : List (Nat × Byte)) (ok : s.memOk) (mem : t.mem = memSetMany s.mem bs) (a : Nat) (away : ∀ q ∈ bs, q.1 ≠ a) : t.byte a = s.byte a := by
    unfold State.byte
    rw [mem, memGet_memSetMany_ne bs ok (fun _ _ => Nat.zero_le _) away]
  refine ⟨fun s l b places => State.putBytes_mem l b places, fun s id w ok found fresh first ordered open_ => ?_, fun s id w found fenced => State.homeMoment_fenced found fenced,
    fun s bs n ok => ⟨State.sendHome_mem _ _ _ _, State.sendHome_memOk _ _ _ _ ok, others s _ bs ok (State.sendHome_mem _ _ _ _)⟩⟩
  have mem : (s.homeMoment id).mem = memSetMany s.mem (s.landing w) := by rw [State.homeMoment_of found fresh first ordered open_, State.homed_mem]
  exact ⟨mem, fun whole => by rw [State.landing, whole]; rfl, State.homeMoment_memOk _ _ ok, fun a away => others s _ _ ok mem a (s.landing_keys w a away)⟩

end Sys2Proof.Machine
end

section
/-! VPF and DRV (R183, R184). -/
namespace Sys2Proof.Machine
open Sys2Proof

variable {s : State} {h : Hart} {f : LM}

/-- The entry that DRV puts into its drain queue. -/
def State.drained (s : State) (h : Hart) (f : LM) (t : Tag) : Entry :=
  let x := s.vctx h h.octrl.vl
  let l := (List.range x.len).filter (fun j => (h.ok f.k.toNat).getLsbD j)
  { id := s.nextId, st := .visible, since := s.cycle, fmt := t.fmt, cnt := if t = .bx then x.len / 8 else x.len * t.n
    cells := l.map (fun j => (j, x.c.cell x.gs (vAt (drvView f) 0 j).1 (vAt (drvView f) 0 j).2))
    pois := BitVec.ofNat 256 (maskOf 256 (fun j => l.contains j && x.c.poison x.gs (vAt (drvView f) 0 j).1 (vAt (drvView f) 0 j).2)) }

/-- The rows that DRV reads. -/
def State.drvRows (s : State) (h : Hart) (f : LM) : List Nat := vRows (drvView f) (s.vctx h h.octrl.vl).len 1
def State.drvGroups (s : State) (h : Hart) (f : LM) : List Nat := (s.vctx h h.octrl.vl).groupsAt (vCols (drvView f) (s.vctx h h.octrl.vl).len)

theorem execDrv_empty (e : s.cur = some h) (empty : (s.vctx h h.octrl.vl).len = 0)
    (written : s.rowsLate s.issue.core s.issue.slot h Flight.writes (s.drvRows h f) (s.drvGroups h f) = false) : execDrv f s = .next s := by
  unfold State.drvRows State.drvGroups at written
  rw [execDrv, onHart_of _ e]
  dsimp only
  rw [written, if_neg Bool.false_ne_true, if_pos empty]
theorem execDrv_of {t : Tag} (e : s.cur = some h) (some_ : (s.vctx h h.octrl.vl).len ≠ 0)
    (written : s.rowsLate s.issue.core s.issue.slot h Flight.writes (s.drvRows h f) (s.drvGroups h f) = false) (inside : (s.vctx h h.octrl.vl).wide (drvView f) = false)
    (tag : (s.vctx h h.octrl.vl).tags (drvView f) 1 = [t]) (blocks : ¬ (t = .bx ∧ (f.x.toNat / 8 ≠ 0 ∨ (s.vctx h h.octrl.vl).len % 8 ≠ 0)))
    (fits : (s.vctx h h.octrl.vl).len ≤ s.queueCells h (8 + f.x.toNat % 8))
    (goes : ¬ (s.rowsBusy s.issue.core s.issue.slot (s.drvRows h f) (s.drvGroups h f) = true ∨ (s.queue s.issue.core (8 + f.x.toNat % 8)).room s.cycle = 0)) :
    execDrv f s = .next (({ s with nextId := s.nextId + 1 } : State).setQueue s.issue.core (8 + f.x.toNat % 8)
      ((s.queue s.issue.core (8 + f.x.toNat % 8)).push s.cycle [s.drained h f t])) := by
  unfold State.drvRows State.drvGroups at written goes
  rw [execDrv, onHart_of _ e]
  dsimp only
  rw [written, if_neg Bool.false_ne_true, if_neg some_, inside, if_neg Bool.false_ne_true, tag]
  dsimp only
  rw [if_neg blocks, if_neg (Nat.not_lt.2 fits), if_neg goes]
  rfl

/-- Settles O22: DRV pushes one entry with the cells of its view where nothing holds it up. -/
theorem drainAndPrefetch : Obligations.DrainAndPrefetch := by
  intro s h f e
  refine ⟨onHart_of _ e, ?_⟩
  intro p x v dq near
  refine ⟨fun empty written => execDrv_empty e empty written, fun t some_ inside tag blocks fits written quiet room => ?_⟩
  refine execDrv_of e some_ written inside tag (fun bad => ?_) fits ?_
  · obtain ⟨one, whole⟩ := blocks bad.1
    exact bad.2.elim (absurd one) (absurd whole)
  · rintro (busy | full)
    · exact absurd (busy.symm.trans quiet) (by decide)
    · exact room full

end Sys2Proof.Machine
end

section
/-! What a slot that is taken up leaves as it was until its write cycle (R49, R221, R222, R255). -/
namespace Sys2Proof.Machine
open Sys2Proof

/-- Only the engines, the list of settings and the named queues of one core may differ. -/
structure State.SlotFrame (s t : State) (p : Nat) (qs : List Nat) : Prop where
  rest : { t with cores := s.cores, nextId := s.nextId } = s
  others : ∀ q, q ≠ p → t.core q = s.core q
  own : { t.core p with q := (s.core p).q, vUntil := (s.core p).vUntil, mUntil := (s.core p).mUntil, flight := (s.core p).flight } = s.core p
  queues : ∀ q, q ∉ qs → t.queue p q = s.queue p q

variable {s t u : State} {p : Nat} {qs : List Nat}

theorem State.SlotFrame.refl (s : State) (p : Nat) (qs : List Nat) : s.SlotFrame s p qs := ⟨rfl, fun _ _ => rfl, rfl, fun _ _ => rfl⟩
theorem State.SlotFrame.trans (a : s.SlotFrame t p qs) (b : t.SlotFrame u p qs) : s.SlotFrame u p qs where
  rest := (congrArg (fun t : State => { t with cores := s.cores, nextId := s.nextId }) b.rest).trans a.rest
  others q other := (b.others q other).trans (a.others q other)
  own := (congrArg (fun c : Core => { c with q := (s.core p).q, vUntil := (s.core p).vUntil, mUntil := (s.core p).mUntil, flight := (s.core p).flight }) b.own).trans a.own
  queues q out := (b.queues q out).trans (a.queues q out)
theorem State.SlotFrame.mono {rs : List Nat} (a : s.SlotFrame t p qs) (sub : ∀ q ∈ qs, q ∈ rs) : s.SlotFrame t p rs where
  rest := a.rest
  others := a.others
  own := a.own
  queues q out := a.queues q (fun inside => out (sub q inside))

/-- A change of a core that keeps all but its engines and its list of settings. -/
theorem State.SlotFrame.modCore (s : State) (p : Nat) (qs : List Nat) (f : Core → Core)
    (keeps : { f (s.core p) with q := (s.core p).q, vUntil := (s.core p).vUntil, mUntil := (s.core p).mUntil, flight := (s.core p).flight } = s.core p)
    (queues : ∀ q, q ∉ qs → tget {} (f (s.core p)).q q = s.queue p q) : s.SlotFrame (s.modCore p f) p qs where
  rest := rfl
  others q other := by rw [State.core_modCore, if_neg other]
  own := by rw [State.core_modCore_same]; exact keeps
  queues q out := by rw [State.queue, State.core_modCore_same]; exact queues q out
theorem State.SlotFrame.setQueue (s : State) (p q : Nat) (qs : List Nat) (x : Queue) (inside : q ∈ qs) : s.SlotFrame (s.setQueue p q x) p qs :=
  State.SlotFrame.modCore s p qs _ rfl (fun _ out => tget_tset_ne _ _ _ (fun same => out (same ▸ inside)))
theorem State.SlotFrame.takeV (s : State) (p : Nat) (qs : List Nat) (cycle hold : Nat) (f : Flight) : s.SlotFrame (s.modCore p (·.takeV cycle hold f)) p qs :=
  State.SlotFrame.modCore s p qs _ rfl (fun _ _ => rfl)
theorem State.SlotFrame.takeM (s : State) (p : Nat) (qs : List Nat) (cycle hold : Nat) (fl : List Flight) : s.SlotFrame (s.modCore p (·.takeM cycle hold fl)) p qs :=
  State.SlotFrame.modCore s p qs _ rfl (fun _ _ => rfl)
theorem State.SlotFrame.named (a : s.SlotFrame t p qs) (n : Nat) : s.SlotFrame { t with nextId := n } p qs := ⟨a.rest, a.others, a.own, a.queues⟩
theorem State.SlotFrame.popAll (s : State) (p : Nat) (qs : List Nat) : s.SlotFrame (s.popAll p qs) p qs :=
  foldl_keeps (s.SlotFrame · p qs) _ qs s (.refl s p qs) (fun _ q inside kept => kept.trans (.setQueue _ p q qs _ inside))

theorem State.SlotFrame.vTaken (s : State) (srcs : List View) (lat hold : Nat) (rows groups : List Nat) (deps : List Dep) (e : VEff) :
    s.SlotFrame (s.vTaken srcs lat hold rows groups deps e) s.issue.core (queuesOf srcs) :=
  ((State.SlotFrame.popAll s _ _).trans (.takeV _ _ _ _ _ _)).named _
theorem State.SlotFrame.vWrites (s : State) (x : VCtx) (t : Tag) (srcs : List View) (dst : View) (lat hold : Nat) (writes groups : List Nat) (puts : List (Nat × Nat × Cell × Bool)) :
    s.SlotFrame (s.vWrites x t srcs dst lat hold writes groups puts) s.issue.core (queuesOf srcs ++ match dst with | .dq n => [8 + n] | _ => []) := by
  have plain (rows : List Nat) (e : VEff) (qs : List Nat) : s.SlotFrame (s.vTaken srcs lat hold rows groups [] e) s.issue.core (queuesOf srcs ++ qs) :=
    (State.SlotFrame.vTaken s srcs lat hold rows groups [] e).mono (fun _ => List.mem_append_left _)
  unfold State.vWrites
  split
  · split
    · exact plain _ _ _
    · refine State.SlotFrame.named ((((State.SlotFrame.popAll s _ _).mono (fun _ => List.mem_append_left _)).trans (.setQueue _ _ _ _ _ ?_)).trans (.takeV _ _ _ _ _ _)) _
      exact List.mem_append_right _ (List.mem_singleton_self _)
  · exact plain _ _ _

/-- Settles O59: taking a slot up is a chain of changes that each keep the frame. -/
theorem slotsInFlightFrame : Obligations.SlotsInFlightFrame := by
  intro s srcs lat hold p same
  have spelled (t : State) (qs : List Nat) (frame : s.SlotFrame t p qs) : same t qs := by
    obtain ⟨rest, others, own, queues⟩ := frame
    have field {γ : Type} (g : State → γ) (keeps : g { t with cores := s.cores, nextId := s.nextId } = g t) : g t = g s := keeps.symm.trans (congrArg g rest)
    have part {γ : Type} (g : Core → γ) (keeps : g { t.core p with q := (s.core p).q, vUntil := (s.core p).vUntil, mUntil := (s.core p).mUntil, flight := (s.core p).flight } = g (t.core p)) :
        g (t.core p) = g (s.core p) := keeps.symm.trans (congrArg g own)
    have harts (q i : Nat) : t.hart? q i = s.hart? q i := by
      unfold State.hart?
      by_cases here : q = p
      · rw [here, part Core.harts rfl]
      · rw [others q here]
    exact ⟨field State.mem rfl, field State.pw rfl, field State.marks rfl, field State.dies rfl, field State.hub rfl, field State.cycle rfl, field State.issue rfl, field State.events rfl,
      field State.outbox rfl, harts, others, part Core.grid rfl, part Core.pois rfl, part Core.tags rfl, part Core.chkrow rfl, part Core.chkcol rfl, part Core.fifo rfl, part Core.lmap rfl,
      part Core.lat rfl, part Core.frq rfl, queues⟩
  refine ⟨fun rows groups deps e => ⟨spelled _ _ (.vTaken ..), ?_⟩, fun x t dst writes groups puts => spelled _ _ (.vWrites ..), fun qs fl n => spelled _ _ (((State.SlotFrame.popAll s _ _).trans (.takeM ..)).named n)⟩
  have listed : ((s.popAll p (queuesOf srcs)).core p).flight = (s.core p).flight := foldl_same (fun s : State => (s.core p).flight) _ _ _ (fun _ _ _ => by simp [State.setQueue])
  refine ⟨{ id := s.nextId, slot := s.issue.slot, due := s.cycle + lat - 1, rows := rows, groups := groups, deps := deps, eff := .v e }, ?_, rfl⟩
  rw [← listed]
  exact congrArg Core.flight (State.core_modCore_same (s.popAll p (queuesOf srcs)) p (·.takeV s.cycle hold
    { id := s.nextId, slot := s.issue.slot, due := s.cycle + lat - 1, rows := rows, groups := groups, deps := deps, eff := .v e }))

end Sys2Proof.Machine
end

section
/-! Write cycles (R222, R232, R255, R286). -/
namespace Sys2Proof.Machine
open Sys2Proof

variable {s : State} {f : Flight} {p id : Nat}

/-- What the write cycle of a V slot leaves, before a corrected error that comes with it. -/
def State.vWritten (s : State) (p id : Nat) (f : Flight) (e : VEff) : State :=
  if f.fault then s.unfly p id
  else
    let s3 := ((s.unfly p id).modCore p e.grid).modHart p f.slot (e.hart f.due)
    match e.dq with
    | some (q, x) => s3.setQueue p q ((s3.queue p q).show f.due x)
    | none => s3
theorem State.vWriteback_of {e : VEff} (due : s.flightDue p id = some f) (eff : f.eff = .v e) : s.vWriteback p id = ((s.vWritten p id f e).correctedNow p).settle p f.slot := by
  unfold State.vWriteback
  rw [due]
  dsimp only
  rw [eff]
  rfl

/-- What the write cycle of an update leaves, before a corrected error that comes with it. -/
def State.mWritten (s : State) (p id : Nat) (h : Hart) (e : MEff) : State :=
  ((s.setCore p (e.apply (s.core p) (s.colo p h)).1).unfly p id).setColo p h (e.apply (s.core p) (s.colo p h)).2
theorem State.updateWriteback_of {e : MEff} {h : Hart} (due : s.flightDue p id = some f) (hart : s.hart? p f.slot = some h) (eff : f.eff = .m e) :
    s.updateWriteback p id = ((s.mWritten p id h e).correctedNow p).settle p f.slot := by
  unfold State.updateWriteback
  rw [due, Option.bind_some, hart]
  dsimp only
  rw [eff]
  rfl

/-- Settles O39: a write cycle that is due makes the writes of its slot, and its hart then takes what it owes. -/
theorem writeCycles : Obligations.WriteCycles := by
  intro s f inside p t due
  have v (e : VEff) (eff : f.eff = .v e) : execVWriteback s = .next (((s.vWritten p s.arg.id f e).correctedNow p).settle p f.slot) :=
    (below_of _ inside).trans (congrArg _ (State.vWriteback_of due eff))
  refine ⟨fun e eff fault => ?_, fun e eff fine none_ => ?_, fun e q n eff fine some_ => ?_, fun e h eff hart => ?_⟩
  · refine (v e eff).trans ?_
    rw [State.vWritten, fault]
    rfl
  · refine (v e eff).trans ?_
    rw [State.vWritten, fine, none_]
    rfl
  · intro t1
    refine (v e eff).trans ?_
    rw [State.vWritten, fine, some_]
    rfl
  · exact (below_of _ inside).trans (congrArg _ (State.updateWriteback_of due hart eff))

end Sys2Proof.Machine
end

section
/-! What a write cycle leaves as it was (R212, R222, R232). -/
namespace Sys2Proof.Machine
open Sys2Proof

variable {s t u : State} {p : Nat}

/-- A hart that owes no trap takes none. -/
theorem State.settle_of {i : Nat} {h : Hart} (hart : s.hart? p i = some h) (owes : h.owed = []) : s.settle p i = s := by
  unfold State.settle
  rw [hart]
  exact if_pos (Or.inl (by rw [owes]; rfl))

/-- What no count of corrected errors tells of a core, a corrected error leaves. -/
theorem State.core_correctedNow {γ : Type} (g : Core → γ) (keeps : ∀ c n, g { c with corrected := n } = g c) (s : State) (p q : Nat) : g ((s.correctedNow p).core q) = g (s.core q) := by
  have counted (n : Tbl Nat) : g ((s.modCore p (fun c => { c with corrected := n })).core q) = g (s.core q) := by
    rw [State.core_modCore]
    split
    · rename_i here; rw [here]; exact keeps _ _
    · rfl
  unfold State.correctedNow State.correctError
  dsimp only
  split
  · split <;> exact counted _
  · rfl
theorem State.core_correctedNow_other {q : Nat} (s : State) (other : q ≠ p) : (s.correctedNow p).core q = s.core q := by
  have counted (n : Tbl Nat) : (s.modCore p (fun c => { c with corrected := n })).core q = s.core q := by rw [State.core_modCore, if_neg other]
  unfold State.correctedNow State.correctError
  dsimp only
  split
  · split <;> exact counted _
  · rfl
/-- Of the package a corrected error changes only its records and their numbers. -/
theorem State.correctedNow_rest (s : State) (p : Nat) : { s.correctedNow p with cores := s.cores, events := s.events, seqs := s.seqs } = s := by
  unfold State.correctedNow State.correctError
  dsimp only
  split
  · split <;> rfl
  · rfl
theorem State.correctedNow_none (s : State) (p : Nat) (flag : s.arg.flag = false) : s.correctedNow p = s := if_neg (fun c => by rw [flag] at c; exact absurd c.1 (by decide))

/-! A V slot. -/
/-- What no write of a cell and no tag tells of a core, the writes of a V slot leave. -/
theorem VEff.grid_same {γ : Type} (e : VEff) (g : Core → γ) (cell : ∀ c r j v b, g (c.putCell e.gs r j v b) = g c)
    (tag : ∀ q ∈ e.tags, ∀ c, g (c.putTag e.gs q.1 q.2) = g c) (c : Core) : g (e.grid c) = g c :=
  (foldl_same g _ _ _ (fun c q inside => tag q inside c)).trans (foldl_same g _ _ _ (fun c _ _ => cell c _ _ _ _))
/-- A cell of the grid that is none of the slot's stands. -/
theorem VEff.grid_cell (e : VEff) (c : Core) (n : Nat) (out : ∀ q ∈ e.puts, n ≠ cellKey q.1 (c.col e.gs q.2.1)) :
    tget 0 (e.grid c).grid n = tget 0 c.grid n ∧ tget false (e.grid c).pois n = tget false c.pois n := by
  have puts := foldl_keeps (fun d : Core => d.lmap = c.lmap ∧ tget 0 d.grid n = tget 0 c.grid n ∧ tget false d.pois n = tget false c.pois n)
    (fun c q => c.putCell e.gs q.1 q.2.1 (e.merged c q.1 q.2.1 q.2.2).1 (e.merged c q.1 q.2.1 q.2.2).2) e.puts c ⟨rfl, rfl, rfl⟩ (by
      rintro d q inside ⟨map, grid, pois⟩
      have away : n ≠ cellKey q.1 (d.col e.gs q.2.1) := by
        unfold Core.col Core.phys
        rw [map]
        exact out q inside
      exact ⟨map, (tget_tset_ne 0 d.grid _ away).trans grid, (tget_tset_ne false d.pois _ away).trans pois⟩)
  have tags (d : Core) : (e.tags.foldl (fun c q => c.putTag e.gs q.1 q.2) d).grid = d.grid ∧ (e.tags.foldl (fun c q => c.putTag e.gs q.1 q.2) d).pois = d.pois :=
    ⟨foldl_same Core.grid _ _ _ (fun _ _ _ => rfl), foldl_same Core.pois _ _ _ (fun _ _ _ => rfl)⟩
  exact ⟨(congrArg (tget 0 · n) (tags _).1).trans puts.2.1, (congrArg (tget false · n) (tags _).2).trans puts.2.2⟩
/-- Of its hart the slot changes only mask registers and scales. -/
theorem VEff.hart_same {γ : Type} (e : VEff) (g : Hart → γ) (k : ∀ h at_ n v, g (h.putK at_ n v) = g h) (vsc : ∀ h v, g { h with vsc := v } = g h) (at_ : Nat) (h : Hart) :
    g (e.hart at_ h) = g h := (vsc _ _).trans (foldl_same g _ _ _ (fun h q _ => k h at_ q.1 q.2))
theorem VEff.readK_hart (e : VEff) (at_ : Nat) (h : Hart) (n : Nat) (out : ∀ q ∈ e.masks, q.1 ≠ n) : readK (e.hart at_ h).regs n = readK h.regs n :=
  foldl_same (fun h : Hart => readK h.regs n) (fun h (q : Nat × Mask) => h.putK at_ q.1 q.2) e.masks h (fun _ q inside => readK_writeK_ne _ _ (out q inside).symm)
theorem VEff.vsc_hart (e : VEff) (at_ : Nat) (h : Hart) (n : Nat) (out : ∀ q ∈ e.vsc, q.1 ≠ n) : tget 0x7F (e.hart at_ h).vsc n = tget 0x7F h.vsc n :=
  foldl_same (fun t : Tbl (BitVec 8) => tget 0x7F t n) (fun t (q : Nat × BitVec 8) => tset t q.1 q.2) e.vsc h.vsc (fun t q inside => tget_tset_ne _ t q.2 (out q inside).symm)

/-- The package outside its cores stands through the writes of a V slot. -/
theorem State.vWritten_rest (s : State) (p id : Nat) (f : Flight) (e : VEff) :
    { s.vWritten p id f e with cores := s.cores, dies := s.dies } = s ∧ (s.vWritten p id f e).dies = s.dies := by
  unfold State.vWritten State.modHart
  split
  · exact ⟨rfl, rfl⟩
  · dsimp only
    split <;> split <;> exact ⟨rfl, rfl⟩
theorem State.core_vWritten_other {q : Nat} (s : State) (id : Nat) (f : Flight) (e : VEff) (other : q ≠ p) : (s.vWritten p id f e).core q = s.core q := by
  have step (s : State) (g : Core → Core) : (s.modCore p g).core q = s.core q := by rw [State.core_modCore, if_neg other]
  have hart (s : State) (g : Hart → Hart) : (s.modHart p f.slot g).core q = s.core q := by
    unfold State.modHart
    split
    · rfl
    · exact step s _
  unfold State.vWritten
  split
  · exact step s _
  · dsimp only
    split
    · exact (step _ _).trans ((hart _ _).trans ((step _ _).trans (step s _)))
    · exact (hart _ _).trans ((step _ _).trans (step s _))
/-- What the writes of a V slot leave of its core: what no cell, tag, drain entry, hart or slot in flight tells. -/
theorem State.core_vWritten_same {γ : Type} (s : State) (p id : Nat) (f : Flight) (e : VEff) (g : Core → γ) (flight : ∀ c l, g { c with flight := l } = g c)
    (harts : ∀ c l, g { c with harts := l } = g c) (drain : e.dq = none ∨ ∀ c x, g { c with q := x } = g c) (grid : ∀ c, c.lmap = (s.core p).lmap → g (e.grid c) = g c) :
    g ((s.vWritten p id f e).core p) = g (s.core p) := by
  have unfly : g ((s.unfly p id).core p) = g (s.core p) := by rw [State.unfly, State.core_modCore_same]; exact flight _ _
  have written : g ((((s.unfly p id).modCore p e.grid).modHart p f.slot (e.hart f.due)).core p) = g (s.core p) := by
    rw [State.core_modHart_same g harts, State.core_modCore_same, grid _ (by rw [State.unfly, State.core_modCore_same]), unfly]
  unfold State.vWritten
  split
  · exact unfly
  · dsimp only
    split
    · rename_i some_
      rw [State.setQueue, State.core_modCore_same, drain.resolve_left (by rw [some_]; exact Option.some_ne_none _), written]
    · exact written

/-- A hart other than the slot's stands. -/
theorem State.hart?_vWritten_ne (s : State) (p id : Nat) (f : Flight) (e : VEff) {i : Nat} (other : i ≠ f.slot) : (s.vWritten p id f e).hart? p i = s.hart? p i := by
  have step (s : State) (g : Core → Core) (keeps : (g (s.core p)).harts = (s.core p).harts) : (s.modCore p g).hart? p i = s.hart? p i := by
    unfold State.hart?
    rw [State.core_modCore_same, keeps]
  have unfly : (s.unfly p id).hart? p i = s.hart? p i := step s _ rfl
  have written : (((s.unfly p id).modCore p e.grid).modHart p f.slot (e.hart f.due)).hart? p i = s.hart? p i := by
    rw [State.hart?_modHart_ne _ _ _ _ _ _ (fun same => other same.2), step _ e.grid (e.grid_same Core.harts (fun _ _ _ _ _ => rfl) (fun _ _ _ => rfl) _), unfly]
  unfold State.vWritten
  split
  · exact unfly
  · dsimp only
    split
    · exact (step _ _ rfl).trans written
    · exact written
/-- The slot's hart has at most its masks and scales written. -/
theorem State.hart?_vWritten (s : State) (p id : Nat) (f : Flight) (e : VEff) {h : Hart} (hart : s.hart? p f.slot = some h) :
    (s.vWritten p id f e).hart? p f.slot = some (if f.fault then h else e.hart f.due h) := by
  have step (s : State) (g : Core → Core) (keeps : (g (s.core p)).harts = (s.core p).harts) : (s.modCore p g).hart? p f.slot = s.hart? p f.slot := by
    unfold State.hart?
    rw [State.core_modCore_same, keeps]
  have unfly : (s.unfly p id).hart? p f.slot = some h := (step s _ rfl).trans hart
  have written : (((s.unfly p id).modCore p e.grid).modHart p f.slot (e.hart f.due)).hart? p f.slot = some (e.hart f.due h) :=
    State.hart?_modHart_same _ _ _ _ _ ((step _ e.grid (e.grid_same Core.harts (fun _ _ _ _ _ => rfl) (fun _ _ _ => rfl) _)).trans unfly)
  unfold State.vWritten
  split
  · exact unfly
  · dsimp only
    split
    · exact (step _ _ rfl).trans written
    · exact written

/-! An update. -/
/-- One cell of an update adds to checksums and writes its cell and that of its mirror: what these keep, it keeps. -/
theorem MEff.cell_keeps (e : MEff) (P : Core → Prop) (i ca j : Nat) (c : Core) (k : Colo) (holds : P c) (chk : ∀ d row col x, P d → P (d.addChk row col x))
    (cell : ∀ d v b, P d → P (d.putCell e.gs i j v b)) (mirror : e.mir ≠ 0 → ∀ d v b, P d → P (d.putCell e.gs i (j + e.mir) v b)) : P (e.cell i ca j c k).1 := by
  have sums (l : List Dy) (d : Core) (col : Nat) (h : P d) : P (l.foldl (fun c x => c.addChk i col x) d) := foldl_keeps P _ l d h (fun d x _ h => chk d i col x h)
  have first (o : Option Dy) (col : Nat) : P (match o with | some d => c.addChk i col d.neg | none => c) := by
    cases o with
    | none => exact holds
    | some d => exact chk c i col _ holds
  have last (d : Core) (v : Cell) (b : Bool) (h : P d) : P (if e.mir = 0 then d else d.putCell e.gs i (j + e.mir) v b) := by
    split
    · exact h
    · exact mirror ‹_› d v b h
  exact last _ _ _ (cell _ _ _ (sums _ _ _ (first _ _)))
theorem MEff.apply_keeps (e : MEff) (P : Core → Prop) (c : Core) (k : Colo) (holds : P c) (chk : ∀ d row col x, P d → P (d.addChk row col x))
    (cell : ∀ q ∈ mRows e.f.hs.toNat e.len, ∀ j < e.len, ∀ d v b, P d → P (d.putCell e.gs q.1 j v b))
    (mirror : e.mir ≠ 0 → ∀ q ∈ mRows e.f.hs.toNat e.len, ∀ j < e.len, ∀ d v b, P d → P (d.putCell e.gs q.1 (j + e.mir) v b)) : P (e.apply c k).1 := by
  have row (q : Nat × Nat) (inside : q ∈ mRows e.f.hs.toNat e.len) (ck : Core × Colo) (holds : P ck.1) :
      P ((List.range e.len).foldl (fun ck j => e.cell q.1 q.2 j ck.1 ck.2) ck).1 :=
    foldl_keeps (fun ck : Core × Colo => P ck.1) (fun ck j => e.cell q.1 q.2 j ck.1 ck.2) (List.range e.len) ck holds (fun ck j col holds =>
      e.cell_keeps P q.1 q.2 j ck.1 ck.2 holds chk (cell q inside j (List.mem_range.1 col)) (fun m => mirror m q inside j (List.mem_range.1 col)))
  unfold MEff.apply
  refine foldl_keeps (fun ck : Core × Colo => P ck.1) _ _ _ ?_ ?_
  · exact holds
  · intro ck q inside holds
    exact row q inside ck holds
/-- What no checksum and no write of a cell tells of a core, an update leaves. -/
theorem MEff.apply_same {γ : Type} (e : MEff) (g : Core → γ) (chk : ∀ c row col x, g (c.addChk row col x) = g c) (cell : ∀ c r j v b, g (c.putCell e.gs r j v b) = g c) (c : Core) (k : Colo) :
    g (e.apply c k).1 = g c :=
  e.apply_keeps (fun d => g d = g c) c k rfl (fun _ _ _ _ h => (chk _ _ _ _).trans h) (fun _ _ _ _ _ _ _ h => (cell _ _ _ _ _).trans h) (fun _ _ _ _ _ _ _ _ h => (cell _ _ _ _ _).trans h)
/-- A cell of the grid outside the footprint of an update stands. -/
theorem MEff.apply_cell (e : MEff) (c : Core) (k : Colo) (n : Nat)
    (out : ∀ q ∈ mRows e.f.hs.toNat e.len, ∀ j < e.len, n ≠ cellKey q.1 (c.col e.gs j) ∧ (e.mir ≠ 0 → n ≠ cellKey q.1 (c.col e.gs (j + e.mir)))) :
    tget 0 (e.apply c k).1.grid n = tget 0 c.grid n ∧ tget false (e.apply c k).1.pois n = tget false c.pois n := by
  have put (r j : Nat) (away : n ≠ cellKey r (c.col e.gs j)) (d : Core) (v : Cell) (b : Bool)
      (h : d.lmap = c.lmap ∧ tget 0 d.grid n = tget 0 c.grid n ∧ tget false d.pois n = tget false c.pois n) :
      (d.putCell e.gs r j v b).lmap = c.lmap ∧ tget 0 (d.putCell e.gs r j v b).grid n = tget 0 c.grid n ∧ tget false (d.putCell e.gs r j v b).pois n = tget false c.pois n := by
    obtain ⟨map, grid, pois⟩ := h
    have away' : n ≠ cellKey r (d.col e.gs j) := by
      unfold Core.col Core.phys
      rw [map]
      exact away
    exact ⟨map, (tget_tset_ne 0 d.grid _ away').trans grid, (tget_tset_ne false d.pois _ away').trans pois⟩
  exact (e.apply_keeps (fun d => d.lmap = c.lmap ∧ tget 0 d.grid n = tget 0 c.grid n ∧ tget false d.pois n = tget false c.pois n) c k ⟨rfl, rfl, rfl⟩ (fun _ _ _ _ h => h)
    (fun q row j col => put q.1 j (out q row j col).1) (fun m q row j col => put q.1 (j + e.mir) ((out q row j col).2 m))).2

/-- The package outside its cores and dies stands through an update. -/
theorem State.mWritten_rest (s : State) (p id : Nat) (h : Hart) (e : MEff) : { s.mWritten p id h e with cores := s.cores, dies := s.dies } = s := rfl
theorem State.core_mWritten_other {q : Nat} (s : State) (id : Nat) (h : Hart) (e : MEff) (other : q ≠ p) : (s.mWritten p id h e).core q = s.core q := by
  have unfly (s : State) : (s.unfly p id).core q = s.core q := by rw [State.unfly, State.core_modCore, if_neg other]
  exact (unfly _).trans (by rw [State.core_setCore, if_neg other])
theorem State.core_mWritten_same {γ : Type} (s : State) (p id : Nat) (h : Hart) (e : MEff) (g : Core → γ) (flight : ∀ c l, g { c with flight := l } = g c) :
    g ((s.mWritten p id h e).core p) = g (e.apply (s.core p) (s.colo p h)).1 := by
  have unfly : g (((s.setCore p (e.apply (s.core p) (s.colo p h)).1).unfly p id).core p) = g (e.apply (s.core p) (s.colo p h)).1 := by
    rw [State.unfly, State.core_modCore_same, flight, State.core_setCore, if_pos rfl]
  exact unfly

/-- What a corrected error leaves of the package and of its cores. -/
theorem State.hart?_correctedNow (s : State) (p i : Nat) : (s.correctedNow p).hart? p i = s.hart? p i :=
  congrArg (fun l => tget none l i) (State.core_correctedNow Core.harts (fun _ _ => rfl) s p p)

/-- What of a machine neither its cores, its dies nor its event records tell stands through a write cycle. -/
theorem State.correctedNow_same {γ : Type} (g : State → γ) (keeps : ∀ s cores dies events seqs, g { s with cores := cores, dies := dies, events := events, seqs := seqs } = g s)
    (same : { u with cores := s.cores, dies := s.dies } = s) : g (u.correctedNow p) = g s :=
  calc g (u.correctedNow p) = g { u.correctedNow p with cores := u.cores, events := u.events, seqs := u.seqs } := (keeps _ _ (u.correctedNow p).dies _ _).symm
    _ = g u := congrArg g (State.correctedNow_rest u p)
    _ = g { u with cores := s.cores, dies := s.dies } := (keeps u s.cores s.dies u.events u.seqs).symm
    _ = g s := congrArg g same
theorem State.correctedNow_events (same : { u with cores := s.cores, dies := s.dies } = s) (flag : s.arg.flag = false) : (u.correctedNow p).events = s.events := by
  have arg : u.arg = s.arg := (congrArg State.arg same :)
  rw [State.correctedNow_none u p (by rw [arg]; exact flag)]
  exact (congrArg State.events same :)

/-- Parts of a core that no slot writes: nothing that a write cycle makes tells on them. -/
def Core.Apart {γ : Type} (g : Core → γ) : Prop :=
  ∀ c corrected flight harts q grid pois dirty tags chkrow chkcol, g { c with corrected := corrected, flight := flight, harts := harts, q := q, grid := grid, pois := pois, dirty := dirty, tags := tags, chkrow := chkrow, chkcol := chkcol } = g c
/-- What stands through every write cycle, from what the writes of its slot leave. -/
theorem State.correctedNow_rest_of (same : { u with cores := s.cores, dies := s.dies } = s) (is : t = u.correctedNow p) (other : ∀ q, q ≠ p → u.core q = s.core q)
    (own : ∀ {γ : Type} (g : Core → γ), Core.Apart g → g (u.core p) = g (s.core p)) :
    t.mem = s.mem ∧ t.pw = s.pw ∧ t.marks = s.marks ∧ t.hub = s.hub ∧ (s.arg.flag = false → t.events = s.events) ∧ t.cycle = s.cycle ∧ (∀ q, q ≠ p → t.core q = s.core q)
      ∧ (t.core p).fifo = (s.core p).fifo ∧ (t.core p).lmap = (s.core p).lmap ∧ (t.core p).lat = (s.core p).lat ∧ (t.core p).pgseed = (s.core p).pgseed ∧ (t.core p).frq = (s.core p).frq := by
  subst is
  have whole {γ : Type} (g : State → γ) (keeps : ∀ s cores dies events seqs, g { s with cores := cores, dies := dies, events := events, seqs := seqs } = g s) :
      g (u.correctedNow p) = g s := State.correctedNow_same g keeps same
  have part {γ : Type} (g : Core → γ) (apart : Core.Apart g) : g ((u.correctedNow p).core p) = g (s.core p) :=
    (State.core_correctedNow g (fun c _ => apart c _ _ _ _ _ _ _ _ _ _) u p p).trans (own g apart)
  exact ⟨whole State.mem fun _ _ _ _ _ => rfl, whole State.pw fun _ _ _ _ _ => rfl, whole State.marks fun _ _ _ _ _ => rfl, whole State.hub fun _ _ _ _ _ => rfl,
    State.correctedNow_events same, whole State.cycle fun _ _ _ _ _ => rfl, fun q away => (State.core_correctedNow_other u away).trans (other q away),
    part Core.fifo fun _ _ _ _ _ _ _ _ _ _ _ => rfl, part Core.lmap fun _ _ _ _ _ _ _ _ _ _ _ => rfl, part Core.lat fun _ _ _ _ _ _ _ _ _ _ _ => rfl,
    part Core.pgseed fun _ _ _ _ _ _ _ _ _ _ _ => rfl, part Core.frq fun _ _ _ _ _ _ _ _ _ _ _ => rfl⟩

/-- Settles O60: what no cell, tag, mask, scale or drain entry of the slot names stands through its write cycle. -/
theorem writeCycleFrame : Obligations.WriteCycleFrame := by
  intro s t f h p due hart owes c c' rest
  refine ⟨fun e eff gives => ?_, fun e eff gives => ?_⟩
  · obtain ⟨-, ends⟩ := below_next (gives : execVWriteback s = .next t)
    have hartW := State.hart?_vWritten s p s.arg.id f e hart
    have owesW : (if f.fault then h else e.hart f.due h).owed = [] := by
      split
      · exact owes
      · exact (e.hart_same Hart.owed (fun _ _ _ _ => rfl) (fun _ _ => rfl) _ _).trans owes
    have is : t = (s.vWritten p s.arg.id f e).correctedNow p := by
      rw [ends, State.vWriteback_of due eff]
      exact State.settle_of ((State.hart?_correctedNow _ _ _).trans hartW) owesW
    have harts (i : Nat) : t.hart? p i = (s.vWritten p s.arg.id f e).hart? p i := by rw [is, State.hart?_correctedNow]
    have core {γ : Type} (g : Core → γ) (corrected : ∀ c n, g { c with corrected := n } = g c) (flight : ∀ c l, g { c with flight := l } = g c)
        (harts : ∀ c l, g { c with harts := l } = g c) (drain : e.dq = none ∨ ∀ c x, g { c with q := x } = g c) (grid : ∀ d, d.lmap = c.lmap → g (e.grid d) = g d) : g c' = g c := by
      show g (t.core p) = _
      rw [is, State.core_correctedNow g corrected, State.core_vWritten_same s p s.arg.id f e g flight harts drain grid]
    obtain ⟨same, dies⟩ := State.vWritten_rest s p s.arg.id f e
    refine ⟨State.correctedNow_rest_of same is (fun q away => State.core_vWritten_other _ _ _ _ away) (fun g apart => ?_), ?_, ?_, ?_, fun none_ => ?_, fun none_ => ?_, fun i away => ?_,
      fun n out => ?_, _, (harts _).trans hartW, ?_⟩
    · exact State.core_vWritten_same s p s.arg.id f e g (fun c _ => apart c _ _ _ _ _ _ _ _ _ _) (fun c _ => apart c _ _ _ _ _ _ _ _ _ _) (Or.inr fun c _ => apart c _ _ _ _ _ _ _ _ _ _)
        (fun _ _ => e.grid_same g (fun c _ _ _ _ => apart c _ _ _ _ _ _ _ _ _ _) (fun _ _ c => apart c _ _ _ _ _ _ _ _ _ _) _)
    · rw [is]
      exact (congrArg State.dies (State.correctedNow_rest _ _)).trans dies
    · exact core Core.chkrow (fun _ _ => rfl) (fun _ _ => rfl) (fun _ _ => rfl) (Or.inr fun _ _ => rfl) fun _ _ => e.grid_same _ (fun _ _ _ _ _ => rfl) (fun _ _ _ => rfl) _
    · exact core Core.chkcol (fun _ _ => rfl) (fun _ _ => rfl) (fun _ _ => rfl) (Or.inr fun _ _ => rfl) fun _ _ => e.grid_same _ (fun _ _ _ _ _ => rfl) (fun _ _ _ => rfl) _
    · exact core Core.q (fun _ _ => rfl) (fun _ _ => rfl) (fun _ _ => rfl) (Or.inl none_) fun _ _ => e.grid_same _ (fun _ _ _ _ _ => rfl) (fun _ _ _ => rfl) _
    · exact core Core.tags (fun _ _ => rfl) (fun _ _ => rfl) (fun _ _ => rfl) (Or.inr fun _ _ => rfl) fun _ _ => e.grid_same _ (fun _ _ _ _ _ => rfl) (by simp [none_]) _
    · exact (harts i).trans (State.hart?_vWritten_ne s p s.arg.id f e away)
    · have out' (d : Core) (map : d.lmap = c.lmap) : ∀ q ∈ e.puts, n ≠ cellKey q.1 (d.col e.gs q.2.1) := by
        unfold Core.col Core.phys
        rw [map]
        exact out
      exact ⟨core (tget 0 ·.grid n) (fun _ _ => rfl) (fun _ _ => rfl) (fun _ _ => rfl) (Or.inr fun _ _ => rfl) fun d map => (e.grid_cell d n (out' d map)).1,
        core (tget false ·.pois n) (fun _ _ => rfl) (fun _ _ => rfl) (fun _ _ => rfl) (Or.inr fun _ _ => rfl) fun d map => (e.grid_cell d n (out' d map)).2⟩
    · have kept {γ : Type} (g : Hart → γ) (k : ∀ h at_ n v, g (h.putK at_ n v) = g h) (vsc : ∀ h v, g { h with vsc := v } = g h) : g (if f.fault then h else e.hart f.due h) = g h := by
        split
        · rfl
        · exact e.hart_same g k vsc _ _
      refine ⟨kept (·.regs.g) (fun h _ n _ => ?_) fun _ _ => rfl, kept (·.regs.a) (fun h _ n _ => ?_) fun _ _ => rfl, kept Hart.ctrl (fun _ _ _ _ => rfl) fun _ _ => rfl,
        kept Hart.trap (fun _ _ _ _ => rfl) fun _ _ => rfl, kept Hart.pc (fun _ _ _ _ => rfl) fun _ _ => rfl, kept Hart.handler (fun _ _ _ _ => rfl) fun _ _ => rfl,
        fun n out => ?_, fun n out => ?_⟩
      · unfold Hart.putK writeK
        split <;> rfl
      · unfold Hart.putK writeK
        split <;> rfl
      · split
        · rfl
        · exact e.readK_hart _ _ _ out
      · split
        · rfl
        · exact e.vsc_hart _ _ _ out
  · obtain ⟨-, ends⟩ := below_next (gives : execUpdateWriteback s = .next t)
    have harts (i : Nat) : (s.mWritten p s.arg.id h e).hart? p i = s.hart? p i :=
      congrArg (tget none · i) ((State.core_mWritten_same s p s.arg.id h e Core.harts (fun _ _ => rfl)).trans (e.apply_same Core.harts (fun _ _ _ _ => rfl) (fun _ _ _ _ _ => rfl) _ _))
    have is : t = (s.mWritten p s.arg.id h e).correctedNow p := by
      rw [ends, State.updateWriteback_of due hart eff]
      exact State.settle_of ((State.hart?_correctedNow _ _ _).trans ((harts _).trans hart)) owes
    have core {γ : Type} (g : Core → γ) (corrected : ∀ c n, g { c with corrected := n } = g c) (flight : ∀ c l, g { c with flight := l } = g c) :
        g c' = g (e.apply c (s.colo p h)).1 := by
      show g (t.core p) = _
      rw [is, State.core_correctedNow g corrected, State.core_mWritten_same s p s.arg.id h e g flight]
    refine ⟨State.correctedNow_rest_of (State.mWritten_rest s p s.arg.id h e) is (fun q away => State.core_mWritten_other _ _ _ _ away) (fun g apart => ?_), ?_, ?_, fun i => ?_, fun n out => ?_⟩
    · exact (State.core_mWritten_same s p s.arg.id h e g (fun c _ => apart c _ _ _ _ _ _ _ _ _ _)).trans
        (e.apply_same g (fun c _ _ _ => apart c _ _ _ _ _ _ _ _ _ _) (fun c _ _ _ _ => apart c _ _ _ _ _ _ _ _ _ _) _ _)
    · exact (core Core.q (fun _ _ => rfl) (fun _ _ => rfl)).trans (e.apply_same Core.q (fun _ _ _ _ => rfl) (fun _ _ _ _ _ => rfl) _ _)
    · exact (core Core.tags (fun _ _ => rfl) (fun _ _ => rfl)).trans (e.apply_same Core.tags (fun _ _ _ _ => rfl) (fun _ _ _ _ _ => rfl) _ _)
    · rw [is, State.hart?_correctedNow, harts]
    · obtain ⟨grid, pois⟩ := e.apply_cell c (s.colo p h) n out
      exact ⟨(core (tget 0 ·.grid n) (fun _ _ => rfl) (fun _ _ => rfl)).trans grid, (core (tget false ·.pois n) (fun _ _ => rfl) (fun _ _ => rfl)).trans pois⟩

end Sys2Proof.Machine
end

section
/-! The system instructions (R321 to R324). -/
namespace Sys2Proof.Machine
open Sys2Proof

/-- Settles O11: TRAP owes its trap, ERET leaves the handler, FRQPOP takes the oldest record, STEST starts a test on an idle core. -/
theorem systemInstructions : Obligations.SystemInstructions := by
  intro s h f e p x y four
  have stest (quiet : h.pend = 0) : execStest f s =
      .next (if 32 ≤ x ∨ 8 ≤ y then s.retireG f.d.toNat 4
        else if x = p ∨ !s.coreIdle x then s.retireG f.d.toNat 3
        else (s.modCore x (fun c => { c with stest := some { die := x / 2, slot := s.issue.slot, core := p, rd := f.d.toNat, prio := y, started := s.cycle } })).pend (encode (.stest f))) := by
    refine (onHart_of _ e).trans (congrArg Host.Outcome.next ?_)
    exact if_neg (not_not_intro quiet)
  have frqpop : execFrqpop f s = _ := onHart_of _ e
  have eret : execEret f s = _ := onHart_of _ e
  refine ⟨onHart_of _ e, fun inside notRing => ?_, fun outside => ?_, fun empty => ?_, fun r rest some_ => ?_, fun quiet range => ?_, fun quiet hx hy busy => ?_, fun quiet hx hy away idle => ?_⟩
  · exact eret.trans (congrArg _ ((if_neg (by rw [inside]; decide)).trans (if_pos (Or.inr notRing))))
  · exact eret.trans (congrArg _ (if_pos (by rw [outside]; rfl)))
  · refine frqpop.trans ?_
    dsimp only
    rw [empty]
    rfl
  · refine frqpop.trans ?_
    dsimp only
    rw [some_]
    rfl
  · exact (stest quiet).trans (congrArg _ (if_pos range))
  · refine (stest quiet).trans (congrArg _ ((if_neg (by omega)).trans (if_pos (busy.imp_right fun b => ?_))))
    rw [b]; rfl
  · refine (stest quiet).trans (congrArg _ ((if_neg (by omega)).trans (if_neg ?_)))
    rintro (b | b)
    · exact away b
    · rw [idle] at b; exact absurd b (by decide)

end Sys2Proof.Machine
end

section
/-! Barriers, FENCE and BARARR (R189, R359 to R362). -/
namespace Sys2Proof.Machine
open Sys2Proof

/-- Settles O8: BARWAIT retires at its phase, BARWAIT.SET sets an expectation or refuses, FENCE and BARARR retire once they are ready. -/
theorem barriersAndFence : Obligations.BarriersAndFence := by
  constructor
  · intro s h f e n b x
    have set : execBarwaitSet f s = .next (if 64 < fldN x 6 0 ∨ fldN x 15 7 ≠ 0 then s.retireG f.d.toNat 3
        else if b.arr = 0 ∧ b.cred = 0 then (s.setBar h n { b with narr := fldN x 6 0, nbytes := fldN x 63 16 }).retireG f.d.toNat 0
        else (s.setBar h n { b with next := (fldN x 6 0, fldN x 63 16), nextv := true }).retireG f.d.toNat 0) := onHart_of _ e
    have wait : execBarwait f s = .next (if barDone b.phase (tget 0 h.wt n) then s.retireG f.d.toNat (BitVec.ofNat 64 b.phase) else s.pend (encode (.barwait f))) := onHart_of _ e
    refine ⟨fun done => wait.trans (congrArg _ (if_pos done)), fun range => set.trans (congrArg _ (if_pos range)), fun low fine none_ some_ => ?_, fun low fine busy => ?_⟩
    · exact set.trans (congrArg _ ((if_neg (by omega)).trans (if_pos ⟨none_, some_⟩)))
    · exact set.trans (congrArg _ ((if_neg (by omega)).trans (if_neg busy)))
  · intro s h f e ready n b
    exact ⟨(onHart_of _ e).trans (congrArg _ (if_pos ready)), (onHart_of _ e).trans (congrArg _ (if_pos ready))⟩

end Sys2Proof.Machine
end

section
/-! Semaphores and communication words (R355 to R358). -/
namespace Sys2Proof.Machine
open Sys2Proof

variable {s : State} {h : Hart} {d who : Nat}

/-- The requests that a die has taken in this cycle. -/
def State.served (s : State) (d : Nat) : List (Nat × Nat × Nat) := if (s.die d).reqAt = s.cycle then (s.die d).reqs else []
/-- The state after a request has reached its die. -/
def State.arrived (s : State) (d who kind bit : Nat) : State := s.modDie d (fun y => { y with reqAt := s.cycle, reqs := s.served d ++ [(who, kind, bit)] })
/-- A request that no later one of its cycle has come before. -/
def inTurn (who kind bit : Nat) (q : Nat × Nat × Nat) : Prop := (q.2.1 = 2 ∧ kind = 1 ∧ q.2.2 = bit) ∨ (q.1 ≤ who ∧ ¬ (q.2.1 = 1 ∧ kind = 2 ∧ q.2.2 = bit))

theorem State.turn_of {kind bit : Nat} (held : s.heldDie (who / 16) d = false) (turn : ∀ q ∈ s.served d, inTurn who kind bit q) : s.turn d who kind bit = some (s.arrived d who kind bit) := by
  unfold State.turn
  dsimp only
  rw [if_neg (by simp [held]), if_pos]
  · rfl
  · refine List.all_eq_true.2 fun q inside => ?_
    rcases turn q inside with same | ⟨before, other⟩
    · rw [if_pos same]
    · split
      · rfl
      · exact decide_eq_true before
theorem State.turn_none {kind bit : Nat} (late : (∃ q ∈ s.served d, ¬ inTurn who kind bit q) ∨ s.heldDie (who / 16) d = true) : s.turn d who kind bit = none := by
  unfold State.turn
  dsimp only
  rcases late with ⟨q, inside, late⟩ | held
  · split
    · rfl
    · refine if_neg fun all => late ?_
      have ok := List.all_eq_true.1 all q inside
      split at ok
      · exact Or.inl ‹_›
      · split at ok
        · exact absurd ok (by decide)
        · exact Or.inr ⟨of_decide_eq_true ok, ‹_›⟩
  · exact if_pos held
theorem State.atDie_of {kind bit : Nat} {w : Word} (k : State → State) (held : s.heldDie ((8 * s.issue.core + s.issue.slot) / 16) d = false)
    (turn : ∀ q ∈ s.served d, inTurn (8 * s.issue.core + s.issue.slot) kind bit q) : s.atDie d kind bit w k = k (s.arrived d (8 * s.issue.core + s.issue.slot) kind bit) := by
  rw [State.atDie, State.turn_of held turn]
theorem State.atDie_late {kind bit : Nat} {w : Word} (k : State → State)
    (late : (∃ q ∈ s.served d, ¬ inTurn (8 * s.issue.core + s.issue.slot) kind bit q) ∨ s.heldDie ((8 * s.issue.core + s.issue.slot) / 16) d = true) : s.atDie d kind bit w k = s.pend w := by
  rw [State.atDie, State.turn_none late]
/-- A request that arrives changes nothing of its die but the requests of the cycle. -/
theorem State.die_arrived (s : State) (d who kind bit : Nat) : (s.arrived d who kind bit).die d = { s.die d with reqAt := s.cycle, reqs := s.served d ++ [(who, kind, bit)] } := by
  unfold State.arrived
  simp

/-- Settles O7: the semaphores and words of a die, for a request that arrives, one that comes out of its turn and one that cannot arrive. -/
theorem semaphoresAndWords : Obligations.SemaphoresAndWords := by
  intro s h e who served reached
  have die (d kind b : Nat) : (reached d kind b).die d = { s.die d with reqAt := s.cycle, reqs := served d ++ [(who, kind, b)] } := State.die_arrived s d who kind b
  refine ⟨?_, ?_, ?_, ?_⟩
  · intro f x d b t taken here open_ turn
    have turn' : ∀ q ∈ s.served d, inTurn who 1 b q := fun q inside =>
      (turn q inside).elim (fun before => Or.inr ⟨before, by omega⟩) (fun clear => Or.inl ⟨clear.1, rfl, clear.2⟩)
    have sem : (t.die d).sem = (s.die d).sem := by rw [show t.die d = _ from die d 1 b]
    have try_ : execSemtsTry f s = .next (if (t.die d).sem.getLsbD b then t.retireG f.d.toNat 1 else taken) :=
      (onHart_of _ e).trans (congrArg _ ((if_neg (Bool.eq_false_iff.1 here)).trans (State.atDie_of _ open_ turn')))
    rw [sem] at try_
    refine ⟨fun clear => ⟨fun none_ => ?_, try_.trans (congrArg _ (if_neg (Bool.eq_false_iff.1 clear)))⟩, fun held => try_.trans (congrArg _ (if_pos held))⟩
    have semts : execSemts f s = _ := onHart_of _ e
    have noneMine : (s.die (selDie x)).semq.find? (fun q => q.core == s.issue.core && q.slot == s.issue.slot && q.handle == s.handleOfHart h && q.bit == selBit x) = none :=
      List.find?_eq_none.2 fun q inside mine => none_ q inside (by simp only [Bool.and_eq_true, beq_iff_eq] at mine; exact mine.1.1)
    refine semts.trans (congrArg Host.Outcome.next ?_)
    dsimp only
    rw [noneMine]
    refine (if_neg (Bool.eq_false_iff.1 here)).trans ((State.atDie_of _ open_ turn').trans (if_neg (Bool.eq_false_iff.1 ?_)))
    exact (congrArg (fun y : BitVec 64 => y.getLsbD b) sem).trans clear
  · intro f x d b n t c here open_ turn
    have all (kind bit : Nat) (k : kind ≠ 2) : ∀ q ∈ s.served d, inTurn who kind bit q := fun q inside => Or.inr ⟨turn q inside, by omega⟩
    have clear_ (ready : s.relReady h 3 = true) (others : ∀ q ∈ served d, q.2.1 ≠ 1 ∨ q.2.2 ≠ b) :
        execSemclr f s = .next (if (c.die d).sem.getLsbD b then (c.modDie d (·.clearSem b)).retireG f.d.toNat 1 else c.retireG f.d.toNat 0) :=
      (onHart_of _ e).trans (congrArg _ ((if_neg (by rw [ready]; decide)).trans ((if_neg (Bool.eq_false_iff.1 here)).trans
        (State.atDie_of _ open_ fun q inside => Or.inr ⟨turn q inside, fun same => (others q inside).elim (fun k => k same.1) (fun n => n same.2.2)⟩))))
    have sem : (c.die d).sem = (s.die d).sem := by rw [show c.die d = _ from die d 2 b]
    rw [sem] at clear_
    refine ⟨fun ready others clear => (clear_ ready others).trans (congrArg _ (if_neg (Bool.eq_false_iff.1 clear))), fun ready others held none_ => ?_, ?_, ?_⟩
    · refine (clear_ ready others).trans (congrArg _ ((if_pos held).trans ?_))
      have waits : (c.die d).semq.findIdx? (fun q => q.bit == b && !q.granted) = none := by
        rw [show c.die d = _ from die d 2 b]
        refine List.findIdx?_eq_none_iff.2 fun q inside => ?_
        rcases none_ q inside with other | granted
        · simp [other]
        · simp [granted]
      have cleared : (c.die d).clearSem b = { c.die d with sem := (c.die d).sem &&& ~~~(1#64 <<< b) } := by rw [Die.clearSem, waits]
      exact congrArg (fun y => (c.setDie d y).retireG f.d.toNat 1) cleared
    · have read : execCmrd f s = .next (t.retireG f.d.toNat (if x.getLsbD 6 then (t.die d).sem else tget 0 (t.die d).dat n)) :=
        (onHart_of _ e).trans (congrArg _ ((if_neg (Bool.eq_false_iff.1 here)).trans (State.atDie_of _ open_ (all 0 0 (by decide)))))
      rw [show t.die d = _ from die d 0 0] at read
      exact read
    · have write : execCmwr f s = .next ((t.modDie d (fun y => { y with dat := tset y.dat n (h.og f.s2.toNat) })).retireG f.d.toNat (tget 0 (t.die d).dat n)) :=
        (onHart_of _ e).trans (congrArg _ ((if_neg (Bool.eq_false_iff.1 here)).trans (State.atDie_of _ open_ (all 0 0 (by decide)))))
      rw [show t.die d = _ from die d 0 0] at write
      exact write
  · intro f d here late
    have late' : (∃ q ∈ s.served d, ¬ inTurn who 0 0 q) ∨ s.heldDie (who / 16) d = true :=
      late.imp_left fun ⟨q, inside, after, kind⟩ => ⟨q, inside, by rintro (clear | before) <;> omega⟩
    exact ⟨(onHart_of _ e).trans (congrArg _ ((if_neg (Bool.eq_false_iff.1 here)).trans (State.atDie_late _ late'))),
      (onHart_of _ e).trans (congrArg _ ((if_neg (Bool.eq_false_iff.1 here)).trans (State.atDie_late _ late')))⟩
  · intro f gone
    exact ⟨(onHart_of _ e).trans (congrArg _ (if_pos gone)), (onHart_of _ e).trans (congrArg _ (if_pos gone))⟩

end Sys2Proof.Machine
end

section
/-! LAUNCH, SIGNAL and CANCEL (R364 to R368). -/
namespace Sys2Proof.Machine
open Sys2Proof

variable {s : State} {h : Hart} {d : Nat} {a : RecAt}

/-- A request of kind 0 arrives unless one of a later hart has. -/
theorem State.atDie_plain {w : Word} (k : State → State) (held : s.heldDie ((8 * s.issue.core + s.issue.slot) / 16) d = false)
    (turn : ∀ q ∈ s.served d, q.1 ≤ 8 * s.issue.core + s.issue.slot) : s.atDie d 0 0 w k = k (s.arrived d (8 * s.issue.core + s.issue.slot) 0 0) :=
  State.atDie_of k held fun q inside => Or.inr ⟨turn q inside, by omega⟩
/-- A request that arrives changes no record. -/
theorem State.recAt_arrived (s : State) (d who : Nat) (a : RecAt) : (s.arrived d who 0 0).recAt d a = s.recAt d a := by
  cases a with
  | res i => exact congrArg (fun y : Die => tget {} y.recs i) (State.die_arrived s d who 0 0)
  | ring i => exact congrArg (fun y : Die => tget {} y.ring i) (State.die_arrived s d who 0 0)

/-- SIGNAL and CANCEL answer the status of a record that they may not act on (R366). -/
theorem signal_error {f : SR} {c : Nat} (e : s.cur = some h) (ready : s.relReady h 3 = true) (status : s.recStatus h (h.og f.s1.toNat).toNat = .error c) :
    execSignal f s = .next (s.retireG f.d.toNat (BitVec.ofNat 64 c)) := by
  rw [execSignal, onHart_of _ e, ready, status]
  rfl
theorem cancel_error {f : SR} {c : Nat} (e : s.cur = some h) (first : h.served = false) (status : s.recStatus h (h.og f.s1.toNat).toNat = .error c) :
    execCancel f s = .next (s.retireG f.d.toNat (BitVec.ofNat 64 c)) := by
  rw [execCancel, onHart_of _ e, first, status]
  exact congrArg _ (if_neg fun both => absurd both.1 (by decide))

/-- What CANCEL does of a record that is neither the caller's nor ending. -/
def State.cancels (s : State) (d : Nat) (a : RecAt) (r : Rec) (rd : Nat) (w : Word) : State :=
  if r.st = 1 ∨ r.st = 2 ∨ (r.st = 3 ∧ r.places.isEmpty) then
    (if s.endWaits d r ∨ (s.die d).fullAt = some s.cycle then s.pendServed w else (s.cancelUnplaced d a).retireG rd 0)
  else match a with
  | .ring _ => s.retireG rd 0
  | .res i =>
    if r.st = 3 then (s.modGang d i (fun r => { r with st := 7, endStatus := some 2 })).retireG rd 0
    else if r.st = 5 then (s.endGang d i 2).retireG rd 0
    else (s.modGang d i (fun r => { r with cancelWait := true })).pendServed w
theorem State.cancelUnplaced_res (s : State) (d i : Nat) : s.cancelUnplaced d (.res i) = (s.endWord d (s.recAt d (.res i)) 1).freeRec d i := rfl
theorem State.cancelUnplaced_ring (s : State) (d j : Nat) : s.cancelUnplaced d (.ring j) =
    (s.endWord d (s.recAt d (.ring j)) 1).setRing d j { gen := (((s.endWord d (s.recAt d (.ring j)) 1).ringRec d j).gen + 1) % 2 ^ 32 } := rfl
theorem State.cancels_soon {r : Rec} {rd : Nat} {w : Word} (unplaced : r.st = 1 ∨ r.st = 2 ∨ (r.st = 3 ∧ r.places = [])) (soon : s.endWaits d r = false ∧ (s.die d).fullAt ≠ some s.cycle) :
    s.cancels d a r rd w = (s.cancelUnplaced d a).retireG rd 0 := by
  rw [State.cancels.eq_def, if_pos (by simpa using unplaced), if_neg]
  rintro (waits | full)
  · rw [soon.1] at waits; exact absurd waits (by decide)
  · exact soon.2 full
theorem State.cancels_waits {r : Rec} {rd : Nat} {w : Word} (unplaced : r.st = 1 ∨ r.st = 2 ∨ (r.st = 3 ∧ r.places = [])) (late : ¬ (s.endWaits d r = false ∧ (s.die d).fullAt ≠ some s.cycle)) :
    s.cancels d a r rd w = s.pendServed w := by
  rw [State.cancels.eq_def, if_pos (by simpa using unplaced), if_pos]
  by_contra none_
  obtain ⟨waits, full⟩ := not_or.1 none_
  exact late ⟨Bool.eq_false_iff.2 waits, full⟩
theorem State.cancels_placed {r : Rec} {rd i : Nat} {w : Word} (placed : ¬ (r.st = 1 ∨ r.st = 2 ∨ (r.st = 3 ∧ r.places = []))) :
    s.cancels d (.res i) r rd w = if r.st = 3 then (s.modGang d i (fun r => { r with st := 7, endStatus := some 2 })).retireG rd 0
      else if r.st = 5 then (s.endGang d i 2).retireG rd 0 else (s.modGang d i (fun r => { r with cancelWait := true })).pendServed w := by
  rw [State.cancels, if_neg (by simpa using placed)]
theorem cancel_ok {f : SR} (e : s.cur = some h) (first : h.served = false) (status : s.recStatus h (h.og f.s1.toNat).toNat = .ok (d, a)) :
    execCancel f s = .next (if a = .res h.idx ∧ d = h.die then s.retireG f.d.toNat 4 else if (s.recAt d a).st = 7 then s.retireG f.d.toNat 5
      else s.atDie d 0 0 (encode (.cancel f)) (fun t => t.cancels d a (s.recAt d a) f.d.toNat (encode (.cancel f)))) := by
  rw [execCancel, onHart_of _ e, first, status]
  rfl

/-- Settles O9: LAUNCH makes a record or refuses it; SIGNAL and CANCEL answer the status of a record or act on it. -/
theorem launchSignalCancel : Obligations.LaunchSignalCancel := by
  constructor
  · intro s s1 h f l e va d aligned ready lands whole b t
    have launch : execLaunch f s = .next (if s1.descAccepted b h.priv then t.accept h d b f.d.toNat else t.retireG f.d.toNat (launchFail 2)) := by
      refine (onHart_of _ e).trans (congrArg Host.Outcome.next ?_)
      refine (if_neg (not_not_intro aligned)).trans ((if_neg (by rw [ready]; decide)).trans ?_)
      rw [State.scalar_of _ lands, whole]
    refine ⟨fun refused => launch.trans (congrArg _ (if_neg (Bool.eq_false_iff.1 refused))), fun i accepted free => launch.trans (congrArg _ ((if_pos accepted).trans ?_))⟩
    unfold State.accept
    dsimp only
    rw [free]
    rfl
  · intro s h f e handle who served reached inTurn ret code
    refine ⟨fun none_ => ?_, fun d a some_ => ⟨fun gone => ?_, fun here ctx priv => ?_, fun here may => ?_⟩, ?_, ?_⟩
    · have status : s.recStatus h handle = .error (if s.orphaned handle then 6 else 2) := by rw [State.recStatus, none_]
      have code_ (c : Nat) (status : s.recStatus h handle = .error c) : code (BitVec.ofNat 64 c) := ⟨fun ready => signal_error e ready status, fun first => cancel_error e first status⟩
      split at status
      · rw [if_pos ‹_›]; exact code_ 6 status
      · rw [if_neg ‹_›]; exact code_ 2 status
    · have status : s.recStatus h handle = .error 6 := by rw [State.recStatus, some_]; exact if_pos gone
      exact ⟨fun ready => signal_error e ready status, fun first => cancel_error e first status⟩
    · have status : s.recStatus h handle = .error 3 := by
        rw [State.recStatus, some_]
        exact (if_neg (Bool.eq_false_iff.1 here)).trans (if_pos ⟨ctx, by rw [priv]; rfl⟩)
      exact ⟨fun ready => signal_error e ready status, fun first => cancel_error e first status⟩
    · rw [State.recStatus, some_]
      exact (if_neg (Bool.eq_false_iff.1 here)).trans (if_neg fun both => may.elim (fun c => both.1 c) (fun p => by rw [p] at both; exact absurd both.2 (by decide)))
    · intro d a status ready open_ turn t
      have signal : execSignal f s = .next (if (t.recAt d a).deps = 0 then t.retireG f.d.toNat 1
          else ((t.seeNote d (t.recAt d a)).setRecAt d a (t.evaluate d { t.recAt d a with deps := (t.recAt d a).deps - 1 })).retireG f.d.toNat 0) := by
        rw [execSignal, onHart_of _ e, ready, status]
        exact congrArg _ (State.atDie_plain _ open_ turn)
      rw [show t.recAt d a = _ from State.recAt_arrived s d who a] at signal
      exact ⟨fun zero => signal.trans (congrArg _ (if_pos zero)), fun some_ => signal.trans (congrArg _ (if_neg some_))⟩
    · intro d a status first t r word waits soon
      have cancel := cancel_ok e first status
      have rec_ : t.recAt d a = r := State.recAt_arrived s d who a
      have full : (t.die d).fullAt = (s.die d).fullAt := by rw [show t.die d = _ from State.die_arrived s d who 0 0]
      refine ⟨fun home own => cancel.trans (congrArg _ (if_pos ⟨own, home⟩)), fun other ending => cancel.trans (congrArg _ ((if_neg fun both => other both.symm).trans (if_pos ending))), fun other open_ turn => ?_⟩
      have acts (going : r.st ≠ 7) : execCancel f s = .next (t.cancels d a r f.d.toNat (encode (.cancel f))) :=
        cancel.trans (congrArg _ ((if_neg fun both => other both.symm).trans ((if_neg going).trans (State.atDie_plain _ open_ turn))))
      have soon_ (now : soon) : t.endWaits d r = false ∧ (t.die d).fullAt ≠ some t.cycle := ⟨now.1, by rw [full]; exact now.2⟩
      refine ⟨fun i same => ⟨fun st now => ?_, fun st some_ => ?_, fun st => ?_, fun st => ?_⟩, fun j same st now => ?_, fun st late => ?_⟩
      · refine (acts (by omega)).trans (congrArg _ ((State.cancels_soon (Or.inr st) (soon_ now)).trans ?_))
        rw [same, State.cancelUnplaced_res, ← same, rec_]
        rfl
      · refine (acts (by omega)).trans (congrArg _ ?_)
        rw [same, State.cancels_placed (by simp [st, some_]), if_pos st]
        rfl
      · refine (acts (by omega)).trans (congrArg _ ?_)
        rw [same, State.cancels_placed (by omega), if_neg (by omega), if_pos st]
        rfl
      · refine (acts (by omega)).trans (congrArg _ ?_)
        rw [same, State.cancels_placed (by omega), if_neg (by omega), if_neg (by omega)]
        rfl
      · refine (acts (by omega)).trans (congrArg _ ((State.cancels_soon (Or.inl st) (soon_ now)).trans ?_))
        rw [same, State.cancelUnplaced_ring, ← same, rec_]
        rfl
      · exact (acts (by omega)).trans (congrArg _ (State.cancels_waits st fun now => late ⟨now.1, by rw [← full]; exact now.2⟩))

end Sys2Proof.Machine
end

section
/-! NWAIT, NPOST, YIELD, GEXIT and PBCRD (R369 to R374). -/
namespace Sys2Proof.Machine
open Sys2Proof

variable {s : State} {h : Hart}

/-- What a hart agrees to release is noted in its record alone. -/
theorem State.releasePending_frame (s : State) (d i : Nat) : (s.releasePending d i).mem = s.mem ∧ (s.releasePending d i).cores = s.cores := by
  unfold State.releasePending
  dsimp only
  split_ifs <;> exact ⟨rfl, rfl⟩

/-- A hart once it has exited. -/
def Hart.exit (h : Hart) : Hart := { h with exited := true, stopped := true, owed := [], pend := 0 }
/-- The exit of a hart that may go (R373). -/
def State.exits (s : State) (h : Hart) : State :=
  let s1 := s.modGang h.die h.idx (fun r => { r with bars := r.bars.map (fun q => (q.1, q.2.leave s.cycle)) })
  let s2 := (s1.modCur Hart.exit).releasePending h.die h.idx
  let r := s2.gang h.die h.idx
  if s2.allExited r ∧ r.st ≠ 7 then s2.endGang h.die h.idx 0 else s2
theorem execGexit_of {f : SR} (e : s.cur = some h) :
    execGexit f s = .next (if h.pend = 0 ∨ !s.landed s.issue.core s.issue.slot h ∨ !h.stall29.isEmpty then s.pend (encode (.gexit f)) else s.exits h) := by
  unfold execGexit State.exits
  rw [onHart_of _ e]
  rfl
theorem State.exits_hart (e : s.cur = some h) :
    (s.exits h).mem = s.mem ∧ ∃ x, (s.exits h).hart? s.issue.core s.issue.slot = some x ∧ x.exited = true ∧ x.stopped = true ∧ x.pend = 0 := by
  unfold State.exits
  dsimp only
  generalize left : s.modGang h.die h.idx (fun r => { r with bars := r.bars.map (fun q => (q.1, q.2.leave s.cycle)) }) = s1
  have e1 : s1.cur = some h := by rw [← left]; exact e
  generalize out : (s1.modCur Hart.exit).releasePending h.die h.idx = s2
  obtain ⟨mem, cores⟩ := State.releasePending_frame (s1.modCur Hart.exit) h.die h.idx
  rw [out] at mem cores
  have mem2 : s2.mem = s.mem := by rw [mem, State.modCur_mem, ← left]; rfl
  have hart2 : s2.hart? s.issue.core s.issue.slot = some h.exit := by
    have cur := State.cur_modCur s1 Hart.exit h e1
    rw [State.cur, State.modCur_issue, show s1.issue = s.issue from left ▸ rfl] at cur
    rw [State.hart?, State.core, cores]
    exact cur
  split
  · obtain ⟨b, at_, still⟩ := State.hart?_endGang s2 h.die h.idx 0 _ _ _ hart2
    exact ⟨((s2.endGang_frame h.die h.idx 0).1).trans mem2, _, at_, rfl, still rfl, rfl⟩
  · exact ⟨mem2, _, hart2, rfl, rfl, rfl⟩

/-- NWAIT and NPOST of a word in no page, and of one that reads well. -/
theorem nwait_none {f : SR} (e : s.cur = some h) (none_ : s.ntfSel s.issue.core (h.og f.s1.toNat) = none) : execNwait f s = .next (s.retireG f.d.toNat (ntfFail 1)) := by
  rw [execNwait, onHart_of _ e, none_]
theorem npost_none {f : SR} (e : s.cur = some h) (ready : s.relReady h 5 = true) (none_ : s.ntfSel s.issue.core (h.og f.s1.toNat) = none) :
    execNpost f s = .next (s.retireG f.d.toNat (ntfFail 1)) := by
  rw [execNpost, onHart_of _ e, ready, none_, if_neg (by decide)]
theorem nwait_reached {f : SR} {k : Nat} (e : s.cur = some h) (some_ : s.ntfSel s.issue.core (h.og f.s1.toNat) = some k) (fine : s.badKey k = false) (own : s.ownPending [k] = false)
    (acq : s.acqReady 5 [k] = true) (there : reached (s.readN k 8) (h.og f.s2.toNat).toNat = true) :
    execNwait f s = .next ((s.noteSeen [k]).retireG f.d.toNat (BitVec.ofNat 64 (s.readN k 8 % 2 ^ 63))) := by
  rw [execNwait, onHart_of _ e, some_]
  dsimp only
  rw [if_neg (Bool.eq_false_iff.1 fine), own, acq, there]
  rfl
theorem npost_of {f : SR} {k : Nat} (e : s.cur = some h) (ready : s.relReady h 5 = true) (some_ : s.ntfSel s.issue.core (h.og f.s1.toNat) = some k) (fine : s.badKey k = false) :
    execNpost f s = .next ((if ((h.og f.s2.toNat).toNat % 2 ^ 63 + 2 ^ 63 - s.readN k 8 % 2 ^ 63) % 2 ^ 63 < 2 ^ 62
      then s.sendHome (bytesAt k 8 ((h.og f.s2.toNat).toNat % 2 ^ 63)) 8 false else s).retireG f.d.toNat (BitVec.ofNat 64 (s.readN k 8 % 2 ^ 63))) := by
  rw [execNpost, onHart_of _ e, ready, some_, if_neg (by decide)]
  dsimp only
  rw [if_neg (Bool.eq_false_iff.1 fine)]

/-- Settles O10: a notify word read or raised, a hart that yields, its gang given up, a hart that exits, a performance counter read. -/
theorem notifyYieldExit : Obligations.NotifyYieldExit := by
  constructor
  · intro s h f e x ret
    refine ⟨fun none_ => ⟨?_, fun ready => ?_⟩, fun k some_ fine => ⟨fun own acq there => ?_, fun ready => ?_⟩⟩
    · exact nwait_none e none_
    · exact npost_none e ready none_
    · exact nwait_reached e some_ fine own acq there
    · exact npost_of e ready some_ fine
  · intro s h e
    constructor
    · intro f n
      have yield : execYield f s = .next (if n = 0 ∨ (h.yieldUntil ≠ 0 ∧ h.yieldUntil ≤ s.cycle) then (s.modCur (fun h => { h with yieldUntil := 0 })).retireG f.d.toNat 0
          else (if h.yieldUntil = 0 then s.modCur (fun h => { h with yieldUntil := s.cycle + n }) else s).pend (encode (.yield f))) := onHart_of _ e
      have gang : execYieldGang f s = .next (if (s.gang h.die h.idx).st = 4 ∨ (s.gang h.die h.idx).st = 5 then
          (if s.yieldWanted h then (((s.retireG f.d.toNat 1).gangRuns h).suspend h.die h.idx) else s.retireG f.d.toNat 0)
          else s.retireG f.d.toNat 0) := onHart_of _ e
      refine ⟨fun passed => yield.trans (congrArg _ (if_pos passed)), fun some_ first => ?_, fun unwanted => ?_, fun runs wanted => gang.trans (congrArg _ ((if_pos runs).trans (if_pos wanted))),
        onHart_of _ e⟩
      · exact yield.trans (congrArg _ ((if_neg (by omega)).trans (congrArg (State.pend · _) (if_pos first))))
      · refine gang.trans (congrArg _ ?_)
        rw [unwanted]
        exact ite_self _
    · intro f waited landed clear
      have goes : ¬ (h.pend = 0 ∨ (!s.landed s.issue.core s.issue.slot h) = true ∨ (!h.stall29.isEmpty) = true) := by
        rintro (quiet | late | stalled)
        · exact waited quiet
        · rw [landed] at late; exact absurd late (by decide)
        · rw [clear] at stalled; exact absurd stalled (by decide)
      obtain ⟨mem, t, at_, exited, stopped, pend⟩ := State.exits_hart e
      exact ⟨_, (execGexit_of e).trans (congrArg _ (if_neg goes)), by rw [at_]; simp [exited, stopped, pend], mem⟩

end Sys2Proof.Machine
end

section
/-! MOVS and MOVD of the control registers (R75, R314, R315). -/
namespace Sys2Proof.Machine
open Sys2Proof

variable {s : State} {h : Hart}

/-! Numbers in the registers of 80 bits. -/
theorem setWidth_80_ofNat_64 (n : Nat) (small : n < 2 ^ 64) : (BitVec.ofNat 64 n).setWidth 80 = BitVec.ofNat 80 n := by
  apply BitVec.eq_of_toNat_eq
  simp only [BitVec.toNat_setWidth, BitVec.toNat_ofNat]
  omega
theorem hstatWord_small (c : Ctrl) (b : Bool) : bit c.ftz 0 + bit c.wtrap 1 + bit c.prot 2 + bit c.mm 3 + c.role.code * 16 + bit (c.fw || b) 6 < 2 ^ 64 := by
  have bits (b : Bool) (n : Nat) : bit b n ≤ 2 ^ n := by cases b <;> simp [bit]
  have role : c.role.code ≤ 3 := by cases c.role <;> decide
  have h0 := bits c.ftz 0
  have h1 := bits c.wtrap 1
  have h2 := bits c.prot 2
  have h3 := bits c.mm 3
  have h6 := bits (c.fw || b) 6
  omega
theorem widePart_eq (old : BitVec 80) (hi : Bool) (v : Word) : widePart old hi v =
    if hi then BitVec.ofNat 80 (old.toNat % 2 ^ 64 + v.toNat % 2 ^ 16 * 2 ^ 64) else BitVec.ofNat 80 (old.toNat / 2 ^ 64 * 2 ^ 64 + v.toNat) := by
  have := v.isLt
  have := old.isLt
  cases hi
  · apply BitVec.eq_of_toNat_eq
    simp only [widePart, Bool.false_eq_true, if_false, BitVec.toNat_append, BitVec.toNat_setWidth, BitVec.toNat_ushiftRight, BitVec.toNat_ofNat, Nat.shiftRight_eq_div_pow]
    rw [← Nat.shiftLeft_add_eq_or_of_lt (by omega), Nat.shiftLeft_eq]
    omega
  · apply BitVec.eq_of_toNat_eq
    simp only [widePart, if_true, BitVec.toNat_append, BitVec.toNat_setWidth, BitVec.toNat_ofNat]
    rw [← Nat.shiftLeft_add_eq_or_of_lt (by omega), Nat.shiftLeft_eq]
    omega
theorem ovrBase_eq (x : VAddr) : x >>> 16 <<< 16 = BitVec.ofNat 80 (x.toNat / 2 ^ 16 * 2 ^ 16) := by
  apply BitVec.eq_of_toNat_eq
  simp [BitVec.toNat_shiftLeft, BitVec.toNat_ushiftRight, Nat.shiftRight_eq_div_pow, Nat.shiftLeft_eq]

/-- What MOVS reads is the low or the high part of the register's value. -/
theorem movs_of {d s1 : BitVec 5} {n : BitVec 12} {v : BitVec 80} (e : s.cur = some h) (value : s.crRead s.issue.core h n.toNat = v) :
    execMovs { d := d, s1 := s1, cr := n } s = .next (s.wrG d.toNat (if s1.getLsbD 0 then BitVec.ofNat 64 (v.toNat / 2 ^ 64) else BitVec.ofNat 64 v.toNat)) := by
  rw [execMovs, onHart_of _ e, value]
  dsimp only
  split
  · congr 2
    apply BitVec.eq_of_toNat_eq
    simp [BitVec.toNat_setWidth, BitVec.toNat_ushiftRight, Nat.shiftRight_eq_div_pow]
  · rfl
theorem movd_of {d x : BitVec 5} {n : BitVec 12} (e : s.cur = some h) : execMovd { d := d, s1 := x, cr := n } s = .next (s.crWrite n.toNat (d.getLsbD 0) (h.og x.toNat)) :=
  onHart_of _ e

/-! The registers that stand in rows. -/
theorem State.crRead_tol (s : State) (p : Nat) (h : Hart) {i : Nat} (small : i < 16) : s.crRead p h (16 + i) = (tget 0 h.octrl.tol i).setWidth 80 := by
  unfold State.crRead
  dsimp only
  split <;> try omega
  rw [if_pos (by omega), Nat.add_sub_cancel_left, BitVec.ofNat_toNat]
theorem State.crRead_pbc (s : State) (p : Nat) (h : Hart) {i : Nat} (small : i < 6) : s.crRead p h (48 + i) = BitVec.ofNat 80 (tget 0 h.pbc i % 2 ^ 64) := by
  unfold State.crRead
  dsimp only
  split <;> try omega
  rw [if_neg (by omega), if_pos (by omega), Nat.add_sub_cancel_left]
theorem State.crRead_lg (s : State) (p : Nat) (h : Hart) {i : Nat} (small : i < 16) : s.crRead p h (80 + i) = (tget 0 h.trap.lg i).setWidth 80 := by
  unfold State.crRead
  dsimp only
  split <;> try omega
  rw [if_neg (by omega), if_neg (by omega), if_pos (by omega), Nat.add_sub_cancel_left, BitVec.ofNat_toNat]
theorem State.crWrite_tol (s : State) (hi : Bool) (v : Word) {i : Nat} (small : i < 16) :
    s.crWrite (16 + i) hi v = s.modCtrl (fun c => { c with tol := tset c.tol i (v.setWidth 8) }) := by
  unfold State.crWrite
  dsimp only
  split <;> try omega
  rw [if_pos (by omega), Nat.add_sub_cancel_left]
theorem State.crWrite_lg (s : State) (hi : Bool) (v : Word) {i : Nat} (small : i < 16) :
    s.crWrite (80 + i) hi v = s.modCur (fun h => { h with trap := { h.trap with lg := tset h.trap.lg i (v.setWidth 16) } }) := by
  unfold State.crWrite
  dsimp only
  split <;> try omega
  rw [if_neg (by omega), if_pos (by omega), Nat.add_sub_cancel_left]

/-! The overflow ring (R338). -/
theorem Die.ringUsed_zero_iff (d : Die) : d.ringUsed = 0 ↔ ∀ q ∈ d.ring, q.2.st = 0 := by
  simp [Die.ringUsed, List.filter_eq_nil_iff]
theorem Die.writeOvr_free (d : Die) (base : VAddr) (size : Option Word) (free : ∀ q ∈ d.ring, q.2.st = 0) :
    d.writeOvr base size = { d with ovrBase := BitVec.ofNat 80 (base.toNat / 2 ^ 16 * 2 ^ 16), ovrSlots := match size with | some w => fldN w 19 0 | none => d.ovrSlots } := by
  rw [Die.writeOvr.eq_def, if_neg (not_not_intro (d.ringUsed_zero_iff.2 free)), ovrBase_eq] <;> rfl
theorem Die.writeOvr_held (d : Die) (base : VAddr) (size : Option Word) (held : ¬ ∀ q ∈ d.ring, q.2.st = 0) : d.writeOvr base size = d :=
  if_pos fun zero => held (d.ringUsed_zero_iff.1 zero)

/-! LAT (R216). -/
theorem Core.writeLat_owned (c : Core) (cycle : Nat) (w : Word) (owned : ∃ g < 16, latOwner c.lat g < 6) : c.writeLat cycle w = { c with lmap := c.lmap ||| lmapErr } := by
  obtain ⟨g, small, owner⟩ := owned
  exact if_pos (List.any_eq_true.2 ⟨g, List.mem_range.2 small, decide_eq_true owner⟩)
theorem Core.writeLat_free (c : Core) (cycle : Nat) (w : Word) (free : ∀ g < 16, 6 ≤ latOwner c.lat g) :
    (c.writeLat cycle w).lat = (List.range 16).foldl (fun l g => if lmapDead c.lmap g then latSet l g 6 else l) w ∧ (c.writeLat cycle w).lmap = c.lmap := by
  have none_ : ¬ (List.range 16).any (fun g => decide (latOwner c.lat g < 6)) = true := by
    rintro owned
    obtain ⟨g, small, owner⟩ := List.any_eq_true.1 owned
    exact absurd (of_decide_eq_true owner) (Nat.not_lt.2 (free g (List.mem_range.1 small)))
  unfold Core.writeLat
  rw [if_neg none_]
  exact ⟨rfl, rfl⟩

/-- Settles O5: the value and the writes of every control register. -/
theorem controlRegisters : Obligations.ControlRegisters := by
  constructor
  · intro s h d e rd c die one
    have read (n : Nat) (v : BitVec 80) (small : n < 2 ^ 12) (value : s.crRead s.issue.core h n = v) : rd n v := by
      have same : (BitVec.ofNat 12 n).toNat = n := Nat.mod_eq_of_lt small
      exact ⟨movs_of e (by rw [same, value]), movs_of e (by rw [same, value])⟩
    have ring : (ovrSizeWord die).setWidth 80 = BitVec.ofNat 80 ((die.ovrSlots + (die.ring.filter (fun q => q.2.st != 0)).length * 2 ^ 32) % 2 ^ 64) := by
      rw [← setWidth_80_ofNat_64 _ (Nat.mod_lt _ (by decide))]
      exact congrArg (BitVec.setWidth 80) (BitVec.eq_of_toNat_eq (by simp [ovrSizeWord, Die.ringUsed]))
    exact ⟨read 0 _ (by decide) (setWidth_80_ofNat_64 _ (hstatWord_small _ _)), read 1 _ (by decide) rfl, read 2 _ (by decide) rfl, read 3 _ (by decide) rfl, read 4 _ (by decide) rfl,
      read 5 _ (by decide) rfl, fun i small => read _ _ (by omega) (State.crRead_tol s _ h small), read 32 _ (by decide) rfl, read 33 _ (by decide) rfl,
      fun i small => read _ _ (by omega) (State.crRead_pbc s _ h small), read 64 _ (by decide) rfl, read 65 _ (by decide) rfl, read 66 _ (by decide) rfl, read 67 _ (by decide) rfl,
      fun i small => read _ _ (by omega) (State.crRead_lg s _ h small), read 96 _ (by decide) rfl, read 97 _ (by decide) ring⟩
  · intro s h x e v wr part
    have write (n : Nat) (hi : BitVec 5) (t : State) (small : n < 2 ^ 12) (leaves : s.crWrite n (hi.getLsbD 0) v = t) : wr n hi t := by
      have same : (BitVec.ofNat 12 n).toNat = n := Nat.mod_eq_of_lt small
      exact (movd_of e).trans (congrArg _ (by rw [same]; exact leaves))
    have wide (old : BitVec 80) (hi : Bool) : widePart old hi v = part old hi := widePart_eq old hi v
    refine ⟨fun hi => write 0 hi _ (by decide) rfl, fun hi => write 3 hi _ (by decide) rfl, fun hi => write 4 hi _ (by decide) rfl,
      fun hi i small => write _ hi _ (by omega) (State.crWrite_tol s _ v small), fun hi => write 64 hi _ (by decide) rfl, fun hi => write 65 hi _ (by decide) ?_,
      fun hi => write 66 hi _ (by decide) ?_, fun hi => write 67 hi _ (by decide) rfl, fun hi i small => write _ hi _ (by omega) (State.crWrite_lg s _ v small), ?_⟩
    · simp only [← wide]; rfl
    · simp only [← wide]; rfl
    intro p c d free ring
    refine ⟨fun hi => ⟨write 5 hi _ (by decide) rfl, write 32 hi _ (by decide) rfl⟩, fun owned hi => write 33 hi _ (by decide) ?_, fun unowned hi => ⟨_, write 33 hi _ (by decide) rfl, ?_⟩,
      fun unheld => ⟨fun hi => write 96 hi _ (by decide) ?_, fun hi => write 97 hi _ (by decide) ?_⟩, fun held hi => ⟨write 96 hi _ (by decide) ?_, write 97 hi _ (by decide) ?_⟩⟩
    · exact congrArg (s.setCore p) (Core.writeLat_owned c s.cycle v owned)
    · have left : (s.modCore p (·.writeLat s.cycle v)).core p = c.writeLat s.cycle v := State.core_modCore_same _ _ _
      exact left ▸ Core.writeLat_free c s.cycle v unowned
    · rw [← wide]
      exact congrArg (s.setDie (p / 2)) (Die.writeOvr_free d _ none unheld)
    · exact congrArg (s.setDie (p / 2)) (Die.writeOvr_free d _ (some v) unheld)
    · exact congrArg (s.setDie (p / 2)) (Die.writeOvr_held d _ none held)
    · exact congrArg (s.setDie (p / 2)) (Die.writeOvr_held d _ (some v) held)

end Sys2Proof.Machine
end

section
/-! Events of the mesh and the Ibros links (R148 to R153, R405). -/
namespace Sys2Proof.Machine
open Sys2Proof

variable {s t : State}

/-- An event of a link that exists answers a next state. -/
theorem onLink_of (t : State) (there : linkExists s.arg.link = true) : onLink s t = .next t := if_pos there

theorem not_contains {l : List Nat} {x : Nat} (away : x ∉ l) : (!l.contains x) = true := by simp [away]

/-- Settles O46: what each event of a link leaves. -/
theorem linkEvents : Obligations.LinkEvents := by
  intro s there n l down counted
  have rotate : execLaneShadowRotate s = .next (s.rotate n s.arg.len) := onLink_of _ there
  have error : execFlitCrcError s = .next (s.flitError n s.arg.idx) := onLink_of _ there
  have trained : execRetrainDone s = .next (s.retrained n s.arg.idx) := onLink_of _ there
  refine ⟨fun whole few => rotate.trans (congrArg _ ?_), fun whole many => rotate.trans (congrArg _ ?_), fun no => error.trans (congrArg _ ?_),
    fun one up other many => error.trans (congrArg _ ?_), onLink_of _ there, onLink_of _ there, fun train up => trained.trans (congrArg _ ?_), fun train failed => trained.trans (congrArg _ ?_)⟩
  · exact (if_neg (by rw [whole]; decide)).trans (if_neg (Nat.not_lt.2 few))
  · exact (if_neg (by rw [whole]; decide)).trans (if_pos many)
  · refine if_neg fun ⟨up, one, _⟩ => no.elim (fun other => other one) fun failed => ?_
    exact absurd (failed.symm.trans up) (by decide)
  · exact if_pos ⟨up, one, not_contains other, many⟩
  · refine (if_neg (by rw [train]; decide)).trans ?_
    have stands : ¬ ((s.link n).down = true) := Bool.eq_false_iff.1 up
    exact (if_neg stands).trans (if_neg fun both => stands both.2)
  · refine (if_neg (by rw [train]; decide)).trans ((if_pos failed).trans ?_)
    refine congrArg (State.event · (4 * 256 + n) 4 0) ?_
    by_cases mesh : n < 64
    · exact (if_pos ⟨mesh, failed⟩).trans (if_pos mesh).symm
    · exact (if_neg fun both => mesh both.1).trans (if_neg mesh).symm

end Sys2Proof.Machine
end

section
/-! Events inside a core (R37, R219, R220, R224, R324, R372). -/
namespace Sys2Proof.Machine
open Sys2Proof

variable {s : State} {p : Nat} {t : STest}

/-- A self-test under way ends with its result. -/
theorem State.testEnds_of (res : Word) (fail : Bool) (test : (s.core p).stest = some t) : s.testEnds p res fail =
    ((if fail then ((s.modCore p (fun c => { c with stest := none })).testLeaves p).modHub (fun h => { h with trem := h.trem ||| 2 ^ p })
        else (s.modCore p (fun c => { c with stest := none })).testLeaves p).event (srcService (p / 2)) (evTest + p % 2) res.toNat).modHart t.core t.slot (fun h =>
      { h with regs := writeG h.regs t.rd res, pend := 0, minIssue := max h.minIssue (s.cycle + 1) }) := by
  rw [State.testEnds, test]

/-- Settles O45: a cycle passes, protected mode begins, a group is gated, a hart wakes, a self-test ends or is aborted. -/
theorem coreEvents : Obligations.CoreEvents := by
  intro s
  constructor
  · intro none_
    have quiet : ¬ (List.range 32).any s.overdue = true := fun some_ => by
      obtain ⟨p, small, late⟩ := List.any_eq_true.1 some_
      exact Bool.eq_false_iff.1 (none_ p (List.mem_range.1 small)) late
    exact congrArg Host.Outcome.next (if_neg quiet)
  · intro inside p i
    refine ⟨fun h hart asked free => (below_of _ inside).trans (congrArg _ ?_), fun small unowned long => (below_of _ inside).trans (congrArg _ ?_), ?_, ?_⟩
    · unfold State.protect
      rw [hart]
      exact if_neg (by rw [asked, free]; decide)
    · exact congrArg (s.setCore p) (if_pos ⟨small, unowned, long⟩)
    · intro h some_ waits set_ passed awake
      obtain ⟨y, is⟩ := Option.isSome_iff_exists.1 some_
      have same : h = y := by rw [show h = (s.hart? p i).getD {} from rfl, is]; rfl
      refine (below_of _ inside).trans (congrArg Host.Outcome.next ?_)
      dsimp only
      rw [show s.hart? s.arg.core s.arg.slot = some h by rw [same]; exact is]
      exact if_pos ⟨waits, set_, passed, awake⟩
    · intro x ended some_
      obtain ⟨y, is⟩ := Option.isSome_iff_exists.1 some_
      have same : x = y := by rw [show x = ((s.core p).stest).getD _ from rfl, is]; rfl
      have ends (res : Word) (fail : Bool) : s.testEnds p res fail = ended res fail := State.testEnds_of res fail (by rw [same]; exact is)
      refine ⟨fun long => (below_of _ inside).trans (congrArg Host.Outcome.next ?_), fun wanted => (below_of _ inside).trans (congrArg Host.Outcome.next ?_)⟩
      · rw [show (s.core s.arg.core).stest = some x by rw [same]; exact is]
        exact (if_pos long).trans (ends _ _)
      · rw [show (s.core s.arg.core).stest = some x by rw [same]; exact is]
        exact (if_pos wanted).trans (ends _ _)

end Sys2Proof.Machine
end

section
/-! Events of the management controller (R427 to R431, R437, R439). -/
namespace Sys2Proof.Machine
open Sys2Proof

variable {s t : State}

/-- What a boot leaves as it is: all but the hub's measurements, its identity key, its stage and the count of draws. -/
structure State.BootFrame (s t : State) : Prop where
  state : { t with hub := s.hub, draw := s.draw } = s
  hub : { t.hub with meas := s.hub.meas, idKey := s.hub.idKey, bootStage := s.hub.bootStage, bootCause := s.hub.bootCause } = s.hub

theorem State.BootFrame.refl (s : State) : s.BootFrame s := ⟨rfl, rfl⟩
theorem State.BootFrame.halt (kept : s.BootFrame t) (stage cause : Nat) : s.BootFrame (t.bootHalt stage cause) := ⟨kept.state, kept.hub⟩
theorem State.BootFrame.measure (kept : s.BootFrame t) (meas : Hub → Tbl (List Byte)) (key : Hub → List Byte) :
    s.BootFrame (t.modHub (fun h => { h with meas := meas h, idKey := key h })) := ⟨kept.state, kept.hub⟩
theorem State.BootFrame.drawn (kept : s.BootFrame t) : s.BootFrame t.drawn := ⟨kept.state, kept.hub⟩
theorem State.BootFrame.bootFirmware (kept : s.BootFrame t) : s.BootFrame t.bootFirmware := by
  unfold State.bootFirmware
  dsimp only
  split
  · exact kept.halt _ _
  · have measured (c : Prop) [Decidable c] (digest : List Byte) : s.BootFrame (if c then t else t.drawn.drawn.modHub (fun h => { h with meas := tset h.meas 2 (extend [] digest) })) := by
      split
      · exact kept
      · exact kept.drawn.drawn.measure (fun h => tset h.meas 2 (extend [] digest)) Hub.idKey
    split
    · exact (measured _ _).halt _ _
    · exact measured _ _
theorem State.boot_frame (s : State) : s.BootFrame s.boot := by
  have kept := State.BootFrame.refl s
  unfold State.boot
  extract_lets bank hdr img m0 err
  clear_value err m0 hdr
  split
  · exact kept.halt _ _
  · have measured (meas : Tbl (List Byte)) : s.BootFrame (s.modHub (fun h => { h with meas := meas, idKey := Config.identityKey })) := kept.measure (fun _ => meas) (fun _ => Config.identityKey)
    split
    · exact (measured _).halt _ _
    · exact (measured _).bootFirmware
/-- A field of the package, or of its hub, that no boot writes. -/
theorem State.BootFrame.part (kept : s.BootFrame t) {γ : Type} (g : State → γ) (keeps : ∀ s hub draw, g { s with hub := hub, draw := draw } = g s) : g t = g s :=
  (keeps _ _ _).symm.trans (congrArg g kept.state)
theorem State.BootFrame.hubPart (kept : s.BootFrame t) {γ : Type} (g : Hub → γ)
    (keeps : ∀ h meas key stage cause, g { h with meas := meas, idKey := key, bootStage := stage, bootCause := cause } = g h) : g t.hub = g s.hub :=
  (keeps _ _ _ _ _).symm.trans (congrArg g kept.hub)
/-- A boot whose first stage fails halts there. -/
theorem State.boot_stage1 (fails : s.arg.len = 1) : s.boot = s.bootHalt 1 (s.arg.w.toNat % 256) := if_pos fails

/-- A board without the EEPROM has no byte written. -/
theorem Hub.putEeprom_of (h : Hub) (o : Nat) (b : Byte) : h.putEeprom o b = { h with eeprom := if h.eepromFitted then tset h.eeprom o b else h.eeprom } := by
  unfold Hub.putEeprom
  split <;> rfl

/-- Settles O49: what the management controller is answered and what its writes leave; reset, and the loss of power. -/
theorem managementEvents : Obligations.ManagementEvents := by
  intro s spdm
  refine ⟨rfl, rfl, rfl, rfl, rfl, rfl, rfl, rfl, ?_, rfl, fun small fitted => ?_, fun low high power fitted => ?_, fun small unfitted => ⟨?_, ?_⟩, ?_, ?_, rfl⟩
  · refine congrArg (fun h => Host.Outcome.next { s with hub := h }) ?_
    dsimp only
    cases s.hub.active <;> rfl
  · exact (below_of _ small).trans (congrArg _ (if_pos fitted))
  · refine (below_of _ (by omega)).trans (congrArg _ ((if_pos ⟨low, high, power⟩).trans ?_))
    exact congrArg (fun h => { s with hub := h }) (if_pos fitted)
  · exact (below_of _ small).trans (congrArg _ (if_neg (Bool.eq_false_iff.1 unfitted)))
  · refine (below_of _ small).trans (congrArg _ ?_)
    split
    · exact congrArg (fun h => { s with hub := h }) (if_neg (Bool.eq_false_iff.1 unfitted))
    · rfl
  · intro t
    have kept := State.boot_frame (s.board.restart true)
    have board : s.board.hub.eeprom = s.hub.eeprom ∧ s.board.hub.pendActive = s.hub.pendActive ∧ s.board.arg = s.arg := by
      unfold State.board
      split <;> exact ⟨rfl, rfl, rfl⟩
    refine ⟨rfl, kept.part State.cores fun _ _ _ => rfl, kept.part State.dies fun _ _ _ => rfl, kept.part State.mem fun _ _ _ => rfl, kept.part State.cycle fun _ _ _ => rfl,
      (kept.hubPart Hub.eeprom fun _ _ _ _ _ => rfl).trans board.1, (kept.hubPart Hub.active fun _ _ _ _ _ => rfl).trans board.2.1, kept.hubPart Hub.powered fun _ _ _ _ _ => rfl,
      fun flag => ?_, fun flag => ?_, fun fails => ?_⟩
    · have is : s.board = s.modHub (fun h => { h with lp6 := s.arg.idx % 16, eepromFitted := s.arg.ok }) := if_pos flag
      exact ⟨(kept.hubPart Hub.lp6 fun _ _ _ _ _ => rfl).trans (by rw [is]; rfl), (kept.hubPart Hub.eepromFitted fun _ _ _ _ _ => rfl).trans (by rw [is]; rfl)⟩
    · have is : s.board = s := if_neg (Bool.eq_false_iff.1 flag)
      exact ⟨(kept.hubPart Hub.lp6 fun _ _ _ _ _ => rfl).trans (by rw [is]; rfl), (kept.hubPart Hub.eepromFitted fun _ _ _ _ _ => rfl).trans (by rw [is]; rfl)⟩
    · have arg : (s.board.restart true).arg = s.arg := board.2.2
      have halts : t = _ := State.boot_stage1 (s := s.board.restart true) (by rw [arg]; exact fails)
      rw [halts, arg]
      exact ⟨rfl, rfl⟩
  · exact ⟨rfl, rfl, rfl, rfl, rfl, rfl⟩

end Sys2Proof.Machine
end

section
/-! What checking granules, freezing dies and dropping cached translations leave (R335, R401, R433). -/
namespace Sys2Proof.Machine
open Sys2Proof

variable {s : State} {d e : Nat}

/-- A reading of the machine that no mark and no die tells. -/
def State.OffMarks {γ : Type} (g : State → γ) : Prop := ∀ s marks bad cleared dies, g { s with marks := marks, badCheck := bad, cleared := cleared, dies := dies } = g s
/-- A reading of a die that its counts of failed checks do not tell. -/
def Die.OffChecks {γ : Type} (g : Die → γ) : Prop := ∀ x a b m, g { x with chkErr := a, chkLast := b, chkMark := m } = g x

/-- What a change of one die leaves of a die. -/
theorem State.die_modDie_keeps {γ : Type} (g : Die → γ) (s : State) (d e : Nat) (f : Die → Die) (kept : ∀ x, g (f x) = g x) : g ((s.modDie d f).die e) = g (s.die e) := by
  rw [State.die_modDie]
  split
  · rename_i here; rw [here]; exact kept _
  · rfl

theorem State.setMark_same {γ : Type} (g : State → γ) (keeps : State.OffMarks g) (s : State) (n : Nat) (b : Bool) : g (s.setMark n b) = g s := by
  unfold State.setMark
  dsimp only
  generalize (if b = true then insSorted _ n else _) = marks
  split
  · exact (keeps (s.modDie _ _) marks _ _ _).trans (keeps s _ _ _ _)
  · exact keeps s marks _ _ _
theorem State.die_setMark_same {γ : Type} (g : Die → γ) (keeps : Die.OffChecks g) (s : State) (n : Nat) (b : Bool) : g ((s.setMark n b).die e) = g (s.die e) := by
  unfold State.setMark
  dsimp only
  split
  · exact State.die_modDie_keeps g s _ e _ (fun x => keeps x _ _ _)
  · rfl
/-- Checking granules changes marks, the list of what is to be checked, and counts of failures. -/
theorem State.verify_same {γ : Type} (g : State → γ) (keeps : State.OffMarks g) (s : State) (gs : List Nat) : g (s.verify gs) = g s := by
  refine foldl_same g _ gs s fun t n _ => ?_
  split
  · rfl
  · refine (State.setMark_same g keeps _ n true).trans ?_
    split
    · exact keeps t _ _ _ _
    · exact keeps t _ _ _ _
theorem State.die_verify_same {γ : Type} (g : Die → γ) (keeps : Die.OffChecks g) (s : State) (gs : List Nat) : g ((s.verify gs).die e) = g (s.die e) := by
  refine foldl_same (fun t : State => g (t.die e)) _ gs s fun t n _ => ?_
  split
  · rfl
  · refine (State.die_setMark_same g keeps _ n true).trans ?_
    split
    · exact State.die_modDie_keeps g _ _ e _ (fun x => keeps x _ _ _)
    · rfl
theorem State.seeNote_same {γ : Type} (g : State → γ) (keeps : State.OffMarks g) (s : State) (d : Nat) (r : Rec) : g (s.seeNote d r) = g s := by
  unfold State.seeNote
  split
  · exact State.verify_same g keeps s _
  · rfl
theorem State.die_seeNote_same {γ : Type} (g : Die → γ) (keeps : Die.OffChecks g) (s : State) (d : Nat) (r : Rec) : g ((s.seeNote d r).die e) = g (s.die e) := by
  unfold State.seeNote
  split
  · exact State.die_verify_same g keeps s _
  · rfl

/-! SCHED.CTL (R335). -/
theorem State.writeSched_same {γ : Type} (g : State → γ) (keeps : State.OffMarks g) (s : State) (d : Nat) (w : Word) : g (s.writeSched d w) = g s := by
  unfold State.writeSched
  dsimp only
  split
  · exact keeps s _ _ _ _
  · refine (keeps _ _ _ _ _).trans ((foldl_same g _ _ _ fun t q _ => ?_).trans (keeps s _ _ _ _))
    split
    · exact State.seeNote_same g keeps t d q.2
    · rfl
/-- What a write of SCHED.CTL of a die leaves of a die, beyond its two bits, its records and its counts of failed checks. -/
theorem State.die_writeSched_same {γ : Type} (g : Die → γ) (keeps : Die.OffChecks g) (recs : ∀ x l, g { x with recs := l } = g x) (s : State) (d : Nat) (w : Word) :
    g ((s.writeSched d w).die e) = g ((s.modDie d (fun x => { x with hold := w.getLsbD 1, freeze := w.getLsbD 0 })).die e) := by
  unfold State.writeSched
  dsimp only
  split
  · rfl
  · refine (State.die_modDie_keeps g _ d e _ (fun x => recs x _)).trans (foldl_same (fun t : State => g (t.die e)) _ _ _ fun t q _ => ?_)
    split
    · exact State.die_seeNote_same g keeps t d q.2
    · rfl
theorem State.freezeAll_same {γ : Type} (g : State → γ) (keeps : State.OffMarks g) (s : State) (b : Bool) : g (s.freezeAll b) = g s :=
  foldl_same g _ _ s fun t d _ => State.writeSched_same g keeps t d _
/-- FREEZE and HOLD of every die are as they were last written. -/
theorem State.die_freezeAll (s : State) (b : Bool) {d : Nat} (inside : d < 16) : ((s.freezeAll b).die d).hold = b ∧ ((s.freezeAll b).die d).freeze = b := by
  have all (l : List Nat) (t : State) (there : d ∈ l ∨ ((t.die d).hold = b ∧ (t.die d).freeze = b)) :
      ((l.foldl (fun s d => s.writeSched d (if b then 3 else 0)) t).die d).hold = b ∧ ((l.foldl (fun s d => s.writeSched d (if b then 3 else 0)) t).die d).freeze = b := by
    induction l generalizing t with
    | nil => exact there.resolve_left (List.not_mem_nil)
    | cons e l ih =>
      refine ih _ ?_
      have hold := State.die_writeSched_same (e := d) Die.hold (fun _ _ _ _ => rfl) (fun _ _ => rfl) t e (if b then 3 else 0)
      have freeze := State.die_writeSched_same (e := d) Die.freeze (fun _ _ _ _ => rfl) (fun _ _ => rfl) t e (if b then 3 else 0)
      rw [hold, freeze, State.die_modDie]
      split
      · cases b <;> exact Or.inr ⟨rfl, rfl⟩
      · rename_i other
        exact there.imp_left fun inside => (List.mem_cons.1 inside).resolve_left other
  exact all _ s (Or.inl (List.mem_range.2 inside))

/-- Dropping cached translations changes no more than them. -/
theorem State.keepTlb_same {γ : Type} (g : State → γ) (keeps : ∀ s cores tlb, g { s with cores := cores, hub := { s.hub with tlb := tlb } } = g s) (s : State) (b : Nat) (keep : Tlb → Bool) :
    g (s.keepTlb b keep) = g s := by
  unfold State.keepTlb
  dsimp only
  split
  · exact keeps s _ _
  · exact keeps s _ _

end Sys2Proof.Machine
end

section
/-! Adoption of a package (R436, R437). -/
namespace Sys2Proof.Machine
open Sys2Proof

variable {s : State}

/-! EVAC.RX after a write. -/
/-- The bits of EVAC.RX that the fields take lie above its two commands. -/
theorem rxMask_bits (i : Nat) (small : i < 64) :
    (rxMask.getLsbD i && (3#64).getLsbD i) = false ∧ (rxMask.getLsbD i && (2#64).getLsbD i) = false ∧ ((0xFFFFFFFFFFFFFFFC#64).getLsbD i || !rxMask.getLsbD i) = true
      ∧ ((0xFFFFFFFFFFFFFFFC#64).getLsbD i && (2#64).getLsbD i) = false := by
  revert i
  decide
theorem rx_disarmed (w r : Word) : ((((w &&& 0xFFFFFFFFFFFFFFFC#64) &&& rxMask) ||| (r &&& 3#64) ||| ((w &&& 0xFFFFFFFFFFFFFFFC#64) &&& 2#64)) &&& rxMask) = w &&& rxMask := by
  refine BitVec.eq_of_getLsbD_eq fun i small => ?_
  obtain ⟨h1, h2, h3, h4⟩ := rxMask_bits i small
  simp only [BitVec.getLsbD_and, BitVec.getLsbD_or]
  revert h1 h2 h3 h4
  generalize rxMask.getLsbD i = m, (3#64).getLsbD i = t, (2#64).getLsbD i = o, (0xFFFFFFFFFFFFFFFC#64).getLsbD i = c
  cases m <;> cases t <;> cases o <;> cases c <;> simp
theorem rx_from (w r : Word) : fldN (((w ||| 2#64) &&& rxMask) ||| (r &&& 3#64) ||| ((w ||| 2#64) &&& 2#64)) 55 46 = fldN w 55 46 := by
  have fields : ∀ i < 10, rxMask.getLsbD (46 + i) = true ∧ (3#64).getLsbD (46 + i) = false ∧ (2#64).getLsbD (46 + i) = false := by decide
  refine congrArg BitVec.toNat (BitVec.eq_of_getLsbD_eq fun i small => ?_)
  obtain ⟨h1, h2, h3⟩ := fields i small
  simp [fld, BitVec.getLsbD_extractLsb', h1, h2, h3]

/-- EVAC.RX as a write leaves it before its commands act. -/
def State.rxWritten (s : State) (w : Word) : State := s.modEvac (fun e => { e with rx := (w &&& rxMask) ||| (e.rx &&& 3#64) ||| (w &&& 2#64) })
theorem State.writeRx_adopt {w : Word} (armed : s.hub.evac.st = .armed) (adopt : w.getLsbD 1 = true) : s.writeRx w = (s.rxWritten w).adopt := if_pos ⟨armed, adopt⟩
theorem State.writeRx_unarmed {w : Word} (other : s.hub.evac.st ≠ .armed) : s.writeRx w =
    if w.getLsbD 0 then (if s.canArm w then (s.rxWritten w).modEvac (fun e => { e with st := .armed, rx := e.rx ||| 1#64 }) else (s.rxWritten w).modEvac (fun e => { e with err := 7 }))
    else if s.hub.evac.st = .refused then (s.rxWritten w).modEvac (fun e => { e with rx := e.rx &&& rxMask, claiming := false, st := .idle })
    else (s.rxWritten w).modEvac (fun e => { e with rx := e.rx &&& 0xFFFFFFFFFFFFFFFE#64 }) := by
  unfold State.writeRx
  simp only [other, false_and, if_false, false_or]
  rfl
theorem State.writeRx_disarm {w : Word} (st : s.hub.evac.st = .armed ∨ s.hub.evac.st = .refused) (arm : w.getLsbD 0 = false) (adopt : w.getLsbD 1 = false) :
    s.writeRx w = (s.rxWritten w).modEvac (fun e => { e with rx := e.rx &&& rxMask, claiming := false, st := .idle }) := by
  unfold State.writeRx
  simp only [adopt, arm, Bool.false_eq_true, and_false, if_false, st, if_true]
  rfl

/-! Taking over the evacuee's registers and memory (R437). -/
theorem State.adoptDies_same {γ : Type} (g : State → γ) (keeps : ∀ s dies cores tlb, g { s with dies := dies, cores := cores, hub := { s.hub with tlb := tlb } } = g s) (s : State) (rimg : Nat) :
    g ((List.range 16).foldl (fun s d => (s.adoptDie d rimg).keepTlb d (fun _ => false)) s) = g s :=
  foldl_same g _ _ s fun t d _ => (State.keepTlb_same g (fun t => keeps t t.dies) (t.adoptDie d rimg) d _).trans (keeps t _ t.cores t.hub.tlb)
theorem State.adoptRings_same {γ : Type} (g : State → γ) (keeps : ∀ s dies, g { s with dies := dies } = g s) (s : State) : g ((List.range 16).foldl State.adoptRing s) = g s :=
  foldl_same g _ _ s fun t _ _ => keeps t _
/-- The package with its dies, its tables and its number taken over, still frozen. -/
def State.adopted (s : State) : State :=
  let rimg := leNat (s.inbox 0x18 8) % 2 ^ 30 * 65536
  let s1 := (List.range 16).foldl (fun s d => (s.adoptDie d rimg).keepTlb d (fun _ => false)) s
  let s2 := s1.modHub (fun h => { h with
    pkgid := BitVec.ofNat 10 h.evac.from, tlb := [], ctxbase := mk64 (s.inbox 0x9000 8) 0 &&& baseMask
    win := (List.range 256).map (fun n => let b := s.inbox (0x5000 + 32 * n) 32; (n, { base := mk64 b 0, key := mk64 b 8 &&& windowMask, npg := mk64 b 16 &&& 0xFFFFFFFF#64 }))
    rt := (List.range 1024).map (fun n => (n, mk64 (s.inbox (0x7000 + 8 * n) 8) 0 &&& routeMask)) })
  (List.range 16).foldl State.adoptRing s2
theorem State.takeOver_eq (s : State) : s.takeOver = (s.adopted.freezeAll false).modEvac (fun e => { e with st := .adopted, rx := e.rx &&& rxMask, claiming := false }) := rfl
theorem State.adopted_same (s : State) : s.adopted.mem = s.mem ∧ s.adopted.hub.evac = s.hub.evac ∧ s.adopted.hub.pkgid = BitVec.ofNat 10 s.hub.evac.from := by
  unfold State.adopted
  dsimp only
  generalize leNat (s.inbox 0x18 8) % 2 ^ 30 * 65536 = rimg
  refine ⟨(State.adoptRings_same State.mem (fun _ _ => rfl) _).trans (State.adoptDies_same State.mem (fun _ _ _ _ => rfl) s rimg),
    (State.adoptRings_same (·.hub.evac) (fun _ _ => rfl) _).trans (State.adoptDies_same (·.hub.evac) (fun _ _ _ _ => rfl) s rimg),
    (State.adoptRings_same (·.hub.pkgid) (fun _ _ => rfl) _).trans (congrArg (fun e : Evac => BitVec.ofNat 10 e.from) (State.adoptDies_same (·.hub.evac) (fun _ _ _ _ => rfl) s rimg))⟩

theorem State.takeOver_same (s : State) : s.takeOver.hub.evac.st = .adopted ∧ s.takeOver.hub.pkgid = BitVec.ofNat 10 (fldN s.hub.evac.rx 55 46)
    ∧ s.takeOver.hub.evac.rx = s.hub.evac.rx &&& rxMask ∧ s.takeOver.mem = s.mem ∧ (∀ d < 16, (s.takeOver.die d).hold = false ∧ (s.takeOver.die d).freeze = false) := by
  obtain ⟨mem, evac, pkgid⟩ := s.adopted_same
  rw [State.takeOver_eq]
  generalize s.adopted = a at mem evac pkgid
  have hub : (a.freezeAll false).hub = a.hub := State.freezeAll_same State.hub (fun _ _ _ _ _ => rfl) _ _
  have dies (d : Nat) (inside : d < 16) := State.die_freezeAll a false inside
  have mem' : (a.freezeAll false).mem = s.mem := (State.freezeAll_same State.mem (fun _ _ _ _ _ => rfl) _ _).trans mem
  generalize a.freezeAll false = b at hub dies mem'
  refine ⟨rfl, ?_, ?_, mem', dies⟩
  · exact (congrArg Hub.pkgid hub).trans pkgid
  · exact congrArg (fun e : Evac => e.rx &&& rxMask) ((congrArg Hub.evac hub).trans evac)

/-! The answer to a claim (R437). -/
theorem execEvacClaim_grant (grant : (s.hub.evac.st == .ready && s.hub.evac.pkg == s.arg.idx) = true) :
    execEvacClaim s = .next ((s.modEvac (fun e => { e with st := .released })).put outClaimAnswer s.arg.idx 0 []) := by
  unfold execEvacClaim
  rw [grant]
  rfl
theorem execEvacClaim_deny (grant : (s.hub.evac.st == .ready && s.hub.evac.pkg == s.arg.idx) = false) : execEvacClaim s = .next (s.put outClaimAnswer s.arg.idx 1 []) := by
  unfold execEvacClaim
  rw [grant]
  rfl

/-- Settles O51: arming and disarming, the offer, the claim and its answer, and the take-over that a granted claim begins. -/
theorem adoptionOfAPackage : Obligations.AdoptionOfAPackage := by
  intro s e w fields told
  have arm0 : (w ||| 1#64).getLsbD 0 = true := by simp
  have low (o : w.getLsbD 0 = false) : (w ||| 2#64).getLsbD 0 = false := by rw [BitVec.getLsbD_or, o]; rfl
  have adopt1 : (w ||| 2#64).getLsbD 1 = true := by simp
  have disarm : (w &&& 0xFFFFFFFFFFFFFFFC#64).getLsbD 0 = false ∧ (w &&& 0xFFFFFFFFFFFFFFFC#64).getLsbD 1 = false := by simp
  refine ⟨fun st may => ?_, fun st not_ => ?_, fun armed refused zero => ?_, fun st => ?_, fun armed bad => ?_, fun armed good => ?_, rfl, fun ready home => ?_, fun other => ?_, fun claims no => ?_, fun claims ok => ?_, ?_⟩
  · exact congrArg Host.Outcome.next ((State.writeRx_unarmed st).trans ((if_pos arm0).trans (if_pos may)))
  · exact congrArg Host.Outcome.next ((State.writeRx_unarmed st).trans ((if_pos arm0).trans (if_neg (Bool.eq_false_iff.1 not_))))
  · exact congrArg Host.Outcome.next ((State.writeRx_unarmed armed).trans ((if_neg (Bool.eq_false_iff.1 (low zero))).trans (if_neg refused)))
  · refine congrArg Host.Outcome.next ((State.writeRx_disarm st disarm.1 disarm.2).trans ?_)
    exact congrArg (fun rx => s.modEvac (fun e => { e with rx := rx, claiming := false, st := .idle })) (rx_disarmed w s.hub.evac.rx)
  · refine congrArg Host.Outcome.next ((State.writeRx_adopt armed adopt1).trans (if_pos ?_))
    rw [show (s.rxWritten (w ||| 2#64)).manifestOk = false from bad]
    rfl
  · refine congrArg Host.Outcome.next ((State.writeRx_adopt armed adopt1).trans ((if_neg ?_).trans ?_))
    · rw [show (s.rxWritten (w ||| 2#64)).manifestOk = true from good]
      decide
    · exact congrArg (fun n => (told.modEvac (fun e => { e with claiming := true })).put 8 n s.hub.pkgid.toNat []) (rx_from w s.hub.evac.rx)
  · have grant : (s.hub.evac.st == .ready && s.hub.evac.pkg == s.arg.idx) = true := by
      rw [show s.hub.evac.st = .ready from ready, show s.hub.evac.pkg = s.arg.idx from home, beq_self_eq_true, beq_self_eq_true]
      rfl
    exact execEvacClaim_grant grant
  · refine execEvacClaim_deny (Bool.eq_false_iff.2 fun grant => other ?_)
    obtain ⟨ready, home⟩ := (Bool.and_eq_true _ _).mp grant
    exact ⟨eq_of_beq ready, eq_of_beq home⟩
  · exact congrArg Host.Outcome.next ((if_neg (by rw [claims]; decide)).trans (if_neg (Bool.eq_false_iff.1 no)))
  · exact ⟨congrArg Host.Outcome.next ((if_neg (by rw [claims]; decide)).trans (if_pos ok)), s.takeOver_same⟩
  · intro l claims none_
    refine congrArg Host.Outcome.next ((if_neg (by rw [claims]; decide)).trans (if_neg ?_))
    intro dead
    obtain ⟨some_, downs⟩ := (Bool.and_eq_true _ _).mp dead
    rcases none_ with empty | ⟨i, inside, up⟩
    · have filled : (!l.isEmpty) = true := some_
      rw [empty] at filled
      exact absurd filled (by decide)
    · exact absurd (List.all_eq_true.1 downs i inside) (Bool.eq_false_iff.1 up)

end Sys2Proof.Machine
end

section
/-! Evacuation of a package (R432 to R435). -/
namespace Sys2Proof.Machine
open Sys2Proof

variable {s t : State}

/-! What the writes of the record image and the copy of memory leave. -/
theorem State.outbox_commit (s : State) (bs : List (Nat × Byte)) (mark : Bool) : (s.commit bs mark).outbox = s.outbox := by
  unfold State.commit State.breakLinks
  dsimp only
  refine foldl_same State.outbox _ _ s fun t g _ => ?_
  have mark_ (b : Bool) (u : State) : (u.setMark g b).outbox = u.outbox := State.setMark_same State.outbox (fun _ _ _ _ _ => rfl) u g b
  have verify (u : State) : (u.verify [g]).outbox = u.outbox := State.verify_same State.outbox (fun _ _ _ _ _ => rfl) u [g]
  split
  · exact mark_ _ t
  · split
    · exact (mark_ _ _).trans (verify t)
    · exact verify t
theorem State.outbox_writeImage (s : State) : s.writeImage.outbox = s.outbox := by
  have local_ (t : State) (a : Nat) (b : List Byte) : (t.writeLocal a b).outbox = t.outbox := State.outbox_commit t _ _
  unfold State.writeImage
  exact (foldl_same State.outbox _ _ _ fun t n _ => local_ t _ _).trans (foldl_same State.outbox _ _ s fun t n _ => local_ t _ _)
/-- Sending changes no more than what has left the device. -/
theorem State.puts_same {α γ : Type} (g : State → γ) (keeps : ∀ s out, g { s with outbox := out } = g s) (kind dest : α → Nat) (status : α → Nat) (data : α → List Byte) (l : List α) (s : State) :
    g (l.foldl (fun t a => t.put (kind a) (dest a) (status a) (data a)) s) = g s := foldl_same g _ l s fun t _ _ => keeps t _
theorem State.outbox_puts {α : Type} (kind dest : α → Nat) (status : α → Nat) (data : α → List Byte) (l : List α) (s : State) :
    (l.foldl (fun t a => t.put (kind a) (dest a) (status a) (data a)) s).outbox = s.outbox ++ l.map (fun a => { kind := kind a, dest := dest a, status := status a, data := data a }) := by
  induction l generalizing s with
  | nil => simp
  | cons a l ih => rw [List.foldl_cons, ih]; simp [State.put]
theorem length_memRead (m : List (Nat × Byte)) (k n : Nat) : (memRead m k n).length = n := by simp [memRead]

/-- A granule that lists a byte, of a die whose memory is copied, is copied. -/
theorem State.mem_copyGrans {c : Host.Cell} (inside : c ∈ s.mem) (die : dieOfKey (c.1 / 64 * 64) < 16) (there : s.hub.evac.absent.testBit (dieOfKey (c.1 / 64 * 64)) = false) :
    c.1 / 64 ∈ s.copyGrans := by
  unfold State.copyGrans
  rw [List.mem_filter, List.mem_eraseDups]
  refine ⟨?_, ?_⟩
  · exact List.mem_append_left _ (List.mem_append_left _ (List.mem_map_of_mem inside))
  · rw [decide_eq_true die, there]; rfl
theorem State.copyOut_same {γ : Type} (g : State → γ) (keeps : State.OffMarks g) (out : ∀ s o, g { s with outbox := o } = g s) (s : State) : g s.copyOut = g s := by
  unfold State.copyOut
  dsimp only
  exact (State.puts_same g out _ _ _ _ _ _).trans ((State.puts_same g out _ _ _ _ _ _).trans (State.verify_same g keeps s _))
/-- Each granule that is copied leaves the device with its 64 bytes. -/
theorem State.copyOut_puts (s : State) {n : Nat} (copied : n ∈ s.copyGrans) :
    ∃ o ∈ s.copyOut.outbox, o.kind = 14 ∧ o.dest = s.hub.evac.pkg ∧ o.status = n * 64 ∧ o.data.take 64 = s.readAt (n * 64) 64 := by
  unfold State.copyOut
  dsimp only
  rw [State.outbox_puts]
  refine ⟨_, List.mem_append_right _ (List.mem_map_of_mem copied), rfl, rfl, rfl, ?_⟩
  have mem : (s.verify s.copyGrans).mem = s.mem := State.verify_same State.mem (fun _ _ _ _ _ => rfl) s _
  unfold State.readAt
  rw [mem, List.take_append_of_le_length (length_memRead _ _ _).ge, List.take_of_length_le (length_memRead _ _ _).le]

/-! GO and ABORT (R433, R434). -/
@[simp] theorem State.modEvac_mem (s : State) (f : Evac → Evac) : (s.modEvac f).mem = s.mem := rfl
@[simp] theorem State.modEvac_evac (s : State) (f : Evac → Evac) : (s.modEvac f).hub.evac = f s.hub.evac := rfl
@[simp] theorem State.modEvac_fitted (s : State) (f : Evac → Evac) : (s.modEvac f).hub.eepromFitted = s.hub.eepromFitted := rfl
@[simp] theorem State.modEvac_outbox (s : State) (f : Evac → Evac) : (s.modEvac f).outbox = s.outbox := rfl
@[simp] theorem State.die_modEvac (s : State) (f : Evac → Evac) (d : Nat) : (s.modEvac f).die d = s.die d := rfl
theorem State.writeEvac_go {w : Word} (idle : s.hub.evac.st = .idle) (go : w.getLsbD 0 = true) :
    s.writeEvac w = (s.modEvac (fun e => { e with cfg := (w &&& evCfgMask) ||| (e.cfg &&& 3#64) ||| (w &&& 2#64) })).evacGo := by
  unfold State.writeEvac
  rw [idle]
  exact (if_pos (by decide)).trans (if_pos go)
theorem State.evacGo_of (fine : s.goError = 0) : s.evacGo =
    (s.freezeAll true).modEvac (fun e => { e with st := .frozen, err := 0, partial_ := false, absent := 0, goAt := s.time, offered := false, accepted := false, cfg := e.cfg ||| 1#64 }) :=
  if_neg (not_not_intro fine)
theorem State.mem_freezeAll (s : State) (b : Bool) : (s.freezeAll b).mem = s.mem := State.freezeAll_same State.mem (fun _ _ _ _ _ => rfl) s b
theorem State.hub_freezeAll (s : State) (b : Bool) : (s.freezeAll b).hub = s.hub := State.freezeAll_same State.hub (fun _ _ _ _ _ => rfl) s b
theorem State.evacGo_same (fine : s.goError = 0) :
    s.evacGo.hub.evac.st = .frozen ∧ s.evacGo.hub.evac.err = 0 ∧ s.evacGo.mem = s.mem ∧ (∀ d < 16, (s.evacGo.die d).hold = true ∧ (s.evacGo.die d).freeze = true) := by
  rw [State.evacGo_of fine]
  refine ⟨by rw [State.modEvac_evac], by rw [State.modEvac_evac], by rw [State.modEvac_mem, State.mem_freezeAll], fun d inside => ?_⟩
  obtain ⟨hold, freeze⟩ := State.die_freezeAll s true inside
  rw [State.die_modEvac, hold, freeze]
  exact ⟨rfl, rfl⟩
theorem State.evacAbort_early (st : s.hub.evac.st = .frozen ∨ s.hub.evac.st = .saving ∨ s.hub.evac.st = .copying) :
    s.evacAbort = (s.freezeAll false).modEvac (fun e => { e with st := .idle, cfg := e.cfg &&& evCfgMask }) := by
  unfold State.evacAbort
  rcases st with st | st | st <;> rw [st]
theorem State.evacAbort_late (st : s.hub.evac.st = .ready ∨ s.hub.evac.st = .failed) :
    s.evacAbort = ((s.freezeAll false).modEvac (fun e => { e with st := .idle, indicator := false, cfg := e.cfg &&& evCfgMask })).service 0 := by
  unfold State.evacAbort
  rcases st with st | st <;> rw [st]
/-- The service state is a byte of the EEPROM. -/
theorem State.service_eq (s : State) (v : Nat) :
    s.service v = s.modHub (fun h => { h with eeprom := if h.eepromFitted then tset h.eeprom 256 (BitVec.ofNat 8 v) else h.eeprom }) := by
  unfold State.service
  simp only [Hub.putEeprom_of]
theorem State.service_same (s : State) (v : Nat) : (s.service v).hub.evac = s.hub.evac ∧ (s.service v).mem = s.mem ∧ ∀ d, (s.service v).die d = s.die d := by
  rw [State.service_eq]
  exact ⟨rfl, rfl, fun _ => rfl⟩
theorem State.service_eeprom (s : State) (v : Nat) (fitted : s.hub.eepromFitted = true) : tget 0 (s.service v).hub.eeprom 256 = BitVec.ofNat 8 v := by
  rw [State.service_eq]
  exact (congrArg (tget 0 · 256) (if_pos fitted)).trans (tget_tset_same _ _ _ _)
/-- An abort leaves an idle package whose dies run. -/
theorem State.evacAbort_same (st : s.hub.evac.st = .frozen ∨ s.hub.evac.st = .saving ∨ s.hub.evac.st = .copying ∨ s.hub.evac.st = .ready ∨ s.hub.evac.st = .failed) :
    s.evacAbort.hub.evac.st = .idle ∧ s.evacAbort.hub.evac.cfg = s.hub.evac.cfg &&& evCfgMask ∧ s.evacAbort.mem = s.mem
      ∧ (∀ d < 16, (s.evacAbort.die d).hold = false ∧ (s.evacAbort.die d).freeze = false) := by
  have halves : (s.hub.evac.st = .frozen ∨ s.hub.evac.st = .saving ∨ s.hub.evac.st = .copying) ∨ (s.hub.evac.st = .ready ∨ s.hub.evac.st = .failed) := by
    simpa only [or_assoc] using st
  rcases halves with early | late
  · rw [State.evacAbort_early early]
    refine ⟨by rw [State.modEvac_evac], by rw [State.modEvac_evac, State.hub_freezeAll], by rw [State.modEvac_mem, State.mem_freezeAll], fun d inside => ?_⟩
    obtain ⟨hold, freeze⟩ := State.die_freezeAll s false inside
    rw [State.die_modEvac, hold, freeze]
    exact ⟨rfl, rfl⟩
  · rw [State.evacAbort_late late]
    obtain ⟨evac, mem, dies⟩ := State.service_same ((s.freezeAll false).modEvac (fun e => { e with st := .idle, indicator := false, cfg := e.cfg &&& evCfgMask })) 0
    rw [evac, mem, State.modEvac_evac, State.hub_freezeAll, State.modEvac_mem, State.mem_freezeAll]
    refine ⟨rfl, rfl, rfl, fun d inside => ?_⟩
    obtain ⟨hold, freeze⟩ := State.die_freezeAll s false inside
    rw [dies, State.die_modEvac, hold, freeze]
    exact ⟨rfl, rfl⟩
theorem State.evacAbort_service (st : s.hub.evac.st = .ready ∨ s.hub.evac.st = .failed) (fitted : s.hub.eepromFitted = true) :
    tget 0 s.evacAbort.hub.eeprom 256 = 0 ∧ s.evacAbort.hub.evac.indicator = false := by
  rw [State.evacAbort_late st]
  obtain ⟨evac, -⟩ := State.service_same ((s.freezeAll false).modEvac (fun e => { e with st := .idle, indicator := false, cfg := e.cfg &&& evCfgMask })) 0
  refine ⟨State.service_eeprom _ 0 (by rw [State.modEvac_fitted, State.hub_freezeAll, fitted]), ?_⟩
  rw [evac, State.modEvac_evac]

/-! The ends of the steps that save and copy (R433). -/
/-- The package as its image is written and its offers are about to leave. -/
def State.imaged (s : State) : State := s.writeImage.modEvac (fun e => { e with st := .copying, offered := true, accepted := false, absent := s.hub.fset, partial_ := s.hub.fset != 0 })
theorem State.imaged_same (s : State) : s.imaged.hub.evac.st = .copying ∧ s.imaged.hub.evac.offered = true ∧ s.imaged.outbox = s.outbox := by
  unfold State.imaged
  exact ⟨by rw [State.modEvac_evac], by rw [State.modEvac_evac], by rw [State.modEvac_outbox, State.outbox_writeImage]⟩
/-- The offers on the chosen links. -/
def State.offers (s : State) (links : List Nat) : State := links.foldl (fun t l => t.put outOffer l t.hub.pkgid.toNat [BitVec.ofNat 8 (bit t.hub.ilvG 0)]) s
theorem State.offers_same (s : State) (links : List Nat) : (s.offers links).hub = s.hub ∧ (s.offers links).outbox.length = s.outbox.length + links.length := by
  unfold State.offers
  refine ⟨foldl_same State.hub _ _ s fun _ _ _ => rfl, ?_⟩
  induction links generalizing s with
  | nil => rfl
  | cons l links ih => rw [List.foldl_cons, ih]; simp [State.put]; omega
theorem evacSaveDone_of (st : s.hub.evac.st = .saving) (saved : s.allSaved = true) : execEvacSaveDone s = .next (s.imaged.offers s.hub.evac.links) := by
  unfold execEvacSaveDone State.imaged State.offers
  rw [if_neg (not_not_intro st), if_neg (by rw [saved]; decide)]
theorem State.imaged_offers (s : State) (links : List Nat) : (s.imaged.offers links).hub.evac.st = .copying ∧ (s.imaged.offers links).hub.evac.offered = true
    ∧ (s.imaged.offers links).outbox.length = s.outbox.length + links.length := by
  obtain ⟨copying, offered, out⟩ := s.imaged_same
  obtain ⟨hub, length⟩ := s.imaged.offers_same links
  rw [hub, length, copying, offered, out]
  exact ⟨rfl, rfl, rfl⟩
theorem evacCopyDone_of (st : s.hub.evac.st = .copying) (accepted : s.hub.evac.accepted = true) (up : s.hub.evac.links.any (fun i => (s.link (64 + i)).up) = true) :
    let u := s.copyOut.modEvac (fun e => { e with st := .draining })
    let t := u.put 10 s.hub.evac.pkg 0 u.manifest
    execEvacCopyDone s = .next t ∧ t.hub.evac.st = .draining ∧ t.mem = s.mem
      ∧ (∀ c ∈ s.mem, dieOfKey (c.1 / 64 * 64) < 16 → s.hub.evac.absent.testBit (dieOfKey (c.1 / 64 * 64)) = false →
          ∃ o ∈ t.outbox, o.kind = 14 ∧ o.dest = s.hub.evac.pkg ∧ o.status = c.1 / 64 * 64 ∧ o.data.take 64 = s.readAt (c.1 / 64 * 64) 64) := by
  have mem : s.copyOut.mem = s.mem := State.copyOut_same State.mem (fun _ _ _ _ _ => rfl) (fun _ _ => rfl) s
  have puts {n : Nat} (copied : n ∈ s.copyGrans) := s.copyOut_puts copied
  unfold execEvacCopyDone
  rw [if_pos ⟨st, accepted, up⟩]
  generalize s.copyOut = a at mem puts
  intro u t
  refine ⟨rfl, rfl, mem, fun c inside die there => ?_⟩
  obtain ⟨o, out, is⟩ := puts (State.mem_copyGrans inside die there)
  exact ⟨o, List.mem_append_left _ out, is⟩
theorem evacDrainDone_of (st : s.hub.evac.st = .draining) (quiet : s.pw = []) (none_ : s.noneOutstanding = true) :
    execEvacDrainDone s = .next (if s.hub.evac.goAt + 30000000000 ≤ s.time then s.evacFail s.hub.evac.err else (s.modEvac (fun e => { e with st := .ready, indicator := true })).service 1) := by
  unfold execEvacDrainDone
  rw [if_pos ⟨st, by rw [quiet]; rfl, none_⟩]

theorem evacTimeout_of (st : s.hub.evac.st = .frozen ∨ s.hub.evac.st = .saving ∨ s.hub.evac.st = .copying ∨ s.hub.evac.st = .draining)
    (late : s.hub.evac.goAt + 30000000000 ≤ s.time) : execEvacTimeout s = .next (s.evacFail s.hub.evac.err) := by
  unfold execEvacTimeout
  rcases st with st | st | st | st <;> rw [st] <;> exact congrArg _ (if_pos late)

/-- Settles O50: what each event of an evacuation leaves. -/
theorem evacuationOfAPackage : Obligations.EvacuationOfAPackage := by
  intro s e cfg fail
  have go0 : (s.arg.w ||| 1#64).getLsbD 0 = true := by simp
  refine ⟨fun idle bad => ?_, fun idle fine => ?_, fun st => ?_, fun st => ?_, fun st saved => ?_, fun st offered ok => ?_, fun st offered no => ?_, fun st offered => ?_, fun st accepted up => ?_, fun st quiet none_ => ?_, fun st late => ?_⟩
  · exact congrArg Host.Outcome.next ((State.writeEvac_go idle go0).trans (if_pos bad))
  · intro t
    have is : cfg.evacGo = t := State.evacGo_of fine
    obtain ⟨st, err, mem, dies⟩ := State.evacGo_same fine
    rw [is] at st err mem dies
    exact ⟨congrArg Host.Outcome.next ((State.writeEvac_go idle go0).trans is), st, err, mem, dies⟩
  · intro t
    obtain ⟨idle, cfg_, mem, dies⟩ := State.evacAbort_same st
    exact ⟨rfl, idle, cfg_, mem, dies, State.evacAbort_service⟩
  · exact congrArg Host.Outcome.next (if_pos st)
  · exact ⟨evacSaveDone_of st saved, s.imaged_offers _⟩
  · exact congrArg Host.Outcome.next ((if_neg (by simp [show s.hub.evac.st = _ from st, show s.hub.evac.offered = _ from offered])).trans (if_pos ok))
  · refine congrArg Host.Outcome.next ((if_neg (by simp [show s.hub.evac.st = _ from st, show s.hub.evac.offered = _ from offered])).trans (if_neg (Bool.eq_false_iff.1 no)))
  · exact congrArg Host.Outcome.next (if_pos ⟨st, offered⟩)
  · exact evacCopyDone_of st accepted up
  · exact (evacDrainDone_of st quiet none_).trans (apply_ite _ _ _ _)
  · exact evacTimeout_of st late

end Sys2Proof.Machine
end

section
/-! The witness vote (R406 to R411, R414, R415, R417, R418). -/
namespace Sys2Proof.Machine
open Sys2Proof

variable {s t : State} {d n : Nat}

/-! Sets of dies. -/
theorem testBit_two_pow_mul_pred_add {q b i j : Nat} (odd : q % 2 = 1) (low : b < 2 ^ i) (bit : (2 ^ i * (q - 1) + b).testBit j = true) : (2 ^ i * q + b).testBit j = true := by
  rw [Nat.testBit_two_pow_mul_add _ low] at bit ⊢
  split
  · rwa [if_pos ‹_›] at bit
  · rw [if_neg ‹_›] at bit
    obtain ⟨k, is⟩ : ∃ k, j - i = k := ⟨_, rfl⟩
    rw [is] at bit ⊢
    cases k with
    | zero => rw [Nat.testBit_zero, decide_eq_true_iff]; exact odd
    | succ k => rw [Nat.testBit_succ] at bit ⊢; rwa [show (q - 1) / 2 = q / 2 by omega] at bit
/-- Taking a die out of a set puts none in. -/
theorem testBit_setBit_false {f i j : Nat} (bit : (setBit f i false).testBit j = true) : f.testBit j = true := by
  unfold setBit at bit
  rw [if_neg Bool.false_ne_true] at bit
  split at bit
  · rename_i there
    have odd : f / 2 ^ i % 2 = 1 := by rw [Nat.testBit_eq_decide_div_mod_eq] at there; exact of_decide_eq_true there
    have whole : 2 ^ i * (f / 2 ^ i) + f % 2 ^ i = f := Nat.div_add_mod f (2 ^ i)
    have low : f % 2 ^ i < 2 ^ i := Nat.mod_lt _ (Nat.two_pow_pos i)
    generalize f / 2 ^ i = q at odd whole
    have step : 2 ^ i * q = 2 ^ i * (q - 1) + 2 ^ i := by rw [← Nat.mul_succ, Nat.succ_eq_add_one, Nat.sub_add_cancel (by omega)]
    have less : f - 2 ^ i = 2 ^ i * (q - 1) + f % 2 ^ i := by omega
    rw [less] at bit
    rw [← whole]
    exact testBit_two_pow_mul_pred_add odd low bit
  · exact bit
theorem testBit_setBit_true {f i j : Nat} (other : j ≠ i) : (setBit f i true).testBit j = f.testBit j := by
  rw [setBit, if_pos rfl, Nat.testBit_or, Nat.testBit_two_pow_of_ne other.symm, Bool.or_false]
theorem testBit_foldl_setBit_false (l : List Nat) {f j : Nat} (bit : (l.foldl (fun f x => setBit f x false) f).testBit j = true) : f.testBit j = true := by
  induction l generalizing f with
  | nil => exact bit
  | cons x l ih => exact testBit_setBit_false (ih bit)
theorem testBit_foldl_setBit_true (l : List Nat) {f j : Nat} (out : j ∉ l) : (l.foldl (fun f x => setBit f x true) f).testBit j = f.testBit j := by
  induction l generalizing f with
  | nil => rfl
  | cons x l ih => rw [List.foldl_cons, ih (fun i => out (List.mem_cons_of_mem x i)), testBit_setBit_true fun e => out (List.mem_cons.2 (Or.inl e))]

/-! ROUND_START and HEARTBEAT_RECEIVE. -/
theorem State.roundStart_of (closed : s.hub.roundOpen = false) (due : s.hub.roundNext ≤ s.time / 8000) : s.roundStart = s.modHub (fun h => { h with
    round := s.time / 8000, roundOpen := true, roundNext := s.time / 8000 + 1,
    sent := ((List.range 16).filter (fun d => !s.dead d || (s.wit d).appealing)).map (fun d => (d, s.beatOf d (s.time / 8000))) }) :=
  if_neg (by rw [closed]; simpa using due)
/-- A heartbeat that reaches one who hears. -/
def Heard (s : State) (w : Nat) (b : List Byte) : Prop := b.length = 32 ∧ u8 b 0 = 0x48 ∧ (Beat.parse b).src < 16 ∧ (w = 16 ∨ s.hub.fset.testBit w = false)
theorem Heard.takes {w : Nat} {b : List Byte} (h : Heard s w b) : ¬ (b.length ≠ 32 ∨ u8 b 0 ≠ 0x48 ∨ 16 ≤ (Beat.parse b).src ∨ (w < 16 ∧ s.hub.fset.testBit w = true)) := by
  obtain ⟨length, first, src, alive⟩ := h
  rintro (no | no | no | ⟨die, fenced⟩)
  · exact no length
  · exact no first
  · omega
  · rcases alive with hub | alive
    · omega
    · rw [alive] at fenced; exact absurd fenced (by decide)
theorem State.hear_late {w : Nat} {b : List Byte} (h : Heard s w b) (fenced : s.hub.fset.testBit (Beat.parse b).src = true) (plain : (Beat.parse b).appeal = false) :
    s.hear w b = s.modWit w (fun y => { y with late := (y.late + 1) % 2 ^ 64 }) :=
  (if_neg h.takes).trans (if_pos ⟨fenced, by rw [plain]; rfl⟩)
theorem State.hear_again {w : Nat} {b : List Byte} (h : Heard s w b) (outside : s.hub.fset.testBit (Beat.parse b).src = false) (now : (Beat.parse b).round = s.hub.running)
    (known : ∃ q ∈ (s.wit w).heard, q.2 = b) : s.hear w b = s := by
  obtain ⟨q, inside, same⟩ := known
  refine (if_neg h.takes).trans ((if_neg fun both => by rw [outside] at both; exact absurd both.1 (by decide)).trans (if_pos ?_))
  exact List.any_eq_true.2 ⟨q, inside, by simp [same, now]⟩
theorem State.hear_new {w : Nat} {b : List Byte} (h : Heard s w b) (outside : s.hub.fset.testBit (Beat.parse b).src = false) (ok : beatOk b = true)
    (now : (Beat.parse b).round = s.hub.running) (view : (Beat.parse b).fenced = s.hub.fset)
    (first : (s.wit w).beats.find? (fun y => y.src == (Beat.parse b).src && y.round == (Beat.parse b).round) = none) (new : ∀ q ∈ (s.wit w).heard, q.2 ≠ b) :
    s.hear w b = s.modWit w (fun y => { y with beats := y.beats ++ [Beat.parse b], heard := y.heard ++ [(s.hub.running, b)] }) := by
  refine (if_neg h.takes).trans ((if_neg fun both => by rw [outside] at both; exact absurd both.1 (by decide)).trans ((if_neg ?_).trans ?_))
  · intro again
    obtain ⟨q, inside, same⟩ := List.any_eq_true.1 again
    exact new q inside (eq_of_beq ((Bool.and_eq_true _ _).mp same).1)
  · have at_ : s.hub.fAt (Beat.parse b).round = s.hub.fset := if_pos now
    dsimp only
    rw [first, ok, at_, view, now]
    simp

/-! What the moments of a round leave: neither the round nor F. -/
/-- A reading of the machine that neither its dies, cores and memory nor the hub's witness agent, holds and evacuation tell. -/
def State.OffRound {γ : Type} (g : State → γ) : Prop :=
  ∀ s cores dies mem marks bad pw orphans events seqs lost cleared evac frem wit holds,
    g { s with cores := cores, dies := dies, mem := mem, marks := marks, badCheck := bad, pw := pw, orphans := orphans, events := events, seqs := seqs, lost := lost, cleared := cleared, hub := { s.hub with evac := evac, frem := frem, wit := wit, holds := holds } } = g s

section
variable {γ : Type} (g : State → γ) (keeps : State.OffRound g)
include keeps

theorem State.modHart_offRound (s : State) (p i : Nat) (f : Hart → Hart) : g (s.modHart p i f) = g s := by
  unfold State.modHart
  split
  · rfl
  · exact keeps s _ _ _ _ _ _ _ _ _ _ _ _ _ _ _
theorem State.modWit_offRound (s : State) (d : Nat) (f : Wit → Wit) : g (s.modWit d f) = g s := by
  unfold State.modWit
  split
  · exact keeps s _ _ _ _ _ _ _ _ _ _ _ _ _ _ _
  · exact keeps s _ _ _ _ _ _ _ _ _ _ _ _ _ _ _
theorem State.endGang_offRound (s : State) (d i st : Nat) : g (s.endGang d i st) = g s := by
  have stop : g (s.stopGang d i) = g s := foldl_same g _ _ s fun t q _ => foldl_same g _ _ t fun t k _ => State.modHart_offRound g keeps t _ _ _
  exact (keeps (s.stopGang d i) _ _ _ _ _ _ _ _ _ _ _ _ _ _ _).trans stop
theorem State.endOn_offRound (s : State) (f d : Nat) : g (s.endOn f d) = g s := by
  refine foldl_same g _ _ s fun t q _ => ?_
  split
  · exact State.endGang_offRound g keeps t d q.1 3
  · rfl
theorem State.testLeaves_offRound (s : State) (p : Nat) : g (s.testLeaves p) = g s :=
  (keeps (s.modCore p _) _ _ _ _ _ _ _ _ _ _ _ _ _ _ _).trans (keeps s _ _ _ _ _ _ _ _ _ _ _ _ _ _ _)
theorem State.stopDie_offRound (s : State) (f : Nat) : g (s.stopDie f) = g s := by
  unfold State.stopDie
  refine (keeps _ _ _ _ _ _ _ _ _ _ _ _ _ _ _ _).trans (foldl_same g _ _ s fun t p _ => ?_)
  refine (keeps _ _ _ _ _ _ _ _ _ _ _ _ _ _ _ _).trans ?_
  split
  · exact State.testLeaves_offRound g keeps t p
  · rfl
theorem State.selfFence_offRound (s : State) (f : Nat) : g (s.selfFence f) = g s := (State.modWit_offRound g keeps _ _ _).trans (State.stopDie_offRound g keeps s f)
theorem State.readmit_offRound (s : State) (f n : Nat) : g (s.readmit f n) = g s :=
  (keeps _ _ _ _ _ _ _ _ _ _ _ _ _ _ _ _).trans (keeps s _ _ _ _ _ _ _ _ _ _ _ _ _ _ _)
theorem State.fence_offRound (s : State) (f guardian n : Nat) : g (s.fence f guardian n) = g s := by
  unfold State.fence
  dsimp only
  refine (keeps _ _ _ _ _ _ _ _ _ _ _ _ _ _ _ _).trans ((foldl_same g _ _ _ fun t d _ => State.endOn_offRound g keeps t f d).trans
    ((foldl_same g _ _ _ fun t d _ => State.modWit_offRound g keeps t d _).trans ((keeps _ _ _ _ _ _ _ _ _ _ _ _ _ _ _ _).trans ?_)))
  have copying : g (if s.hub.evac.st = .copying then s.modHub (fun h => { h with evac := { h.evac with absent := setBit h.evac.absent f true, partial_ := true } }) else s) = g s := by
    split
    · exact keeps s _ _ _ _ _ _ _ _ _ _ _ _ _ _ _
    · rfl
  split
  · exact (keeps _ _ _ _ _ _ _ _ _ _ _ _ _ _ _ _).trans copying
  · exact (State.stopDie_offRound g keeps _ f).trans ((keeps _ _ _ _ _ _ _ _ _ _ _ _ _ _ _ _).trans copying)
theorem State.reroute_offRound (s : State) (old : Hub) (out : List Nat) : g (s.reroute old out) = g s := by
  unfold State.reroute
  dsimp only
  refine (keeps _ _ _ _ _ _ _ _ _ _ _ _ _ _ _ _).trans (foldl_same g _ _ s fun t q _ => ?_)
  split
  · exact State.modHart_offRound g keeps t _ _ _
  · rfl
theorem State.loseReqs_offRound (s : State) : g s.loseReqs = g s := keeps s _ _ _ _ _ _ _ _ _ _ _ _ _ _ _
end

/-! A die that has fenced itself (R409). -/
/-- A die has fenced itself. -/
def State.bound (s : State) (d : Nat) : Bool := (s.die d).wit.selfFenced
theorem State.bound_modDie (s : State) (e d : Nat) (f : Die → Die) (kept : ∀ x, (f x).wit.selfFenced = x.wit.selfFenced := by intros; rfl) : (s.modDie e f).bound d = s.bound d :=
  State.die_modDie_keeps (fun x => x.wit.selfFenced) s e d f kept
theorem State.bound_modDie_ne (s : State) {e : Nat} (f : Die → Die) (other : d ≠ e) : (s.modDie e f).bound d = s.bound d := by
  rw [State.bound, State.die_modDie, if_neg other]
  rfl
theorem State.bound_modWit (s : State) (e d : Nat) (f : Wit → Wit) (kept : ∀ w, (f w).selfFenced = w.selfFenced := by intros; rfl) : (s.modWit e f).bound d = s.bound d := by
  unfold State.modWit
  split
  · exact State.bound_modDie s e d _ fun x => kept x.wit
  · rfl
theorem State.bound_of_dies (d : Nat) (same : t.dies = s.dies) : t.bound d = s.bound d := by
  unfold State.bound State.die
  rw [same]
theorem State.bound_endOn (s : State) (f e d : Nat) : (s.endOn f e).bound d = s.bound d := by
  refine foldl_same (State.bound · d) _ _ s fun t q _ => ?_
  split
  · exact (State.bound_modDie _ e d _).trans (State.bound_of_dies d (t.stopGang_frame e q.1).2.2.1)
  · rfl
theorem State.bound_stopDie (s : State) (f d : Nat) : (s.stopDie f).bound d = s.bound d := by
  unfold State.stopDie
  refine (State.bound_modDie _ f d _).trans (foldl_same (State.bound · d) _ _ s fun t p _ => ?_)
  split <;> exact State.bound_of_dies d rfl
theorem State.bound_discard (s : State) (e d : Nat) : (s.discard e).bound d = s.bound d := State.bound_modWit s e d _
theorem State.bound_fence (s : State) (f guardian n d : Nat) : (s.fence f guardian n).bound d = s.bound d := by
  unfold State.fence
  dsimp only
  refine (State.bound_of_dies d rfl).trans ((foldl_same (State.bound · d) _ _ _ fun t e _ => State.bound_endOn t f e d).trans
    ((foldl_same (State.bound · d) _ _ _ fun t e _ => State.bound_discard t e d).trans ((State.bound_of_dies d rfl).trans ?_)))
  have copying : State.bound (if s.hub.evac.st = .copying then s.modHub (fun h => { h with evac := { h.evac with absent := setBit h.evac.absent f true, partial_ := true } }) else s) d = s.bound d := by
    split <;> rfl
  split
  · exact (State.bound_of_dies d rfl).trans copying
  · exact (State.bound_stopDie _ f d).trans ((State.bound_of_dies d rfl).trans copying)
theorem State.bound_selfFence_same (s : State) (small : d < 16) : (s.selfFence d).bound d = true := by
  unfold State.selfFence State.modWit State.bound
  rw [if_pos small, State.die_modDie_same]
theorem State.bound_selfFence (s : State) {f : Nat} (small : d < 16) (bound : s.bound d = true) : (s.selfFence f).bound d = true := by
  by_cases same : d = f
  · subst same; exact s.bound_selfFence_same small
  · unfold State.selfFence State.modWit
    split
    · rw [State.bound, State.die_modDie, if_neg same]
      exact (State.bound_stopDie s f d).trans bound
    · exact (State.bound_stopDie s f d).trans bound
theorem State.bound_readmit (s : State) {f : Nat} (n : Nat) (other : d ≠ f) : (s.readmit f n).bound d = s.bound d := by
  have after (s2 : State) (lost : Nat) (cleared : List Nat) (x y z : Nat) : (({ s2 with lost := lost, cleared := cleared } : State).event x y z).bound d = s2.bound d := rfl
  exact (after _ _ _ _ _ _).trans ((State.bound_modDie_ne _ _ other).trans (State.bound_of_dies d rfl))
/-- Every die of a list has fenced itself once each has. -/
theorem State.bound_selfFences (l : List Nat) (s : State) (small : d < 16) (there : d ∈ l ∨ s.bound d = true) : (l.foldl State.selfFence s).bound d = true := by
  induction l generalizing s with
  | nil => exact there.resolve_left List.not_mem_nil
  | cons f l ih =>
    refine ih _ (there.elim (fun inside => ?_) fun bound => Or.inr (s.bound_selfFence small bound))
    rcases List.mem_cons.1 inside with same | later
    · exact Or.inr (same ▸ s.bound_selfFence_same small)
    · exact Or.inl later

/-! Memory where no self-test runs (R324, R411). -/
/-- No core runs a self-test, and memory is as it was. -/
def State.Untested (m : List Host.Cell) (s : State) : Prop := s.mem = m ∧ ∀ p, (s.core p).stest = none
section
variable {m : List Host.Cell}
theorem State.Untested.of (u : s.Untested m) (mem : t.mem = s.mem) (cores : t.cores = s.cores) : t.Untested m :=
  ⟨mem.trans u.1, fun p => by unfold State.core; rw [cores]; exact u.2 p⟩
theorem State.Untested.event (u : s.Untested m) (a b c : Nat) : (s.event a b c).Untested m := u
theorem State.Untested.modHub (u : s.Untested m) (f : Hub → Hub) : (s.modHub f).Untested m := u
theorem State.Untested.drop (u : s.Untested m) (pw : List PW) (orphans : List (Nat × Nat)) : ({ s with pw := pw, orphans := orphans } : State).Untested m := u
theorem State.Untested.modCore (u : s.Untested m) (p : Nat) (f : Core → Core) (kept : ∀ c, c.stest = none → (f c).stest = none := by intro c h; first | exact h | rfl) : (s.modCore p f).Untested m := by
  refine ⟨u.1, fun q => ?_⟩
  rw [State.core_modCore]
  split
  · exact kept _ (u.2 p)
  · exact u.2 q
theorem State.Untested.modHart (u : s.Untested m) (p i : Nat) (f : Hart → Hart) : (s.modHart p i f).Untested m := by
  unfold State.modHart
  split
  · exact u
  · exact u.modCore p _
theorem State.Untested.modWit (u : s.Untested m) (d : Nat) (f : Wit → Wit) : (s.modWit d f).Untested m := by
  unfold State.modWit
  split <;> exact u.of rfl rfl
theorem State.Untested.endOn (u : s.Untested m) (f d : Nat) : (s.endOn f d).Untested m := by
  refine foldl_keeps (State.Untested m) _ _ s u fun t q _ u => ?_
  split
  · have stop : (t.stopGang d q.1).Untested m := foldl_keeps (State.Untested m) _ _ t u fun t q _ u => foldl_keeps (State.Untested m) _ _ t u fun t k _ u => u.modHart _ _ _
    exact stop.of rfl rfl
  · exact u
theorem State.Untested.stopDie (u : s.Untested m) (f : Nat) : (s.stopDie f).Untested m := by
  unfold State.stopDie
  refine State.Untested.of (foldl_keeps (State.Untested m) _ _ s u fun t p _ u => ?_) rfl rfl
  rw [if_neg (by rw [u.2 p]; decide)]
  exact u.modCore p _
theorem State.Untested.fence (u : s.Untested m) (f guardian n : Nat) : (s.fence f guardian n).Untested m := by
  unfold State.fence
  dsimp only
  have copying : State.Untested m (if s.hub.evac.st = .copying then s.modHub (fun h => { h with evac := { h.evac with absent := setBit h.evac.absent f true, partial_ := true } }) else s) := by
    split
    · exact u.of rfl rfl
    · exact u
  have stopped (c : Prop) [Decidable c] (t : State) (u : t.Untested m) : State.Untested m (if c then t else t.stopDie f) := by
    split
    · exact u
    · exact u.stopDie f
  have counted (l : List Nat) (t : State) (u : t.Untested m) : (l.foldl State.discard t).Untested m := foldl_keeps (State.Untested m) _ _ t u fun t d _ u => u.modWit d _
  have ended (l : List Nat) (t : State) (u : t.Untested m) : (l.foldl (fun t d => t.endOn f d) t).Untested m := foldl_keeps (State.Untested m) _ _ t u fun t d _ u => u.endOn f d
  exact (ended _ _ (counted _ _ ((stopped ((s.wit f).selfFenced = true) _ (copying.drop _ _)).modHub _))).event _ _ _
theorem State.Untested.selfFence (u : s.Untested m) (f : Nat) : (s.selfFence f).Untested m := (u.stopDie f).modWit f _
theorem State.Untested.readmit (u : s.Untested m) (f n : Nat) : (s.readmit f n).Untested m := u.of rfl rfl
end

/-! The end of a round (R409, R410, R418). -/
/-- F after the round: the voted-out dies in, the readmitted out. -/
def State.nextF (s : State) : Nat :=
  (s.readmitted s.hub.round (s.tally s.hub.round).1).foldl (fun f x => setBit f x false) ((s.tally s.hub.round).2.foldl (fun f x => setBit f x true) s.hub.fset)
/-- The verdicts of the dies outside F. -/
def State.verdicts (s : State) : List (Nat × Wit) := ((List.range 16).filter (fun d => !s.hub.fset.testBit d)).map (fun d => (d, s.verdict d s.hub.round))
/-- The round is closed, with its verdicts and the new F. -/
def State.counted (s : State) : State :=
  let n := s.hub.round
  let p := (s.tally n).1
  let old := s.hub.fset
  let downs := s.hub.wit.beats.flatMap (fun b => if b.round = n then (bitsOf 4 b.down).flatMap (fun q => [4 * b.src + q, linkFar (4 * b.src + q)]) else [])
  let hubProb := dieSet ((List.range 16).filter (fun x => old.testBit x && ((s.hub.wit.beat x n).map (·.appeal)).getD false))
  (s.verdicts.foldl (fun t q => t.modWit q.1 (fun _ => { q.2 with pend := dieSet p, prob := q.2.prob &&& s.nextF })) s).modHub (fun h => { h with
    roundOpen := false, fprev := old, fset := s.nextF, downs := downs.eraseDups
    wit := { h.wit with pend := dieSet p, prob := hubProb &&& s.nextF, beats := h.wit.beats.filter (fun y => decide (n ≤ y.round)), heard := h.wit.heard.filter (fun q => decide (n ≤ q.1)) } })
/-- The voted-out dies are fenced. -/
def State.votedOut (s : State) : State :=
  (s.tally s.hub.round).2.foldl (fun t f => t.fence f (((witnesses s.hub.fset f).filter (fun w => !s.nextF.testBit w)).foldl min 16) s.hub.round) s.counted
/-- Dies that have heard nothing fence themselves. -/
def State.silenced (s : State) : State :=
  (((s.verdicts.filter (fun q => decide (6 ≤ q.2.silentRounds))).map (·.1)).filter (fun f => !s.votedOut.dead f)).foldl State.selfFence s.votedOut
/-- The readmitted dies are back. -/
def State.rejoined (s : State) : State := (s.readmitted s.hub.round (s.tally s.hub.round).1).foldl (fun t f => t.readmit f s.hub.round) s.silenced
theorem State.roundEnd_of (running : s.hub.roundOpen = true) (due : s.hub.round < s.time / 8000) : s.roundEnd = (s.rejoined.reroute s.hub (s.tally s.hub.round).2).loseReqs :=
  if_neg fun still => still.elim (fun closed => by rw [running] at closed; exact absurd closed (by decide)) fun early => absurd due (Nat.not_lt.2 early)

section
variable {γ : Type} (g : State → γ) (keeps : State.OffRound g)
include keeps
theorem State.votedOut_offRound (s : State) : g s.votedOut = g s.counted := foldl_same g _ _ _ fun t f _ => State.fence_offRound g keeps t f _ _
theorem State.silenced_offRound (s : State) : g s.silenced = g s.counted := (foldl_same g _ _ _ fun t f _ => State.selfFence_offRound g keeps t f).trans (State.votedOut_offRound g keeps s)
theorem State.rejoined_offRound (s : State) : g s.rejoined = g s.counted := (foldl_same g _ _ _ fun t f _ => State.readmit_offRound g keeps t f _).trans (State.silenced_offRound g keeps s)
theorem State.roundEnd_offRound (running : s.hub.roundOpen = true) (due : s.hub.round < s.time / 8000) : g s.roundEnd = g s.counted := by
  rw [State.roundEnd_of running due]
  exact (State.loseReqs_offRound g keeps _).trans ((State.reroute_offRound g keeps _ _ _).trans (State.rejoined_offRound g keeps s))
end
theorem State.nextF_outside (outside : s.hub.fset.testBit d = false) (kept : d ∉ (s.tally s.hub.round).2) : s.nextF.testBit d = false := by
  refine Bool.eq_false_iff.2 fun bit => ?_
  have before := testBit_foldl_setBit_false _ bit
  rw [testBit_foldl_setBit_true _ kept, outside] at before
  exact absurd before (by decide)
theorem State.bound_reroute (s : State) (old : Hub) (out : List Nat) (d : Nat) : (s.reroute old out).bound d = s.bound d := by
  refine (State.bound_of_dies (s := s) d ?_)
  unfold State.reroute
  dsimp only
  refine foldl_same State.dies _ _ s fun t q _ => ?_
  split
  · exact State.modHart_dies _ _ _ _
  · rfl
/-- A die that has heard nothing for six rounds, and is neither in F nor voted out, has fenced itself. -/
theorem State.roundEnd_bound (running : s.hub.roundOpen = true) (due : s.hub.round < s.time / 8000) (small : d < 16) (outside : s.hub.fset.testBit d = false)
    (kept : d ∉ (s.tally s.hub.round).2) (silent : 6 ≤ (s.verdict d s.hub.round).silentRounds) : s.roundEnd.bound d = true := by
  rw [State.roundEnd_of running due]
  refine (State.bound_of_dies d rfl).trans ((State.bound_reroute s.rejoined s.hub _ d).trans ?_)
  have stays : s.rejoined.bound d = s.silenced.bound d := foldl_same (State.bound · d) _ _ _ fun t f inside => State.bound_readmit t _ fun same => by
    have fenced := ((Bool.and_eq_true _ _).mp (List.mem_filter.1 inside).2).1
    rw [← same, outside] at fenced
    exact absurd fenced (by decide)
  refine stays.trans (State.bound_selfFences _ _ small ?_)
  have f : s.votedOut.hub.fset = s.nextF := State.votedOut_offRound (fun t => t.hub.fset) (fun _ _ _ _ _ _ _ _ _ _ _ _ _ _ _ _ => rfl) s
  cases dead : s.votedOut.dead d with
  | true =>
    refine Or.inr ?_
    unfold State.dead at dead
    rw [f, State.nextF_outside outside kept, Bool.false_or] at dead
    exact dead
  | false =>
    refine Or.inl (List.mem_filter.2 ⟨List.mem_map.2 ⟨(d, s.verdict d s.hub.round), List.mem_filter.2 ⟨?_, decide_eq_true silent⟩, rfl⟩, by rw [dead]; rfl⟩)
    exact List.mem_map.2 ⟨d, List.mem_filter.2 ⟨List.mem_range.2 small, by rw [outside]; rfl⟩, rfl⟩
theorem State.roundEnd_mem (running : s.hub.roundOpen = true) (due : s.hub.round < s.time / 8000) (untested : ∀ p, (s.core p).stest = none) : s.roundEnd.mem = s.mem := by
  have u : s.Untested s.mem := ⟨rfl, untested⟩
  have counted : s.counted.Untested s.mem := (foldl_keeps (State.Untested s.mem) _ _ s u fun t q _ u => u.modWit _ _).modHub _
  have votedOut : s.votedOut.Untested s.mem := foldl_keeps (State.Untested s.mem) _ _ _ counted fun t f _ u => u.fence f _ _
  have silenced : s.silenced.Untested s.mem := foldl_keeps (State.Untested s.mem) _ _ _ votedOut fun t f _ u => u.selfFence f
  have rejoined : s.rejoined.Untested s.mem := foldl_keeps (State.Untested s.mem) _ _ _ silenced fun t f _ u => u.readmit f _
  rw [State.roundEnd_of running due]
  have rerouted : (s.rejoined.reroute s.hub (s.tally s.hub.round).2).mem = s.rejoined.mem := by
    unfold State.reroute
    refine foldl_same State.mem _ _ _ fun t q _ => ?_
    split
    · exact State.modHart_mem _ _ _ _
    · rfl
  exact rerouted.trans rejoined.1

/-- Settles O47: a round begins, is heard and ends; orphans complete; a fenced die appeals. -/
theorem witnessEvents : Obligations.WitnessEvents := by
  intro s
  refine ⟨fun closed due => congrArg _ (State.roundStart_of closed due), ?_, fun idle => ?_, ?_, fun some_ free => ?_, fun none_ => ?_, fun small dead testing => ?_⟩
  · intro small b x w length first src alive
    have hear : execHeartbeatReceive s = .next (s.hear w b) := below_of _ small
    have h : Heard s w b := ⟨length, first, src, alive⟩
    exact ⟨fun fenced plain => hear.trans (congrArg _ (State.hear_late h fenced plain)), fun outside ok now view known new => hear.trans (congrArg _ (State.hear_new h outside ok now view known new)),
      fun outside now known => hear.trans (congrArg _ (State.hear_again h outside now known))⟩
  · exact congrArg Host.Outcome.next (if_pos (idle.imp_left fun closed => by rw [closed]; rfl))
  · intro n back out running due
    have off {γ : Type} (g : State → γ) (keeps : State.OffRound g) := State.roundEnd_offRound (s := s) g keeps running due
    exact ⟨rfl, off (fun t => t.hub.roundOpen) fun _ _ _ _ _ _ _ _ _ _ _ _ _ _ _ _ => rfl, off (fun t => t.hub.fprev) fun _ _ _ _ _ _ _ _ _ _ _ _ _ _ _ _ => rfl,
      off (fun t => t.hub.fset) fun _ _ _ _ _ _ _ _ _ _ _ _ _ _ _ _ => rfl, fun d small outside kept silent => State.roundEnd_bound running due small outside kept silent,
      State.roundEnd_mem running due⟩
  · refine congrArg Host.Outcome.next ?_
    revert some_ free
    cases is : s.orphans with
    | nil => exact fun some_ => absurd rfl some_
    | cons q r => exact fun _ free => if_neg (Bool.eq_false_iff.1 free)
  · refine congrArg Host.Outcome.next ?_
    rw [none_]
  · refine (below_of _ small).trans (congrArg Host.Outcome.next (if_neg ?_))
    rw [dead, testing]
    decide

end Sys2Proof.Machine
end

section
/-! Placing a gang (R342, R343): what becomes of its record, and of the dies. -/
namespace Sys2Proof.Machine
open Sys2Proof

variable {s : State} {d i : Nat}

/-- The resources of one more core are taken. -/
def State.placeStep (s : State) (r : Rec) (g : Nat) (q : State × List Place) (core : Nat) : State × List Place :=
  let (s1, pl) := q.1.takeCore r core g (s.spbaseFor r core)
  (((s1.modCore core (·.emptyClaims r.desc.qclaim r.desc.tclaim)).zeroRange (padKey core pl.spbase) (r.desc.spres * 65536)), q.2 ++ [pl])
theorem State.placeSteps (s : State) (r : Rec) (g : Nat) (cores : List Nat) (q : State × List Place) :
    (cores.foldl (s.placeStep r g) q).1.dies = q.1.dies ∧ (cores.foldl (s.placeStep r g) q).2.map (·.core) = q.2.map (·.core) ++ cores := by
  induction cores generalizing q with
  | nil => simp
  | cons c l ih =>
    obtain ⟨dies, cores⟩ := ih (s.placeStep r g q c)
    refine ⟨dies.trans rfl, cores.trans ?_⟩
    simp [State.placeStep, State.takeCore]
/-- The record of a gang that is placed. -/
def State.placedRec (s : State) (d i : Nat) (cores : List Nat) (g : Nat) : Rec :=
  let r0 := s.gang d i
  let bar : Barrier := { narr := r0.desc.h * cores.length }
  { r0 with st := 4, places := (cores.foldl (s.placeStep r0 g) (s, [])).2, g := g, placedAt := s.cycle, colo := [], bars := (List.range 4).map (fun n => (n, bar))
            save := {}, saved := [], keptPbc := [], keptK := [], markAt := [], agreed := [], unrestored := [], growStalled := false }
theorem State.placedRec_cores (s : State) (d i : Nat) (cores : List Nat) (g : Nat) : (s.placedRec d i cores g).places.map (·.core) = cores :=
  (s.placeSteps (s.gang d i) g cores (s, [])).2
/-- Setting harts changes no die. -/
theorem State.setHarts_dies {α : Type} (core : α → Nat) (slots : α → List (Nat × Nat)) (x : α → Nat × Nat → Hart) (l : List α) (s : State) :
    (l.foldl (fun s a => (slots a).foldl (fun s h => s.setHart (core a) h.1 (x a h)) s) s).dies = s.dies :=
  foldl_same State.dies _ l s fun t a _ => foldl_same State.dies _ (slots a) t fun _ _ _ => rfl
theorem State.place_eq (s : State) (d i : Nat) (cores : List Nat) (g : Nat) : s.place d i cores g =
    (s.placedRec d i cores g).places.zipIdx.foldl (fun t q => q.1.slots.zipIdx.foldl (fun t h => t.setHart q.1.core h.1
        { newHart d i (s.placedRec d i cores g) q.1.core q.2 h.2 with minIssue := (cores.foldl (s.placeStep (s.gang d i) g) (s, [])).1.cycle + 32 * (s.gang d i).desc.spres }) t)
      (((cores.foldl (s.placeStep (s.gang d i) g) (s, [])).1.setGang d i (s.placedRec d i cores g)).modHub (fun x => { x with everPlaced := true })) := rfl
/-- Of the dies a placement changes the record alone. -/
theorem State.place_dies (s : State) (d i : Nat) (cores : List Nat) (g : Nat) : (s.place d i cores g).dies = (s.setGang d i (s.placedRec d i cores g)).dies := by
  have dies := (s.placeSteps (s.gang d i) g cores (s, [])).1
  have set (t : State) (r : Rec) (same : t.dies = s.dies) : (t.setGang d i r).dies = (s.setGang d i r).dies := by
    unfold State.setGang State.modDie State.setDie State.die
    rw [same]
  rw [State.place_eq]
  exact (State.setHarts_dies (fun q : Place × Nat => q.1.core) (fun q => q.1.slots.zipIdx) _ _ _).trans (set _ (s.placedRec d i cores g) dies)
theorem State.gang_of_dies {t : State} (same : t.dies = s.dies) (d i : Nat) : t.gang d i = s.gang d i := by
  unfold State.gang State.die
  rw [same]
theorem State.gang_place (s : State) (d i : Nat) (cores : List Nat) (g : Nat) : (s.place d i cores g).gang d i = s.placedRec d i cores g :=
  (State.gang_of_dies (s.place_dies d i cores g) d i).trans (State.gang_setGang_same _ _ _ _)
/-- Of a die a placement changes no more than its records. -/
theorem State.die_place {γ : Type} (f : Die → γ) (keeps : ∀ x l, f { x with recs := l } = f x) (s : State) (d i e : Nat) (cores : List Nat) (g : Nat) :
    f ((s.place d i cores g).die e) = f (s.die e) := by
  rw [State.die, s.place_dies]
  exact State.die_modDie_keeps f s d e _ fun x => keeps x _

end Sys2Proof.Machine
end

section
/-! Writes of device registers (R84 to R101, R216, R219, R337, R381). -/
namespace Sys2Proof.Machine
open Sys2Proof

variable {s : State} {d : Nat}

/-! The room that a boot hart finds (R101). -/
/-- An entry that yields nothing, written where none or another such stood, leaves what a table yields. -/
theorem flatMap_tset {α β : Type} (e : α) (t : Tbl α) (k : Nat) (v : α) (f : Nat × α → List β) (new : f (k, v) = []) (old : f (k, tget e t k) = []) : (tset t k v).flatMap f = t.flatMap f := by
  induction t with
  | nil => simp [tset, new]
  | cons q r ih =>
    obtain ⟨a, x⟩ := q
    unfold tset
    unfold tget at old
    split
    · simp [new]
    · rw [if_neg ‹_›] at old
      split
      · rename_i same
        rw [if_pos same] at old
        subst same
        simp [new, old]
      · rw [if_neg ‹_›] at old
        simp [ih old]
theorem mem_tset {α : Type} {t : Tbl α} {k : Nat} {v : α} {q : Nat × α} (inside : q ∈ tset t k v) : q = (k, v) ∨ q ∈ t := by
  induction t with
  | nil => exact Or.inl (List.mem_singleton.1 inside)
  | cons x r ih =>
    unfold tset at inside
    split at inside
    · exact List.mem_cons.1 inside
    · split at inside
      · exact (List.mem_cons.1 inside).imp_right (List.mem_cons_of_mem _)
      · rcases List.mem_cons.1 inside with head | tail
        · exact Or.inr (List.mem_cons.2 (Or.inl head))
        · exact (ih tail).imp_right (List.mem_cons_of_mem _)
/-- A die whose records hold no place on a core. -/
def Die.absent (x : Die) (p : Nat) : Prop := ∀ q ∈ x.recs, q.2.st = 0 ∨ q.2.place? p = none
theorem State.recsOn_setDie {x : Die} {p : Nat} (new : x.absent p) (old : (s.die d).absent p) : (s.setDie d x).recsOn p = s.recsOn p := by
  have none_ (y : Die) (h : y.absent p) : (y.recs.filter (fun q => q.2.st != 0 && (q.2.place? p).isSome)).map (·.2) = [] := by
    rw [List.map_eq_nil_iff, List.filter_eq_nil_iff]
    intro q inside
    rcases h q inside with free | out
    · simp [free]
    · simp [out]
  exact flatMap_tset ({} : Die) s.dies d x (fun q => (q.2.recs.filter (fun q => q.2.st != 0 && (q.2.place? p).isSome)).map (·.2)) (none_ x new) (none_ (s.die d) old)
/-- What the records of a die on a core are stands where neither the old nor the new ones have a place there. -/
theorem State.recsOn_modDie {f : Die → Die} {p : Nat} (new : (f (s.die d)).absent p) (old : (s.die d).absent p) : (s.modDie d f).recsOn p = s.recsOn p := State.recsOn_setDie new old
theorem State.room_of {t : State} {p : Nat} (gone : Rec → Bool) (recs : t.recsOn p = s.recsOn p) (core : t.core p = s.core p) (removed : t.removed p = s.removed p)
    (fenced : (t.die (p / 2)).wit.selfFenced = (s.die (p / 2)).wit.selfFenced) : t.room p gone = s.room p gone := by
  unfold State.room
  rw [recs, core, removed, fenced]

/-- The descriptor of a boot hart asks for one hart and for nothing else. -/
theorem bootDesc_need (r : Rec) (entry p : Nat) (free : r.places = []) (desc : r.desc = bootDesc d entry) : r.need p = { h := 1, q := 0, t := 0, sp := 0, gmin := 0, gmax := 0 } := by
  unfold Rec.need
  rw [free, desc]
  rfl
theorem Room.admits_one (m : Room) : m.admits { h := 1, q := 0, t := 0, sp := 0, gmin := 0, gmax := 0 } = (m.ok && decide (1 ≤ m.slots)) := by
  simp [Room.admits]

/-! The writes outside a boot. -/
theorem xltInv_of {b : Nat} {w : Word} (small : b < 16) (kind : fldN w 17 16 ≠ 3) (free : (s.die b).inv = none) :
    s.xltInv b w = (s.keepTlb b (fun t => !invalidates (fldN w 17 16) (fldN w 15 0) ((s.die b).invva.toNat * 65536) (fldN w 33 18) t)).modDie b (fun d => { d with inv := some w }) := by
  have idle : ¬(fldN w 17 16 = 3 ∨ (if b < 16 then (s.die b).inv.isSome else s.hub.inv.isSome) = true) := by
    rw [if_pos small, free]
    simpa using kind
  unfold State.xltInv
  rw [if_neg idle, if_pos small, if_pos small]
theorem xltInv_error {b : Nat} {w : Word} (small : b < 16) (no : fldN w 17 16 = 3 ∨ (s.die b).inv ≠ none) :
    s.xltInv b w = s.modDie b (fun d => { d with inverr := true }) := by
  have busy : fldN w 17 16 = 3 ∨ (if b < 16 then (s.die b).inv.isSome else s.hub.inv.isSome) = true := by
    rw [if_pos small]
    exact no.imp_right Option.isSome_iff_ne_none.2
  unfold State.xltInv
  rw [if_pos busy, if_pos small]
theorem invDone_hub (sent : s.pw.any (fun v => v.phase == 0) = false) (quiet : s.hub.qps.any (fun q => q.2.msgs.any (fun m => m.oks.isSome)) = false) :
    s.invDone 16 = s.modHub (fun h => { h with inv := none }) := by
  unfold State.invDone
  rw [if_neg (Bool.eq_false_iff.1 sent), if_neg (by decide), if_neg (Bool.eq_false_iff.1 quiet)]
theorem invDone_die {b : Nat} (sent : s.pw.any (fun v => v.phase == 0) = false) (small : b < 16) (engines : (s.die b).eng.all (fun q => q.2.cmds.isEmpty) = true)
    (cats : s.dies.all (fun x => x.2.cat.all (fun c => c.die != b)) = true) (away : (s.die b).catAway = [])
    (harts : ∀ p, p = 2 * b ∨ p = 2 * b + 1 → (s.core p).harts.all (fun q => (q.2.map (fun h => !h.remoteReq)).getD true) = true) :
    s.invDone b = ((s.modDie b (fun d => { d with inv := none })).modCore (2 * b) Core.performed).modCore (2 * b + 1) Core.performed := by
  have both : [2 * b, 2 * b + 1].all (fun p => (s.core p).harts.all (fun q => (q.2.map (fun h => !h.remoteReq)).getD true)) = true :=
    List.all_eq_true.2 fun p inside => harts p (by simpa using inside)
  unfold State.invDone
  rw [if_neg (Bool.eq_false_iff.1 sent), if_pos small, if_pos ⟨engines, cats, by rw [away]; rfl, both⟩]
theorem writeIlv_locked {w : Word} (lock : s.hub.ilvLock = true) : s.writeIlv w = s.modHub (fun h => { h with ilvErr := !w.getLsbD 1 }) := by
  exact congrArg (fun h : Hub => { s with hub := h }) (if_pos lock)
theorem writeIlv_open {w : Word} (free : s.hub.ilvLock = false) :
    s.writeIlv w = s.modHub (fun h => { h with ilvG := w.getLsbD 0, ilvErr := h.ilvErr && !w.getLsbD 1 }) := by
  exact congrArg (fun h : Hub => { s with hub := h }) (if_neg (Bool.eq_false_iff.1 free))
theorem writeBoot_same {w : Word} (no : w.getLsbD 0 = false ∨ s.hub.bootStage ≠ 0 ∨ ∃ q ∈ (s.die d).recs, q.2.st ≠ 0) :
    s.writeBoot d w = s.modDie d (fun x => { x with boot := (w &&& 0xFFFFFFFFFFFFFC#64) ||| ((s.die d).boot &&& 1#64) }) := by
  refine if_neg fun ⟨go, up, free⟩ => ?_
  rcases no with off | halted | ⟨q, inside, live⟩
  · exact Bool.eq_false_iff.1 off go
  · exact halted up
  · exact live (eq_of_beq (List.all_eq_true.1 free q inside))
theorem writeSched_frozen {w : Word} (freeze : w.getLsbD 0 = true) : s.writeSched d w = s.modDie d (fun x => { x with hold := w.getLsbD 1, freeze := true }) := by
  unfold State.writeSched
  rw [if_pos freeze, freeze]
theorem writeSched_thawed {w : Word} (thaw : w.getLsbD 0 = false) :
    s.writeSched d w = ((s.die d).recs.foldl (fun u q => if q.2.st = 2 then u.seeNote d q.2 else u) (s.modDie d (fun x => { x with hold := w.getLsbD 1, freeze := false }))).modDie d (fun x =>
      { x with recs := x.recs.map (fun q => (q.1, (s.modDie d (fun x => { x with hold := w.getLsbD 1, freeze := false })).evaluate d q.2)) }) := by
  unfold State.writeSched
  rw [if_neg (Bool.eq_false_iff.1 thaw), thaw]
theorem writeSaveStat_of {w : Word} (clear : w.getLsbD 0 = true) : s.writeSaveStat d w = s.modDie d (fun x =>
    { x with savestat := x.savestat &&& ~~~1#64, recs := x.recs.map (fun q => (q.1, { q.2 with save := { q.2.save with stalled := false }, growStalled := false })) }) := by
  unfold State.writeSaveStat
  rw [clear]
  rfl

/-! A boot (R101). -/
/-- The state in which a boot asks its core for room: `GO` set and the record made. -/
def State.booted (s : State) (d : Nat) (w : Word) : State :=
  let s1 := (s.modDie d (fun x => { x with boot := (w &&& 0xFFFFFFFFFFFFFC#64) ||| ((s.die d).boot &&& 1#64) })).modDie d (fun x => { x with boot := x.boot ||| 1#64 })
  s1.setGang d 0 { st := 3, gen := (s1.gang d 0).gen, handle := handleOf (s1.gang d 0).gen false d 0, desc := bootDesc d (fldN w 55 2), readyAt := s.cycle, byFw := true }
theorem writeBoot_go {w : Word} (go : w.getLsbD 0 = true) (up : s.hub.bootStage = 0) (free : ∀ q ∈ (s.die d).recs, q.2.st = 0) :
    s.writeBoot d w = if ((s.booted d w).room (2 * d) (fun _ => false)).admits (((s.booted d w).gang d 0).need (2 * d)) then (s.booted d w).place d 0 [2 * d] 0 else s.booted d w := by
  have all_ : (s.die d).recs.all (fun q => q.2.st == 0) = true := List.all_eq_true.2 fun q inside => beq_of_eq (free q inside)
  unfold State.writeBoot
  rw [if_pos ⟨go, up, all_⟩]
  unfold State.placeBoot State.booted
  rw [State.gang_setGang_same]
  rfl
theorem gang_booted (w : Word) : ((s.booted d w).gang d 0).st = 3 ∧ ((s.booted d w).gang d 0).places = [] ∧ ((s.booted d w).gang d 0).desc = bootDesc d (fldN w 55 2) := by
  unfold State.booted
  rw [State.gang_setGang_same]
  exact ⟨rfl, rfl, rfl⟩
theorem boot_booted (w : Word) : ((s.booted d w).die d).boot.getLsbD 0 = true := by
  unfold State.booted State.setGang
  simp only [State.die_modDie_same]
  simp
/-- A die whose slots are free has no record on a core, and neither has it with a record that was not placed. -/
theorem Die.absent_free {x : Die} {p : Nat} (free : ∀ q ∈ x.recs, q.2.st = 0) : x.absent p := fun q inside => Or.inl (free q inside)
theorem Die.absent_new {x : Die} {r : Rec} {i p : Nat} (free : ∀ q ∈ x.recs, q.2.st = 0) (place : r.places = []) : Die.absent { x with recs := tset x.recs i r } p := by
  intro q inside
  rcases mem_tset inside with rfl | old
  · exact Or.inr (by simp [Rec.place?, place])
  · exact Or.inl (free q old)
theorem room_booted (w : Word) (free : ∀ q ∈ (s.die d).recs, q.2.st = 0) : (s.booted d w).room (2 * d) (fun _ => false) = s.room (2 * d) (fun _ => false) := by
  have half : 2 * d / 2 = d := by omega
  unfold State.booted
  set s0 := s.modDie d (fun x => { x with boot := (w &&& 0xFFFFFFFFFFFFFC#64) ||| ((s.die d).boot &&& 1#64) }) with s0_def
  set s1 := s0.modDie d (fun x => { x with boot := x.boot ||| 1#64 }) with s1_def
  have free0 : ∀ q ∈ (s0.die d).recs, q.2.st = 0 := by rw [s0_def, State.die_modDie_same]; exact free
  have free1 : ∀ q ∈ (s1.die d).recs, q.2.st = 0 := by rw [s1_def, State.die_modDie_same]; exact free0
  refine State.room_of _ ?_ rfl rfl ?_
  · have made (r : Rec) (place : r.places = []) : (s1.setGang d 0 r).recsOn (2 * d) = s1.recsOn (2 * d) := State.recsOn_modDie (Die.absent_new free1 place) (Die.absent_free free1)
    have again : s1.recsOn (2 * d) = s0.recsOn (2 * d) := State.recsOn_modDie (Die.absent_free free0) (Die.absent_free free0)
    have first : s0.recsOn (2 * d) = s.recsOn (2 * d) := State.recsOn_modDie (Die.absent_free free) (Die.absent_free free)
    exact (made _ rfl).trans (again.trans first)
  · rw [half]
    unfold State.setGang
    rw [State.die_modDie_same, s1_def, State.die_modDie_same, s0_def, State.die_modDie_same]

/-- Settles O42: what a write of each device register leaves. -/
theorem registerEvents : Obligations.RegisterEvents := by
  constructor
  · intro s w b
    refine ⟨fun small kind free => (below_of _ (by omega)).trans (congrArg _ (xltInv_of small kind free)), fun small no => (below_of _ (by omega)).trans (congrArg _ (xltInv_error small no)),
      fun sent hub quiet => ?_, fun sent small engines cats away harts => (below_of _ (by omega)).trans (congrArg _ (invDone_die sent small engines cats away harts)),
      fun lock => congrArg Host.Outcome.next (writeIlv_locked lock), fun free => congrArg Host.Outcome.next (writeIlv_open free),
      fun small => (below_of _ (by omega)).trans (congrArg _ (if_pos small)), fun hub => (below_of _ (by omega)).trans (congrArg _ (if_neg (by omega))),
      fun small no => (below_of _ small).trans (congrArg _ (writeBoot_same no)), fun small freeze => (below_of _ small).trans (congrArg _ (writeSched_frozen freeze)),
      fun small thaw => (below_of _ small).trans (congrArg _ (writeSched_thawed thaw)), fun small clear => (below_of _ small).trans (congrArg _ (writeSaveStat_of clear)),
      fun small => ⟨below_of _ small, below_of _ small, below_of _ small⟩, fun small aligned => (below_of _ small).trans (congrArg _ (if_pos aligned)), fun write_ ok up => ?_, fun measure up => ?_,
      fun halted => congrArg Host.Outcome.next (if_pos ?_), fun read no s1 s2 => ?_⟩
    · have at16 : s.arg.blk = 16 := hub
      refine (below_of _ (by omega)).trans (congrArg _ ?_)
      rw [at16]
      exact invDone_hub sent quiet
    · refine congrArg Host.Outcome.next ((if_neg (by omega)).trans ((if_neg (Bool.eq_false_iff.1 write_)).trans (if_pos ok)))
    · exact congrArg Host.Outcome.next ((if_neg (by omega)).trans (if_pos measure))
    · exact halted.imp_right (Or.imp_right fun ⟨up, asked⟩ => ⟨asked, up⟩)
    · refine congrArg Host.Outcome.next ((if_neg ?_).trans ((if_neg (Bool.eq_false_iff.1 read)).trans (if_neg (Bool.eq_false_iff.1 no))))
      rintro (h | h | ⟨h | h, -⟩)
      · exact s1 h
      · exact s2 h
      · exact Bool.eq_false_iff.1 read h
      · exact Bool.eq_false_iff.1 no h
  · intro s small go up free m
    obtain ⟨st, places, desc⟩ := gang_booted (s := s) (d := s.arg.die) s.arg.w
    have admits : ((s.booted s.arg.die s.arg.w).room (2 * s.arg.die) (fun _ => false)).admits (((s.booted s.arg.die s.arg.w).gang s.arg.die 0).need (2 * s.arg.die)) = (m.ok && decide (1 ≤ m.slots)) := by
      rw [bootDesc_need _ _ _ places desc, room_booted _ free, Room.admits_one]
    refine ⟨_, (below_of _ small).trans (congrArg _ (writeBoot_go go up free)), ?_, fun ok room => ?_, fun full => ?_⟩
    · split
      · exact (congrArg (fun b : Word => b.getLsbD 0) (State.die_place Die.boot (fun _ _ => rfl) _ _ _ _ _ _)).trans (boot_booted _)
      · exact boot_booted _
    · rw [if_pos (by rw [admits]; exact Bool.and_eq_true_iff.2 ⟨ok, decide_eq_true (Nat.pos_of_ne_zero room)⟩), State.gang_place]
      exact ⟨rfl, State.placedRec_cores _ _ _ _ _⟩
    · rw [if_neg (by rw [admits]; rcases full with no | no <;> simp [no])]
      exact ⟨st, places⟩

end Sys2Proof.Machine
end

section
/-! The turns of the scheduler (R341 to R346). -/
namespace Sys2Proof.Machine
open Sys2Proof

variable {s : State} {d i : Nat}

/-! Taking a saved gang up again (R342). -/
/-- One core of a saved gang is taken again. -/
def State.resumeStep (r : Rec) (a : State × List Place) (q : Place) : State × List Place :=
  let (s1, pl) := a.1.takeCore r q.core (r.need q.core).gmin q.spbase
  (s1.modCore q.core (·.emptyClaims r.desc.qclaim r.desc.tclaim), a.2 ++ [pl])
theorem State.resumeSteps (r : Rec) (l : List Place) (a : State × List Place) :
    (l.foldl (State.resumeStep r) a).1.dies = a.1.dies ∧ (l.foldl (State.resumeStep r) a).2.map (·.core) = a.2.map (·.core) ++ l.map (·.core) := by
  induction l generalizing a with
  | nil => simp
  | cons q l ih =>
    obtain ⟨dies, cores⟩ := ih (State.resumeStep r a q)
    refine ⟨dies.trans rfl, cores.trans ?_⟩
    simp [State.resumeStep, State.takeCore]
/-- The record of a gang that is taken up again. -/
def State.resumedRec (s : State) (d i : Nat) : Rec :=
  let r := s.gang d i
  { r with st := 4, places := (r.places.foldl (State.resumeStep r) (s, [])).2, placedAt := s.cycle, save := { (r.save.begin true [] 0) with restore := true }
           g := r.places.foldl (fun n q => max n (r.need q.core).gmin) 0 }
/-- The hart that comes back at a place, stopped until it is restored. -/
def Rec.resumedHart (r : Rec) (d i : Nat) (q : Place × Nat) (p : Nat) : Hart :=
  { (((tget {} r.saved q.2).harts.find? (fun x => x.1 == p)).map (·.2)).getD (newHart d i r q.1.core q.2 p) with stopped := true }
theorem State.resume_eq (s : State) (d i : Nat) : s.resume d i =
    (s.resumedRec d i).places.zipIdx.foldl (fun t q => q.1.slots.zipIdx.foldl (fun t h => t.setHart q.1.core h.1 ((s.gang d i).resumedHart d i q h.2)) t)
      (((s.gang d i).places.foldl (State.resumeStep (s.gang d i)) (s, [])).1.setGang d i (s.resumedRec d i)) := rfl
theorem State.gang_resume (s : State) (d i : Nat) : (s.resume d i).gang d i = s.resumedRec d i := by
  rw [State.resume_eq]
  refine (State.gang_of_dies (State.setHarts_dies (fun q : Place × Nat => q.1.core) (fun q => q.1.slots.zipIdx) _ _ _) d i).trans ?_
  exact State.gang_setGang_same _ _ _ _
theorem State.resumedRec_cores (s : State) (d i : Nat) : (s.resumedRec d i).places.map (·.core) = (s.gang d i).places.map (·.core) :=
  (State.resumeSteps (s.gang d i) (s.gang d i).places (s, [])).2

/-! Reclaim (R345, R346). -/
theorem State.gang_suspend (runs : (s.gang d i).st = 5) :
    (s.suspend d i).gang d i = { s.gang d i with st := 6, markAt := [], save := (s.gang d i).save.toWhole } := by
  obtain ⟨-, -, dies, -⟩ := s.stopGang_frame d i
  unfold State.suspend State.modGang
  rw [if_neg (not_not_intro runs), State.gang_setGang_same, State.gang_of_dies dies]
theorem SaveSt.toWhole_active (v : SaveSt) : v.toWhole.active = true ∧ v.toWhole.whole = true := by
  unfold SaveSt.toWhole
  split
  · rename_i active
    exact ⟨active, rfl⟩
  · exact ⟨rfl, rfl⟩
section
variable {h : Rec} {cores : List Nat} (runs : (s.gang d i).st = 5)
theorem State.reclaimFrom_none (enough : ∀ q ∈ (cores.filter (fun p => ((s.gang d i).place? p).isSome)).map (s.lacks h), q.1 = false)
    (groups : ((cores.filter (fun p => ((s.gang d i).place? p).isSome)).map (s.lacks h)).foldl (fun n q => max n q.2) 0 = 0) : s.reclaimFrom h cores d i = s :=
  if_pos (Or.inr (Or.inr ⟨List.all_eq_true.2 fun q inside => by rw [enough q inside]; rfl, groups⟩))
include runs
theorem State.reclaimFrom_takes {l : List (Bool × Nat)} (some_ : l ≠ []) (same : l = (cores.filter (fun p => ((s.gang d i).place? p).isSome)).map (s.lacks h))
    (lacks : (∃ q ∈ l, q.1 = true) ∨ l.foldl (fun n q => max n q.2) 0 ≠ 0) :
    s.reclaimFrom h cores d i =
      if l.any (·.1) ∨ (if s.anyProt (s.gang d i) then (s.keeps (s.gang d i) - (s.gang d i).desc.gmin) / 2 * 2 else s.keeps (s.gang d i) - (s.gang d i).desc.gmin) < l.foldl (fun n q => max n q.2) 0
      then s.suspend d i
      else s.markGroups d i (if s.anyProt (s.gang d i) then (l.foldl (fun n q => max n q.2) 0 + 1) / 2 * 2 else l.foldl (fun n q => max n q.2) 0) := by
  subst same
  refine if_neg ?_
  rintro (no | other | ⟨enough, groups⟩)
  · exact some_ (by rw [List.isEmpty_iff.1 no]; rfl)
  · exact other runs
  · rcases lacks with ⟨q, inside, lack⟩ | more
    · have held := List.all_eq_true.1 enough q inside
      rw [lack] at held
      exact Bool.noConfusion held
    · exact more groups
end

/-! Marks of groups (R345). -/
/-- A change of each of a list's cores, no two the same, is at each of them its own. -/
theorem State.core_modCores (f : Place → Core → Core) (l : List Place) (apart : (l.map (·.core)).Nodup) (s : State) (p : Nat) :
    (∀ q ∈ l, q.core = p → (l.foldl (fun t q => t.modCore q.core (f q)) s).core p = f q (s.core p)) ∧ (p ∉ l.map (·.core) → (l.foldl (fun t q => t.modCore q.core (f q)) s).core p = s.core p) := by
  induction l generalizing s with
  | nil => exact ⟨fun q no => absurd no (by simp), fun _ => rfl⟩
  | cons a l ih =>
    rw [List.map_cons, List.nodup_cons] at apart
    obtain ⟨at_, out⟩ := ih apart.2 (s.modCore a.core (f a))
    refine ⟨fun q inside here => ?_, fun no => ?_⟩
    · rcases List.mem_cons.1 inside with rfl | inside
      · subst here
        exact (out apart.1).trans (State.core_modCore_same _ _ _)
      · have other : p ≠ a.core := fun same => apart.1 (same ▸ here ▸ List.mem_map_of_mem inside)
        refine (at_ q inside here).trans (congrArg (f q) ?_)
        rw [State.core_modCore, if_neg other]
    · rw [List.map_cons, List.mem_cons, not_or] at no
      refine (out no.2).trans ?_
      rw [State.core_modCore, if_neg no.1]
/-- The marks of a record, with one at a cycle for each core of a list that has none. -/
def addMarks (cycle : Nat) (places : List Place) (l : List (Nat × Nat)) : List (Nat × Nat) :=
  places.foldl (fun l q => if l.any (fun m => m.1 == q.core) then l else l ++ [(q.core, cycle)]) l
theorem addMarks_keeps (cycle : Nat) (places : List Place) (l : List (Nat × Nat)) {m : Nat × Nat} (inside : m ∈ l) : m ∈ addMarks cycle places l :=
  foldl_keeps (m ∈ ·) _ places l inside fun l q _ inside => by
    split
    · exact inside
    · exact List.mem_append_left _ inside
theorem addMarks_new (cycle : Nat) (places : List Place) (l : List (Nat × Nat)) {q : Place} (inside : q ∈ places) (none_ : ∀ m ∈ l, m.1 ≠ q.core) :
    (q.core, cycle) ∈ addMarks cycle places l := by
  induction places generalizing l with
  | nil => simp at inside
  | cons a rest ih =>
    have first : addMarks cycle (a :: rest) l = addMarks cycle rest (if l.any (fun m => m.1 == a.core) then l else l ++ [(a.core, cycle)]) := rfl
    rw [first]
    by_cases here : a.core = q.core
    · have fresh : ¬ l.any (fun m => m.1 == a.core) = true := fun any => by
        obtain ⟨m, mem, same⟩ := List.any_eq_true.1 any
        exact none_ m mem ((eq_of_beq same).trans here)
      rw [if_neg fresh]
      exact addMarks_keeps cycle rest _ (by rw [here]; simp)
    · refine ih _ ((List.mem_cons.1 inside).resolve_left fun same => here (by rw [same])) fun m mem => ?_
      split at mem
      · exact none_ m mem
      · rcases List.mem_append.1 mem with old | new
        · exact none_ m old
        · rw [List.mem_singleton.1 new]
          exact here
/-- A core with its n highest groups of an index that are not marked marked. -/
def Core.markHighest (n : Nat) (q : Place) (c : Core) : Core :=
  { c with lat := ((c.unmarked q.rgi).drop ((c.unmarked q.rgi).length - n)).foldl (fun l g => latSetPend l g true) c.lat }
theorem State.markGroups_eq (s : State) (d i n : Nat) : s.markGroups d i n =
    ((s.gang d i).places.foldl (fun t q => t.modCore q.core (Core.markHighest n q)) s).modGang d i (fun r => { r with markAt := addMarks s.cycle r.places r.markAt }) := rfl
theorem State.gang_markGroups (s : State) (d i n : Nat) : ((s.markGroups d i n).gang d i).markAt = addMarks s.cycle (s.gang d i).places (s.gang d i).markAt := by
  have dies : ((s.gang d i).places.foldl (fun t q => t.modCore q.core (Core.markHighest n q)) s).dies = s.dies := foldl_same State.dies _ _ s fun _ _ _ => rfl
  rw [State.markGroups_eq]
  unfold State.modGang
  rw [State.gang_setGang_same, State.gang_of_dies dies]

/-- Settles O44: placing, taking up again, reclaiming, marking and the time limit of marks. -/
theorem schedulerTurns : Obligations.SchedulerTurns := by
  refine ⟨?_, ?_, ?_⟩
  · intro s small d i r x b victims order placed back gone
    refine ⟨fun turn fresh => ?_, fun turn saved => ?_, fun head alive => ?_, fun runs alive late => ?_⟩
    · obtain ⟨found, turn⟩ := Option.isSome_iff_exists.1 turn
      have empty : (s.gang s.arg.die s.arg.idx).places.isEmpty = true := List.isEmpty_iff.2 fresh
      have x_eq : x = found := by simp only [x, d, i, turn]; rfl
      have rec_ : placed.gang d i = s.placedRec d i x.1 x.2 := State.gang_place s d i x.1 x.2
      refine ⟨(below_of _ small).trans ?_, ?_⟩
      · rw [turn]
        simp only [placed, x_eq, empty, if_pos]
        rfl
      · rw [rec_]
        exact ⟨rfl, State.placedRec_cores _ _ _ _ _, rfl, rfl⟩
    · obtain ⟨found, turn⟩ := Option.isSome_iff_exists.1 turn
      have places : ¬ (s.gang s.arg.die s.arg.idx).places.isEmpty = true := fun empty => saved (List.isEmpty_iff.1 empty)
      have rec_ : back.gang d i = s.resumedRec d i := State.gang_resume s d i
      refine ⟨(below_of _ small).trans ?_, ?_⟩
      · rw [turn]
        exact congrArg _ (if_neg places)
      · rw [rec_]
        exact ⟨rfl, State.resumedRec_cores _ _ _, rfl, rfl⟩
    · obtain ⟨found, head⟩ := Option.isSome_iff_exists.1 head
      have b_eq : b = found := by simp only [b, d, head]; rfl
      refine (below_of _ small).trans (congrArg _ ?_)
      unfold State.reclaim
      rw [if_neg (Bool.eq_false_iff.1 alive), head]
      simp only [order, victims, b_eq]
    · obtain ⟨m, inside, old⟩ := late
      have any : (s.gang s.arg.die s.arg.idx).markAt.any (fun m => decide (m.2 + 8192 ≤ s.cycle)) = true := List.any_eq_true.2 ⟨m, inside, decide_eq_true old⟩
      refine ⟨(below_of _ small).trans (congrArg _ (if_pos ⟨by rw [alive]; rfl, runs, any⟩)), ?_⟩
      rw [show gone.gang d i = _ from State.gang_suspend runs]
      exact ⟨rfl, rfl, SaveSt.toWhole_active _⟩
  · intro s h cores d i v l want can runs
    refine ⟨State.reclaimFrom_none, fun some_ no => ?_, fun some_ enough groups fit => ?_⟩
    · refine (State.reclaimFrom_takes runs some_ rfl (no.imp_right And.left)).trans (if_pos (no.imp ?_ And.right))
      exact fun ⟨q, inside, lack⟩ => List.any_eq_true.2 ⟨q, inside, lack⟩
    · refine (State.reclaimFrom_takes runs some_ rfl (Or.inr groups)).trans (if_neg ?_)
      rintro (any | less)
      · obtain ⟨q, inside, lack⟩ := List.any_eq_true.1 any
        rw [enough q inside] at lack
        exact Bool.noConfusion lack
      · exact Nat.not_lt.2 fit less
  · intro s d i n q v own t inside apart
    have marks : (t.gang d i).markAt = addMarks s.cycle v.places v.markAt := State.gang_markGroups s d i n
    have core : t.core q.core = Core.markHighest n q (s.core q.core) := (State.core_modCores (Core.markHighest n) v.places apart s q.core).1 q inside rfl
    rw [marks, core]
    exact ⟨rfl, fun m old _ => addMarks_keeps _ _ _ old, fun none_ => addMarks_new _ _ _ inside none_⟩

end Sys2Proof.Machine
end

section
/-! Events of the scheduler and of saves (R317, R335, R345, R349, R389 to R397). -/
namespace Sys2Proof.Machine
open Sys2Proof

variable {s : State} {d i : Nat}

/-! A blocked head (R345). -/
theorem State.suspend_rest (s : State) (d i : Nat) : (s.suspend d i).mem = s.mem ∧ (s.suspend d i).pw = s.pw ∧ (s.suspend d i).hub = s.hub := by
  obtain ⟨mem, pw, -, hub, -⟩ := s.stopGang_frame d i
  unfold State.suspend
  split
  · exact ⟨rfl, rfl, rfl⟩
  · exact ⟨mem, pw, hub⟩
theorem State.markGroups_rest (s : State) (d i n : Nat) : (s.markGroups d i n).mem = s.mem ∧ (s.markGroups d i n).pw = s.pw ∧ (s.markGroups d i n).hub = s.hub := by
  rw [State.markGroups_eq]
  exact ⟨foldl_same State.mem _ _ s fun _ _ _ => rfl, foldl_same State.pw _ _ s fun _ _ _ => rfl, foldl_same State.hub _ _ s fun _ _ _ => rfl⟩
/-- A victim keeps what it has, is suspended, or has groups marked. -/
theorem State.reclaimFrom_cases (s : State) (h : Rec) (cores : List Nat) (d i : Nat) :
    s.reclaimFrom h cores d i = s ∨ s.reclaimFrom h cores d i = s.suspend d i ∨ ∃ n, s.reclaimFrom h cores d i = s.markGroups d i n := by
  unfold State.reclaimFrom
  dsimp only
  exact (ite_eq_or_eq _ _ _).imp_right fun e => (ite_eq_or_eq _ _ _).imp e.trans fun e2 => ⟨_, e.trans e2⟩
/-- Reclaiming from a victim leaves memory, the writes under way and the hub. -/
theorem State.reclaimFrom_rest (s : State) (h : Rec) (cores : List Nat) (d i : Nat) :
    (s.reclaimFrom h cores d i).mem = s.mem ∧ (s.reclaimFrom h cores d i).pw = s.pw ∧ (s.reclaimFrom h cores d i).hub = s.hub := by
  rcases s.reclaimFrom_cases h cores d i with e | e | ⟨n, e⟩ <;> rw [e]
  · exact ⟨rfl, rfl, rfl⟩
  · exact s.suspend_rest d i
  · exact s.markGroups_rest d i n
theorem State.reclaim_none (none_ : s.blockedHead d = none) : s.reclaim d = s := by
  unfold State.reclaim
  rw [none_]
  split <;> rename_i found
  · rfl
  · split at found <;> exact absurd found (by simp)
theorem State.reclaim_rest (s : State) (d : Nat) : (s.reclaim d).mem = s.mem ∧ (s.reclaim d).pw = s.pw ∧ (s.reclaim d).hub = s.hub := by
  unfold State.reclaim
  split
  · exact ⟨rfl, rfl, rfl⟩
  · exact ⟨foldl_same State.mem _ _ s fun t v _ => (t.reclaimFrom_rest _ _ v.1 v.2.1).1, foldl_same State.pw _ _ s fun t v _ => (t.reclaimFrom_rest _ _ v.1 v.2.1).2.1,
      foldl_same State.hub _ _ s fun t v _ => (t.reclaimFrom_rest _ _ v.1 v.2.1).2.2⟩

/-! The release of marked groups (R317). -/
theorem SaveSt.begin_groups (v : SaveSt) (l : List Nat) (c : Nat) : v.begin false l c =
    { v with active := true, whole := false, restore := false, done := false, core := c, sec := if v.headed.contains c then 6 else 0, nm := if v.headed.contains c then l.headD 0 else 0
             nb := 0, groups := l, stalled := false, first := 0, prog := (0, 0, 0), round := false, begun := false } := by
  unfold SaveSt.begin
  cases v.headed.contains c <;> rfl
/-- Whether a gang's harts on a core have agreed to a release that no slot in flight holds back. -/
def State.releasable (s : State) (r : Rec) (q : Place × Nat) : Bool :=
  !(tget [] r.agreed q.1.core).isEmpty && (s.core q.1.core).flight.all (fun f => !q.1.slots.contains f.slot || f.groups.all (fun g => !(tget [] r.agreed q.1.core).contains g))
theorem groupRelease_of (small : s.arg.die < 16) (runs : (s.gang s.arg.die s.arg.idx).st = 5) (idle : (s.gang s.arg.die s.arg.idx).save.active = false) (alive : s.dead s.arg.die = false)
    (ready : ∃ q ∈ (s.gang s.arg.die s.arg.idx).places.zipIdx, s.releasable (s.gang s.arg.die s.arg.idx) q = true) :
    ∃ q, (s.gang s.arg.die s.arg.idx).places.zipIdx.find? (s.releasable (s.gang s.arg.die s.arg.idx)) = some q ∧
      execGroupRelease s = .next (s.setGang s.arg.die s.arg.idx { s.gang s.arg.die s.arg.idx with
        save := (s.gang s.arg.die s.arg.idx).save.begin false (s.agreedNumbers (s.gang s.arg.die s.arg.idx) q.1) q.2 }) := by
  obtain ⟨q, found⟩ := Option.isSome_iff_exists.1 (List.find?_isSome.2 ready)
  refine ⟨q, found, (below_of _ small).trans ?_⟩
  have head : (s.gang s.arg.die s.arg.idx).places.zipIdx.find? (fun q => !(tget [] (s.gang s.arg.die s.arg.idx).agreed q.1.core).isEmpty &&
      (s.core q.1.core).flight.all (fun f => !q.1.slots.contains f.slot || f.groups.all (fun g => !(tget [] (s.gang s.arg.die s.arg.idx).agreed q.1.core).contains g))) = some q := found
  simp only [head]
  rw [if_pos ⟨runs, by rw [idle]; rfl, by rw [alive]; rfl⟩]

/-! The end of a gang (R349). -/
theorem State.bytesLeft_none {r : Rec} (drained : r.save.restore = false → ∀ q ∈ s.hartsOf r, q.2.2.drained 3 = true) (kept : ∀ q ∈ r.keptPbc, tget 0 q.2 3 = 0) : s.bytesLeft r = false := by
  refine Bool.or_eq_false_iff.2 ⟨?_, List.any_eq_false.2 fun q inside => by rw [kept q inside]; decide⟩
  cases restore : r.save.restore
  · exact List.any_eq_false.2 fun q inside => by rw [drained restore q inside]; decide
  · rfl
theorem gangEnd_of {r : Rec} (small : s.arg.die < 16) (same : s.gang s.arg.die s.arg.idx = r) (ends : r.st = 7) (alive : s.dead s.arg.die = false) (quiet : s.gangQuiet r = true)
    (left : s.bytesLeft r = false) (free : s.endWaits s.arg.die r = false) (room : (s.die s.arg.die).fullAt ≠ some s.cycle) :
    execGangEnd s = .next (((r.places.foldl (fun s q => s.releaseCore r q) (s.dropSem r)).endWord s.arg.die r (r.endStatus.getD 0)).freeRec s.arg.die s.arg.idx) := by
  subst same
  refine (below_of _ small).trans (congrArg _ (if_neg ?_))
  rintro (st | dead | noise | bytes | waits | full)
  · exact st ends
  · exact Bool.eq_false_iff.1 alive dead
  · rw [quiet] at noise
    exact Bool.noConfusion noise
  · exact Bool.eq_false_iff.1 left bytes
  · exact Bool.eq_false_iff.1 free waits
  · exact room full

/-! One unit of a save or of a restore (R389, R396, R397). -/
theorem State.saveUnit_none (no : (s.gang d i).save.active = false ∨ (s.gang d i).save.stalled = true ∨ s.dead d = true) : s.saveUnit d i = s := by
  refine if_pos ?_
  rcases no with no | no | no <;> simp [no]
section
variable (active : (s.gang d i).save.active = true) (runs : (s.gang d i).save.stalled = false) (alive : s.dead d = false)
include active runs alive
theorem State.saveUnit_of : s.saveUnit d i = if (s.gang d i).save.restore then s.restoreStep d i
    else if (s.gang d i).save.whole && !(s.gang d i).save.begun then
      if !s.gangQuiet (s.gang d i) then s else ((s.startSave d i).modGang d i (fun r => { r with save := { r.save with begun := true } })).saveStep d i
    else s.saveStep d i := if_neg (by rw [active, runs, alive]; decide)
theorem State.saveUnit_step (saves : (s.gang d i).save.restore = false) (begun : (s.gang d i).save.whole = true → (s.gang d i).save.begun = true) : s.saveUnit d i = s.saveStep d i := by
  rw [State.saveUnit_of active runs alive, if_neg (Bool.eq_false_iff.1 saves)]
  refine if_neg fun starts => ?_
  obtain ⟨whole, fresh⟩ := (Bool.and_eq_true _ _).mp starts
  rw [begun whole] at fresh
  exact Bool.noConfusion fresh
theorem State.saveUnit_start (saves : (s.gang d i).save.restore = false) (whole : (s.gang d i).save.whole = true) (fresh : (s.gang d i).save.begun = false) :
    s.saveUnit d i = if !s.gangQuiet (s.gang d i) then s else ((s.startSave d i).modGang d i (fun r => { r with save := { r.save with begun := true } })).saveStep d i := by
  rw [State.saveUnit_of active runs alive, if_neg (Bool.eq_false_iff.1 saves)]
  exact if_pos (by rw [whole, fresh]; rfl)
end
/-- What one unit of a save outside the grid and the Colophon cells lays down, the progress word with it. -/
def State.laidUnit (s : State) (d i : Nat) (r : Rec) (q : Place) : State × Option (VAddr × XFault) :=
  let n := r.save.next ((s.core q.core).groups q.rgi).length r.places.length
  s.areaPut d (s.sliceVa d i r.save.core) (small (s.unitWrites r r.save r.save.core q) ++ [(0, leBytes 8 (progWord { n with done := n.done || n.core != r.save.core }))])
section
variable {r : Rec} {q : Place} (same : s.gang d i = r) (place : r.places[r.save.core]? = some q) (grid : r.save.sec ≠ 6) (colo : r.save.sec ≠ 7)
  (more : (r.save.next ((s.core q.core).groups q.rgi).length r.places.length).done = false)
include same place grid
theorem State.saveStep_of : s.saveStep d i = match s.laidUnit d i r q with
    | (s1, some x) => s1.areaFault d i x
    | (s1, none) =>
      let r1 := if r.save.sec = 7 ∧ r.save.nm < ((s.core q.core).groups q.rgi).length ∧ ¬ r.unrestored.contains (r.save.core, r.save.nm) then s1.keepColo r r.save.core r.save.nm q else r
      let s2 := s1.drawn.setGang d i { r1 with save := r.save.next ((s.core q.core).groups q.rgi).length r.places.length }
      if (r.save.next ((s.core q.core).groups q.rgi).length r.places.length).done then (if r.save.whole then s2.saveDone d i else s2.passGroups d i q) else s2 := by
  subst same
  have clean : ((s.gang d i).save.sec == 6) = false := beq_eq_false_iff_ne.2 grid
  unfold State.saveStep State.laidUnit
  simp only [place, clean, Bool.false_and, Bool.false_eq_true, if_false, List.append_nil] <;> rfl
theorem State.saveStep_fault {x : VAddr × XFault} (laid : (s.laidUnit d i r q).2 = some x) : s.saveStep d i = (s.laidUnit d i r q).1.areaFault d i x := by
  rw [State.saveStep_of same place grid, show s.laidUnit d i r q = ((s.laidUnit d i r q).1, some x) from Prod.ext rfl laid]
include colo more
theorem State.saveStep_laid (laid : (s.laidUnit d i r q).2 = none) :
    s.saveStep d i = (s.laidUnit d i r q).1.drawn.setGang d i { r with save := r.save.next ((s.core q.core).groups q.rgi).length r.places.length } := by
  rw [State.saveStep_of same place grid, show s.laidUnit d i r q = ((s.laidUnit d i r q).1, none) from Prod.ext rfl laid]
  simp only [more, Bool.false_eq_true, if_false, colo, false_and]
end

/-- Settles O43: reclaiming for a blocked head, notify words, releases, ends of gangs, and the units of saves and restores. -/
theorem schedulerEvents : Obligations.SchedulerEvents := by
  constructor
  · intro s small d i r
    refine ⟨fun none_ => (below_of _ small).trans (congrArg _ (State.reclaim_none none_)), fun h cores head => ⟨_, below_of _ small, s.reclaim_rest _⟩, below_of _ small, ?_, ?_,
      fun ends alive quiet waits room drained kept => gangEnd_of small rfl ends alive quiet (State.bytesLeft_none drained kept) waits room⟩
    · have same : execNotifyPoll s = execNotifyEvaluate s := rfl
      exact same
    · intro gone free first marked headed runs idle alive ready
      obtain ⟨q, found, ends⟩ := groupRelease_of small runs idle alive ready
      have first_eq : first = q := congrArg (fun o : Option (Place × Nat) => o.getD ({}, 0)) found
      refine (ends : execGroupRelease s = _).trans ?_
      rw [SaveSt.begin_groups, ← first_eq]
      rfl
  · intro s small d i r v
    refine ⟨fun no => (below_of _ small).trans (congrArg _ (State.saveUnit_none no)), fun active runs alive restores => (below_of _ small).trans (congrArg _ ?_),
      fun active runs alive saves begun => (below_of _ small).trans (congrArg _ (State.saveUnit_step active runs alive saves begun)), ?_,
      fun active runs alive saves whole fresh quiet => (below_of _ small).trans (congrArg _ ?_), fun active runs saves whole fresh noise => (below_of _ small).trans (congrArg _ ?_)⟩
    · exact (State.saveUnit_of active runs alive).trans (if_pos restores)
    · intro q n laid active runs alive saves begun inside grid colo more
      have place : r.places[r.save.core]? = some q := by
        simp only [q, v, List.getElem?_eq_getElem inside, Option.getD_some]
      have step : exec .saveUnit s = .next (s.saveStep d i) := (below_of _ small).trans (congrArg _ (State.saveUnit_step active runs alive saves begun))
      rw [step]
      exact ⟨fun none_ => congrArg _ (State.saveStep_laid rfl place grid colo more none_), fun x fault => congrArg _ (State.saveStep_fault rfl place grid fault)⟩
    · exact (State.saveUnit_start active runs alive saves whole fresh).trans (if_neg (by rw [quiet]; decide))
    · cases alive : s.dead d
      · exact (State.saveUnit_start active runs alive saves whole fresh).trans (if_pos (by rw [noise]; decide))
      · exact State.saveUnit_none (Or.inr (Or.inr alive))

end Sys2Proof.Machine
end

section
/-! Taking a packet up, and the tokens of packets that have drained (R47, R49, R53, R58, R203). -/
namespace Sys2Proof.Machine
open Sys2Proof

variable {s : State} {p i : Nat} {h : Hart}

/-- A hart that owes nothing, waits for nothing and runs no stored packet takes up the packet at its program counter. -/
theorem State.openNext_fetches (hart : s.hart? p i = some h) (fresh : h.exited = false) (timely : s.overdue p = false) (pend : h.pend = 0) (vpend : h.vpend = none) (own : s.arg.ok = false)
    (runs : h.stopped = false) (owed : h.owed = []) (stall : h.stall29 = []) (re : h.reNow = 0) (tile : h.tileNow = none) (carrel : h.handler = true ∨ h.carrel.st ≠ .replaying) :
    s.openNext p i = s.openFetched p i h := by
  have program : ¬ (!h.handler ∧ h.carrel.st = .replaying) := by
    rintro ⟨user, replays⟩
    rcases carrel with handler | other
    · rw [handler] at user
      exact Bool.noConfusion user
    · exact other replays
  unfold State.openNext
  simp only [hart, timely, vpend, fresh, own, pend, runs, owed, stall, re, tile, State.asleep, List.isEmpty_nil, Option.isSome_none]
  simpa using fun user replays => absurd ⟨by simpa using user, replays⟩ program
theorem State.openFetched_of {s1 : State} {k : Packet} (fetched : s.fetch p i h = (s1, .ok k)) (sound : s1.checkPacket p i h k = none)
    (may : s1.mayIssue p i h k.hdr false (k.all h.held) = true) :
    s.openFetched p i h = .go (s1.openWith p i { h with opnd := h.regs, octrl := h.ctrl } (k.all h.held) (k.repeats h.held) k.hdr h.pc (h.pc + BitVec.ofNat 80 (packetLen k.hdr)) false false) := by
  unfold State.openFetched
  simp only [fetched, sound, may, Bool.not_true, Bool.false_eq_true, if_false]
  rfl
theorem packetIssue_go {t : State} (core : s.arg.core < 32) (slot : s.arg.slot < 8) (taken : s.openNext s.arg.core s.arg.slot = .go t) : execPacketIssue s = .next t := by
  refine (below_of _ core).trans (congrArg _ ((if_pos slot).trans ?_))
  unfold State.issuePacket
  rw [taken]

/-- A token place of which nothing is in flight and no register write is still to come has drained. -/
theorem State.drainedOf_of {t : TokPlace} (flight : ∀ g ∈ (s.core p).flight, g.slot = i → g.id < t.lo ∨ t.hi ≤ g.id) (accs : ∀ n ∈ h.accs, n < t.lo ∨ t.hi ≤ n) (due : t.due ≤ s.cycle) :
    s.drainedOf p i h t = true := by
  have other {n : Nat} (out : n < t.lo ∨ t.hi ≤ n) : (decide (t.lo ≤ n) && decide (n < t.hi)) = false := by
    rcases out with low | high
    · simp [Nat.not_le.2 low]
    · simp [Nat.not_lt.2 high]
  unfold State.drainedOf
  simp only [Bool.and_eq_true, List.all_eq_true, decide_eq_true_eq]
  refine ⟨⟨fun g inside => ?_, fun n inside => by rw [other (accs n inside)]; rfl⟩, due⟩
  by_cases own : g.slot = i
  · rw [other (flight g inside own)]
    simp
  · simp [own]
/-- The first place that is ready is taken out of a list, and the others stay. -/
theorem find_erase_of {α : Type} [DecidableEq α] {f : α → Bool} {a r : List α} {t : α} (before : ∀ u ∈ a, f u = false) (ready : f t = true) :
    (a ++ t :: r).find? f = some t ∧ (a ++ t :: r).erase t = a ++ r := by
  have fresh : t ∉ a := fun inside => by
    rw [before t inside] at ready
    exact Bool.noConfusion ready
  refine ⟨?_, ?_⟩
  · rw [List.find?_append, List.find?_eq_none.2 fun u inside => Bool.eq_false_iff.1 (before u inside), List.find?_cons_of_pos ready]
    rfl
  · rw [List.erase_append_right _ fresh, List.erase_cons_head]
theorem State.retire_of {t : TokPlace} {a r : List TokPlace} (hart : s.hart? p i = some h) (tokens : h.tokens = a ++ t :: r) (before : ∀ u ∈ a, s.drainedOf p i h u = false ∨ s.slotWaits p i h u = true)
    (drained : s.drainedOf p i h t = true) (retired : s.slotWaits p i h t = false) : s.retire p i = (s.setHart p i { h with tokens := a ++ r }).modFifo p t.fifo (·.fill s.cycle) := by
  obtain ⟨found, rest⟩ := find_erase_of (f := fun t => s.drainedOf p i h t && !s.slotWaits p i h t) (a := a) (r := r) (t := t)
    (fun u inside => by rcases before u inside with no | no <;> simp [no]) (by simp [drained, retired])
  unfold State.retire
  simp only [hart, tokens, found, rest]

/-- Settles O38: PACKET_ISSUE takes a packet up that nothing stops or holds, and PACKET_RETIRE makes the token of the first that has drained. -/
theorem packetIssueAndRetire : Obligations.PacketIssueAndRetire := by
  intro s h core hart p i
  refine ⟨fun s1 k slot fresh timely pend vpend own runs owed stall re tile carrel fetched sound may => ?_, fun a t r tokens before flight accs due retired => ?_⟩
  · exact packetIssue_go core slot ((State.openNext_fetches hart fresh timely pend vpend own runs owed stall re tile carrel).trans (State.openFetched_of fetched sound may))
  · exact (below_of _ core).trans (congrArg _ (State.retire_of hart tokens before (State.drainedOf_of flight accs due) retired))

end Sys2Proof.Machine
end

section
/-! One step of the package (log 3), and the packet that it takes up (R47, R49, R379). -/
namespace Sys2Proof.Machine
open Sys2Proof

variable {s : State} {a : Arg} {i : Instr} {r : List (Arg × Instr)}

/-! The agenda. -/
theorem step_empty (done : s.agenda = []) : step s = .next { s with agenda := s.round } := by
  unfold step
  rw [done]
theorem step_slot (next_ : s.agenda = (a, i) :: r) (slot : i.cls ≠ none) : step s = .next { s with arg := a, agenda := r } := by
  unfold step
  rw [next_]
  exact if_pos (by rw [Option.isSome_iff_ne_none.2 slot]; rfl)
theorem step_early (next_ : s.agenda = (a, i) :: r) (tick : isTick i = true) (must : ({ s with arg := a, agenda := r } : State).mustIssue exec = true) :
    step s = .next { s with arg := a, agenda := r } := by
  unfold step
  rw [next_]
  exact if_pos (by rw [tick, must]; cases i.cls.isSome <;> rfl)
theorem step_event (next_ : s.agenda = (a, i) :: r) (event : i.cls = none) (due : isTick i = false ∨ ({ s with arg := a, agenda := r } : State).mustIssue exec = false) :
    step s = match exec i { s with arg := a, agenda := r } with
      | .next t => if t.issue.active then carryOut exec t else .next t
      | .fault f => .fault f
      | .refused f => .refused f := by
  have stays : (isTick i && ({ s with arg := a, agenda := r } : State).mustIssue exec) = false := by
    rcases due with no | no
    · rw [no]; rfl
    · rw [no, Bool.and_false]
  unfold step
  rw [next_]
  exact if_neg (by rw [event, stays]; decide)

/-! The packet that is taken up. -/
theorem decodeSlot_error {c : Cls} {w : Word} {n : Nat} (bad : decodeSlot c w = .error n) : n = 1 ∨ n = 2 ∨ n = 3 := by
  unfold decodeSlot at bad
  split at bad
  · exact Or.inl (Except.error.inj bad).symm
  · split at bad
    · exact Or.inr (Or.inl (Except.error.inj bad).symm)
    · split at bad
      · exact Or.inr (Or.inr (Except.error.inj bad).symm)
      · exact absurd bad (by simp)
/-- Slots without a decode fault decode (R76). -/
theorem decodeSlot_of_sound {l : List Slot} (sound : decodeFault l = none) {q : Slot} (inside : q ∈ l) : ∃ j, decodeSlot q.1 q.2 = .ok j := by
  cases word : decodeSlot q.1 q.2 with
  | ok j => exact ⟨j, rfl⟩
  | error n =>
    have free := List.findSome?_eq_none_iff.1 sound n (by rcases decodeSlot_error word with rfl | rfl | rfl <;> decide)
    have none_ := List.find?_eq_none.1 (Option.map_eq_none_iff.1 free) q inside
    exact absurd (by simp only [word]; exact beq_self_eq_true n) none_
theorem State.checkPacket_decodes {p j : Nat} {h : Hart} {k : Packet} (sound : s.checkPacket p j h k = none) : decodeFault k.present = none := by
  unfold State.checkPacket at sound
  split at sound
  · exact absurd sound (by simp)
  · split at sound
    · exact absurd sound (by simp)
    · split at sound
      · exact absurd sound (by simp)
      · assumption
theorem mem_runOrder {l : List Slot} {q : Slot} {j : Instr} (inside : q ∈ l) (word : decodeSlot q.1 q.2 = .ok j) : j ∈ runOrder l := by
  refine List.mem_filterMap.2 ⟨q, ?_, by rw [word]; rfl⟩
  rw [List.mem_append, List.mem_filter, List.mem_filter]
  cases q.1 == Cls.S && opOf q.2 == 0xE1
  · exact Or.inl ⟨inside, rfl⟩
  · exact Or.inr ⟨inside, rfl⟩
theorem Packet.mem_all {k : Packet} {held : Tbl Word} {q : Slot} (inside : q ∈ k.present) : q ∈ k.all held :=
  List.mem_flatMap.2 ⟨q.1, by cases q.1 <;> decide, List.mem_filter.2 ⟨List.mem_append_left _ inside, beq_self_eq_true q.1⟩⟩
theorem filter_parts_one {α : Type} (f : α → Bool) (q : α) : [q].filter (fun x => !f x) ++ [q].filter f = [q] := by
  cases kept : f q <;> simp [kept]
theorem runOrder_one {c : Cls} {w : Word} {j : Instr} (word : decodeSlot c w = .ok j) : runOrder [(c, w)] = [j] := by
  unfold runOrder decoded
  rw [filter_parts_one (fun q : Slot => q.1 == .S && opOf q.2 == 0xE1) (c, w)]
  simp [word, Except.toOption]
theorem runSlots_one {ex : Instr → State → Out} {j : Instr} {t u : State} (runs : ex j t = .next u) : runSlots ex [j] t = .next u := by
  unfold runSlots
  rw [runs]
  rfl

/-! What becomes of it. -/
section
variable {ex : Instr → State → Out} {t u : State} {g : Hart} (pend : g.pend = 0) (whole : t.issue.vec = false) (ran : runSlots ex t.issue.slots t.record = .next u)
  (wait : u.issue.wait = false) (late : u.issue.late = none) (early : earlyFault ex t g = none) (regs : t.regsLate g = none)
include pend whole ran wait late early regs
theorem judge_ran : judge ex t g = match u.issue.raised with | some x => .traps (t.trapAll u.issue.walk x) | none => .issues (t.finish u g) := by
  unfold judge
  simp only [ran, pend, whole, wait, late, early, regs]
  simp <;> rfl
theorem carryOut_traps {x : TrapReq} (cur : t.cur = some g) (raised : u.issue.raised = some x) : carryOut ex t = .next (t.trapAll u.issue.walk x) := by
  unfold carryOut
  rw [cur]
  simp only [judge_ran pend whole ran wait late early regs, raised]
theorem carryOut_issues (cur : t.cur = some g) (raised : u.issue.raised = none) (first : outranked ex t g = false) : carryOut ex t = .next (t.finish u g) := by
  unfold carryOut
  rw [cur]
  simp only [judge_ran pend whole ran wait late early regs, raised, first]
  simp
end
theorem State.cur_openWith (s : State) (p j : Nat) (g : Hart) (l reps : List Slot) (hdr : BitVec 32) (pc0 npc : VAddr) (again crl : Bool) : (s.openWith p j g l reps hdr pc0 npc again crl).cur = some g :=
  (State.hart?_setHart_same s p j g :)
/-- A step whose event takes a packet up carries that packet out. -/
theorem step_takes {t : State} (next_ : s.agenda = (a, .packetIssue) :: r) (taken : execPacketIssue { s with arg := a, agenda := r } = .next t) (active : t.issue.active = true) :
    step s = carryOut exec t := by
  have run : exec .packetIssue { s with arg := a, agenda := r } = .next t := taken
  rw [step_event next_ rfl (Or.inl rfl), run]
  exact if_pos active

/-- Settles O57: what a step does with the event that the agenda names, and with the packet that it takes up. -/
theorem stepRuns : Obligations.StepRuns := by
  refine ⟨fun s done => step_empty done, ?_, ?_⟩
  · intro s a i r next_ s0
    refine ⟨fun slot => step_slot next_ slot, fun tick must => step_early next_ tick must, fun due => ⟨fun t event gives idle => ?_, fun x event gives => ?_⟩⟩
    · rw [step_event next_ event due, show exec i { s with arg := a, agenda := r } = .next t from gives]
      exact if_neg (Bool.eq_false_iff.1 idle)
    · rw [step_event next_ event due, show exec i { s with arg := a, agenda := r } = .fault x from gives]
  · intro s a r s1 h k next_ s0 p l core slot hart fresh timely pend vpend own runs owed stall re tile carrel fetched sound may g t
    have opened : execPacketIssue s0 = .next t := packetIssue_go core slot
      ((State.openNext_fetches hart fresh timely pend vpend own runs owed stall re tile carrel).trans (State.openFetched_of fetched sound may))
    have carries : step s = carryOut exec t := step_takes next_ opened rfl
    have cur : t.cur = some g := State.cur_openWith _ _ _ _ _ _ _ _ _ _ _
    refine ⟨fun q inside => ?_, fun c w j one word => ?_, fun u ran wait raised late early regs first => ?_, fun u x ran wait raised late early regs => ?_⟩
    · obtain ⟨j, word⟩ := decodeSlot_of_sound (State.checkPacket_decodes sound) inside
      exact ⟨j, word, mem_runOrder (Packet.mem_all inside) word⟩
    · have slots : t.issue.slots = [j] := (congrArg runOrder one).trans (runOrder_one word)
      exact ⟨slots, fun u runs => by rw [slots]; exact runSlots_one runs⟩
    · exact carries.trans (carryOut_issues (g := g) pend rfl ran wait late early regs cur raised first)
    · exact carries.trans (carryOut_traps (g := g) pend rfl ran wait late early regs cur raised)

end Sys2Proof.Machine
end

section
/-! The host port (R420 to R425). -/
namespace Sys2Proof.Machine
open Sys2Proof

variable {s t : State} {qp : Nat} {m : HostMsg}

/-! One request on a queue pair that serves. -/
/-- What a queue pair still has to serve. -/
def State.leave (s : State) (qp : Nat) (l : List HostMsg) : State := s.modQp qp (fun q => { q with msgs := l })
/-- The request, arrived. -/
def State.came (s : State) (qp : Nat) (m : HostMsg) : State := s.modQp qp (fun q => { q with msgs := q.msgs ++ [m] })
/-- What becomes of a message and of its queue pair. -/
def State.afterMsg (qp : Nat) (o : State × Option HostMsg) : State := o.1.leave qp (o.2.elim [] ([·]))
theorem State.msgs_came (none_ : (s.qpair qp).msgs = []) : ((s.came qp m).qpair qp).msgs = [m] := by
  simp [State.came, State.modQp, State.modHub, State.qpair, tmod] at none_ ⊢
  exact none_
/-- A queue pair with one message has none after it, or that message. -/
theorem State.serveQp_one (one : (s.qpair qp).msgs = [m]) : s.serveQp qp 1 = State.afterMsg qp (s.hostDo qp m) := by
  unfold State.serveQp State.afterMsg
  simp only [one]
  rcases s.hostDo qp m with ⟨t, _ | x⟩
  · simp only [ite_self]
    rfl
  · rfl
section
variable (small : qp < 4096) (connected : (s.qpair qp).connected = true) (sound : (s.qpair qp).error = false)
include small connected sound
theorem State.request_closed (closed : s.hub.evac.st.portOpen = false) : s.request qp m = .next (s.answer qp 4 []) := by
  refine (below_of _ small).trans (congrArg _ ?_)
  rw [if_neg (by rw [connected, sound]; decide), if_pos (by rw [closed]; rfl)]
  rfl
theorem State.request_of (none_ : (s.qpair qp).msgs = []) (serves : s.hub.evac.st.portOpen = true) : s.request qp m = .next (State.afterMsg qp ((s.came qp m).hostDo qp m)) := by
  refine (below_of _ small).trans (congrArg _ ?_)
  rw [if_neg (by rw [connected, sound]; decide), if_neg (by rw [serves]; decide), none_]
  exact State.serveQp_one (State.msgs_came none_)
end
theorem State.hopFailure_hub (s : State) (d src g : Nat) : (s.hopFailure d src g).hub = s.hub := by
  unfold State.hopFailure
  dsimp only
  split
  · rfl
  · rename_i inside
    unfold State.modWit
    rw [if_pos (Nat.not_le.1 inside)]
    split <;> rfl
theorem State.checkFailure_hub (s : State) : s.checkFailure.hub = s.hub := by
  unfold State.checkFailure
  split
  · rfl
  · split
    · exact s.hopFailure_hub _ _ _
    · rfl

/-! The checks of a message (R420, R422). -/
section
variable (fresh : m.oks = none)
include fresh
theorem State.hostDo_refused (bad : m.op = .invalid ∨ 2 ^ 31 < m.op.size) : s.hostDo qp m = (s.refuseInvalid qp, none) := by
  unfold State.hostDo
  rw [fresh]
  exact if_pos bad
variable (good : m.op ≠ .invalid) (size : m.op.size ≤ 2 ^ 31)
include good size
theorem State.hostDo_of : s.hostDo qp m = match s.portSpan m.rkey m.off m.op.size m.op.acc with
    | (s, .error true) => (s, some m)
    | (s, .error false) => (s.refuseAccess qp, none)
    | (s, .ok l) => s.hostGo qp m l := by
  unfold State.hostDo
  rw [fresh]
  exact if_neg (not_or.2 ⟨good, Nat.not_lt.2 size⟩)
theorem State.hostDo_waits (span : s.portSpan m.rkey m.off m.op.size m.op.acc = (t, .error true)) : s.hostDo qp m = (t, some m) := by rw [State.hostDo_of fresh good size, span]
theorem State.hostDo_denied (span : s.portSpan m.rkey m.off m.op.size m.op.acc = (t, .error false)) : s.hostDo qp m = (t.refuseAccess qp, none) := by
  rw [State.hostDo_of fresh good size, span]
theorem State.hostDo_goes {l : List XOk} (span : s.portSpan m.rkey m.off m.op.size m.op.acc = (t, .ok l)) : s.hostDo qp m = t.hostGo qp m l := by
  rw [State.hostDo_of fresh good size, span]
end

/-! The bytes of a message (R423, R424). -/
/-- The places in memory of bytes, each with its byte. -/
def keyed (l : List XOk) (b : List Byte) : List (Nat × Byte) := (l.zip b).filterMap (fun q => match q.1.loc with | .mem k => some (k, q.2) | _ => none)
theorem keyed_take (l : List XOk) (b : List Byte) : keyed (l.take b.length) b = keyed l b := by
  have same : (l.take b.length).zip b = l.zip b := by
    induction b generalizing l with
    | nil => simp
    | cons x b ih => cases l with
      | nil => simp
      | cons o l => simp [ih]
  unfold keyed
  rw [same]
/-- What a byte of an atomic was before it. -/
def State.ownByte (s : State) (o : XOk) : Byte := match o.loc with | .mem k => s.byte k | _ => s.portByte o
/-- What an atomic leaves at the places of its operand: the new value, or nothing but broken links. -/
def State.stored (s : State) (l : List XOk) : Option Word → State
  | some v => s.commit (keyed l (leBytes 8 v.toNat)) false
  | none => s.breakLinks none (granules (locKeys l))
/-- A READ or an atomic meets a granule that is never sent. -/
def State.broken (s : State) (qp : Nat) (ks : List Nat) : State := (s.verify (granules ks)).refuseOp qp
section
variable {rkey : BitVec 32} {off : Nat} {l : List XOk}
/-- A message that is taken whole is one part. -/
theorem HostMsg.part_whole (op : HostOp) : ({ rkey := rkey, off := off, op := op } : HostMsg).part = (0, op.size) := Prod.ext (Nat.zero_sub _) rfl
theorem State.hostGo_write {data : List Byte} : s.hostGo qp { rkey := rkey, off := off, op := .write data } l = ((s.commit (keyed l data) false).answer qp 0 [], none) := by
  unfold State.hostGo
  rw [HostMsg.part_whole]
  simp only [slice, List.drop_zero, HostOp.size, Nat.lt_irrefl, if_false, List.take_length]
  rw [← keyed_take]
  rfl
theorem State.hostGo_part {data : List Byte} {n : Nat} (step : n ≠ 0) (less : 64 * n - off % 64 < data.length) :
    s.hostGo qp { rkey := rkey, off := off, op := .write data, step := n } l =
      (s.commit (keyed (l.take (64 * n - off % 64)) (data.take (64 * n - off % 64))) false, some { rkey := rkey, off := off, op := .write data, step := n, oks := some l, pos := n }) := by
  have part : ({ rkey := rkey, off := off, op := .write data, step := n } : HostMsg).part = (0, 64 * n - off % 64) := by
    unfold HostMsg.part
    simp only [if_neg step, HostOp.size, Nat.zero_add, Nat.mul_zero, Nat.zero_sub, Nat.min_eq_right less.le]
  unfold State.hostGo
  rw [part]
  simp only [slice, List.drop_zero, Nat.zero_add]
  exact if_pos less
theorem State.hostGo_read {n : Nat} :
    s.hostGo qp { rkey := rkey, off := off, op := .read n } l =
      if s.unsent (locKeys (l.take n)) then (s.broken qp (locKeys (l.take n)), none) else (s.drawn.answer qp 0 ((l.take n).map s.portByte), none) := by
  unfold State.hostGo
  rw [HostMsg.part_whole]
  simp only [slice, List.drop_zero, HostOp.size, Nat.lt_irrefl, if_false, List.nil_append]
  rfl
theorem State.hostGo_atomic {cmp : Option Word} {x : Word} :
    s.hostGo qp { rkey := rkey, off := off, op := .atomic cmp x } l =
      if s.unsent (locKeys (l.take 8)) then (s.broken qp (locKeys (l.take 8)), none)
      else ((s.stored (l.take 8) (hostNew cmp x (BitVec.ofNat 64 (leNat ((l.take 8).map s.ownByte))))).drawn.answer qp 0 ((l.take 8).map s.ownByte), none) := by
  unfold State.hostGo
  rw [HostMsg.part_whole]
  simp only [slice, List.drop_zero, HostOp.size]
  rfl
end

/-! Pause and clock (R420, R425). -/
theorem State.sendHeld_paused (paused : s.time < s.hub.paused) : s.sendHeld = s := if_pos (Or.inl paused)
theorem State.sendHeld_over (out : s.hub.paused ≤ s.time) : s.sendHeld = { s with hub := { s.hub with heldOut := [] }, outbox := s.outbox ++ s.hub.heldOut } := by
  unfold State.sendHeld
  by_cases none_ : s.hub.heldOut = []
  · rw [if_pos (Or.inr none_)]
    have same : ({ s.hub with heldOut := [] } : Hub) = s.hub := by rw [← none_]
    rw [same, none_, List.append_nil]
  · rw [if_neg (not_or.2 ⟨Nat.not_lt.2 out, none_⟩)]
    rfl

/-- Settles O48: what the port answers to the one request on a connected queue pair, and what pauses it and sets its clock. -/
theorem portEvents : Obligations.PortEvents := by
  intro s small qp q came left reply refused denied broken wr rd atm keys
  have answered (t : State) (status : Nat) (b : List Byte) : reply t status b = .next (State.afterMsg qp (t.answer qp status b, none)) := rfl
  refine ⟨below_of _ small, below_of _ small, fun lasts => congrArg _ (State.sendHeld_paused ?_), fun now => ?_, fun ok first => ?_, fun ok placed => ?_,
    fun connected sound closed => ⟨State.request_closed small connected sound closed, State.request_closed small connected sound closed⟩, fun connected sound none_ serves => ?_⟩
  · exact Nat.lt_add_of_pos_right lasts
  · have over_ : s.time + s.arg.len * 16 / 25 = s.time := by rw [now]; rfl
    have held := State.sendHeld_over (s := s.modHub (fun h => { h with paused := s.time + s.arg.len * 16 / 25 })) over_.le
    refine congrArg Host.Outcome.next (held.trans ?_)
    simp only [State.modHub, over_]
  · exact congrArg Host.Outcome.next ((if_pos ok).trans (if_pos (by rw [first]; rfl)))
  · exact congrArg Host.Outcome.next ((if_pos ok).trans (if_neg (by rw [placed]; decide)))
  have gives (u : State) (same : u.hub = s.hub) (m : HostMsg) {o : State × Option HostMsg} (does : (came u m).hostDo qp m = o) : u.request qp m = .next (State.afterMsg qp o) := by
    have pair : u.qpair qp = q := by unfold State.qpair; rw [same]
    exact (State.request_of small (pair ▸ connected) (pair ▸ sound) (pair ▸ none_) (same ▸ serves)).trans (congrArg (fun o => Host.Outcome.next (State.afterMsg qp o)) does)
  refine ⟨gives s rfl {} (State.hostDo_refused rfl (Or.inl rfl)), fun long => gives s rfl wr (State.hostDo_refused rfl (Or.inr long)),
    fun t size span => gives s rfl wr (State.hostDo_denied rfl HostOp.noConfusion size span), fun t size span => gives s rfl wr (State.hostDo_waits rfl HostOp.noConfusion size span),
    fun t l size span => ⟨fun whole => ?_, fun step less => ?_⟩, fun t l whole size span => ?_, ?_⟩
  · have wr_eq : wr = { rkey := s.arg.rkey, off := s.arg.off, op := .write s.arg.data } := by simp only [wr, whole]
    have goes := gives s rfl wr ((State.hostDo_goes (m := wr) rfl HostOp.noConfusion size span).trans (by rw [wr_eq]))
    rw [State.hostGo_write] at goes
    exact goes
  · exact gives s rfl wr ((State.hostDo_goes (m := wr) rfl HostOp.noConfusion size span).trans (State.hostGo_part step less))
  · have rd_eq : ({ rkey := s.arg.rkey, off := s.arg.off, op := .read s.arg.len, step := s.arg.slot } : HostMsg) = rd := by rw [whole]
    have goes := gives s.checkFailure s.checkFailure_hub rd ((State.hostDo_goes (m := rd) rfl HostOp.noConfusion size span).trans State.hostGo_read)
    rw [← rd_eq] at goes
    exact ⟨fun sent => (goes : execRdmaRead s = _).trans (by rw [if_neg (Bool.eq_false_iff.1 sent)]; rfl), fun bad => (goes : execRdmaRead s = _).trans (by rw [if_pos bad]; rfl)⟩
  · have goes (cmp : Option Word) (x : Word) {t : State} {l : List XOk} (span : (came s (atm cmp x)).portSpan s.arg.rkey s.arg.off 8 .atomic = (t, .ok l)) :=
      gives s rfl (atm cmp x) ((State.hostDo_goes (m := atm cmp x) rfl HostOp.noConfusion (by decide : 8 ≤ 2 ^ 31) span).trans State.hostGo_atomic)
    intro old v
    refine ⟨fun t l span => ⟨fun sent => ?_, fun bad => ?_⟩, fun t l span => ⟨fun sent => ?_, fun bad => ?_⟩⟩
    · exact (goes none s.arg.w span).trans (by rw [if_neg (Bool.eq_false_iff.1 sent)]; rfl)
    · exact (goes none s.arg.w span).trans (by rw [if_pos bad]; rfl)
    · refine (goes (some s.arg.w) s.arg.w2 span).trans ?_
      have stored : t.stored (l.take 8) (hostNew (some s.arg.w) s.arg.w2 (v t (l.take 8))) =
          if v t (l.take 8) = s.arg.w then t.stored (l.take 8) (some s.arg.w2) else t.stored (l.take 8) none := apply_ite _ _ _ _
      rw [if_neg (Bool.eq_false_iff.1 sent)]
      exact congrArg (fun u : State => reply u.drawn 0 (old t (l.take 8))) stored
    · exact (goes (some s.arg.w) s.arg.w2 span).trans (by rw [if_pos bad]; rfl)

end Sys2Proof.Machine
end

section
/-! Numbers and runs of bytes in memory, and what writing bytes leaves of the rest of the machine. -/
namespace Sys2Proof.Machine
open Sys2Proof

variable {s : State}

theorem leNat_lt (l : List Byte) : leNat l < 256 ^ l.length := by
  induction l with
  | nil => simp [leNat]
  | cons b l ih =>
    have byte : b.toNat < 256 := b.isLt
    rw [List.length_cons, pow_succ, leNat]
    omega
theorem leNat_leBytes (n x : Nat) : leNat (leBytes n x) = x % 256 ^ n := by
  induction n generalizing x with
  | zero => simp [leBytes, leNat, Nat.mod_one]
  | succ n ih =>
    rw [leBytes, leNat, ih, pow_succ', Nat.mod_mul, BitVec.toNat_ofNat]
theorem length_leBytes (n x : Nat) : (leBytes n x).length = n := by
  induction n generalizing x with
  | zero => rfl
  | succ n ih => rw [leBytes, List.length_cons, ih]
theorem bytesOn_cons (k : Nat) (b : Byte) (l : List Byte) : bytesOn k (b :: l) = (k, b) :: bytesOn (k + 1) l := by
  unfold bytesOn
  rw [List.zipIdx_cons, List.map_cons, List.zipIdx_succ, List.map_map]
  refine congrArg _ (List.map_congr_left fun q _ => ?_)
  simp [Nat.add_comm, Nat.add_left_comm]
theorem le_of_mem_bytesOn {k : Nat} {l : List Byte} {q : Nat × Byte} (inside : q ∈ bytesOn k l) : k ≤ q.1 := by
  obtain ⟨x, -, rfl⟩ := List.mem_map.1 inside
  exact Nat.le_add_right _ _
theorem memGet_bytesOn {m : List (Nat × Byte)} (wf : Memory.wf m = true) (k : Nat) (l : List Byte) (i : Nat) (inside : i < l.length) :
    memGet (memSetMany m (bytesOn k l)) (k + i) = l[i] := by
  induction l generalizing m k i with
  | nil => simp at inside
  | cons b l ih =>
    have wf1 : Memory.wf (memSet m k b) = true := memWf_memSet wf b (Nat.zero_le _)
    rw [bytesOn_cons, show memSetMany m ((k, b) :: bytesOn (k + 1) l) = memSetMany (memSet m k b) (bytesOn (k + 1) l) from rfl]
    cases i with
    | zero =>
      rw [Nat.add_zero, memGet_memSetMany_ne _ wf1 (fun _ _ => Nat.zero_le _) fun q mem => by have := le_of_mem_bytesOn mem; omega]
      exact memGet_memSet_same wf k b
    | succ i =>
      rw [show k + (i + 1) = k + 1 + i by omega]
      exact ih wf1 (k + 1) i (by simpa using inside)
/-- Bytes written one after another read back. -/
theorem memRead_bytesOn {m : List (Nat × Byte)} (wf : Memory.wf m = true) (k : Nat) (l : List Byte) : memRead (memSetMany m (bytesOn k l)) k l.length = l := by
  refine List.ext_getElem (by simp [memRead]) fun i _ inside => ?_
  simp only [memRead, List.getElem_map, List.getElem_range]
  exact memGet_bytesOn wf k l i inside

/-- A reading of the machine that writing bytes does not change: what tells nothing of memory, of marks, of a die, of writes under way or of links. -/
def State.OffBytes {γ : Type} (g : State → γ) : Prop :=
  ∀ s mem marks bad cleared dies pw cores, g { s with mem := mem, marks := marks, badCheck := bad, cleared := cleared, dies := dies, pw := pw, cores := cores } = g s
theorem State.OffBytes.offMarks {γ : Type} {g : State → γ} (keeps : State.OffBytes g) : State.OffMarks g := fun s marks bad cleared dies => keeps s s.mem marks bad cleared dies s.pw s.cores
theorem State.commit_same {γ : Type} (g : State → γ) (keeps : State.OffBytes g) (s : State) (bs : List (Nat × Byte)) (mark : Bool) (keep : Option (Nat × Nat)) (part : List (Nat × Byte))
    (cov : List (Nat × Byte × Byte)) : g (s.commit bs mark keep part cov) = g s := by
  unfold State.commit State.breakLinks
  dsimp only
  refine (keeps (s := List.foldl _ s _) _ _ _ _ _ _ _).trans (foldl_same g _ _ s fun t n _ => ?_)
  split
  · exact State.setMark_same g keeps.offMarks t n mark
  · split
    · exact (State.setMark_same g keeps.offMarks _ n true).trans (State.verify_same g keeps.offMarks t [n])
    · exact State.verify_same g keeps.offMarks t [n]

end Sys2Proof.Machine
end

section
/-! Accesses, table walks and the moments of a write (R94, R95, R153, R157, R292 to R295, R401, R426). -/
namespace Sys2Proof.Machine
open Sys2Proof

variable {s t : State} {p i id : Nat} {h : Hart} {w : PW}

/-! Completion of accesses. -/
/-- Taking what a hart owes changes no memory and no write under way. -/
theorem State.settle_rest (s : State) (p i : Nat) : (s.settle p i).mem = s.mem ∧ (s.settle p i).pw = s.pw := by
  have trap (t : State) (x : TrapReq) (mem : t.mem = s.mem) (pw : t.pw = s.pw) : (t.enterTrap p i x).mem = s.mem ∧ (t.enterTrap p i x).pw = s.pw := by
    obtain ⟨mem1, pw1, -⟩ := t.enterTrap_frame p i x
    exact ⟨mem1.trans mem, pw1.trans pw⟩
  unfold State.settle
  split
  · exact ⟨rfl, rfl⟩
  · split
    · exact ⟨rfl, rfl⟩
    · split
      · exact trap _ _ rfl rfl
      · split
        · exact ⟨rfl, rfl⟩
        · split
          · exact ⟨rfl, rfl⟩
          · exact trap _ _ (State.modHart_mem _ _ _ _) (by unfold State.modHart; split <;> rfl)
/-- The core's queues show what an access brought, and the access is over. -/
def Core.shown (cycle id : Nat) (c : Core) : Core :=
  { c with q := c.q.map (fun q => (q.1, q.2.show cycle id)), harts := c.harts.map (fun q => (q.1, q.2.map (fun h => { h with accs := h.accs.filter (· != id), vreads := h.vreads.filter (fun v => v.id != id) }))) }
theorem State.accessDone_of (mine : ∃ i h, (i, some h) ∈ (s.core p).harts ∧ id ∈ h.accs) :
    s.accessDone p id = (List.range 8).foldl (fun t i => t.settle p i) (s.modCore p (Core.shown s.cycle id)) := by
  obtain ⟨i, h, inside, acc⟩ := mine
  have found : (s.core p).harts.any (fun q => q.2.any (fun h => h.accs.contains id)) = true := List.any_eq_true.2 ⟨(i, some h), inside, List.contains_iff_mem.2 acc⟩
  unfold State.accessDone
  rw [found]
  rfl
theorem State.hart?_checkFailure (s : State) (p i : Nat) : s.checkFailure.hart? p i = s.hart? p i := by
  have hop (d src g : Nat) : (s.hopFailure d src g).cores = s.cores := by
    unfold State.hopFailure
    dsimp only
    split
    · rfl
    · split
      · unfold State.modWit
        split <;> rfl
      · rfl
  have cores : s.checkFailure.cores = s.cores := by
    unfold State.checkFailure
    split
    · rfl
    · split
      · exact hop _ _ _
      · rfl
  unfold State.hart? State.core
  rw [cores]
theorem scalarAccessComplete_of (small : s.arg.core < 32) (hart : s.hart? s.arg.core s.arg.slot = some h) (asked : h.remoteReq = true) (free : h.remoteAns = none) :
    execScalarAccessComplete s = .next (s.checkFailure.setHart s.arg.core s.arg.slot { h with remoteAns := answerTo h.reqOks (hopOf s.arg) s.arg.ans }) := by
  refine (below_of _ small).trans (congrArg _ ((State.modHart_of _ _ _ _ h ((s.hart?_checkFailure _ _).trans hart)).trans ?_))
  rw [if_pos ⟨asked, free⟩]

/-! A walk (R94, R95). -/
/-- What an entry without a fault holds stands at its place. -/
theorem State.entry_reads {d va pa pl l k e : Nat} (found : t.entry d va pa pl l = .ok (k, e)) : e = t.readN k 8 := by
  unfold State.entry at found
  split at found
  · exact absurd found (by simp)
  · dsimp only at found
    split at found
    · exact absurd found (by simp)
    · split at found
      · exact absurd found (by simp)
      · split at found
        · exact absurd found (by simp)
        · split at found
          · exact absurd found (by simp)
          · cases found
            rfl
/-- What a successful walk found stands at its place. -/
theorem State.walk_reads {d va e l k : Nat} (n pa pl : Nat) (s s1 : State) (found : s.walk d va pa pl n = (s1, .ok (e, l, k))) : e = s1.readN k 8 := by
  induction n generalizing s pa pl with
  | zero =>
    unfold State.walk at found
    dsimp only at found
    split at found
    · exact absurd (congrArg Prod.snd found) (by simp)
    · rename_i there
      cases found
      exact State.entry_reads there
  | succ n ih =>
    unfold State.walk at found
    dsimp only at found
    split at found
    · exact absurd (congrArg Prod.snd found) (by simp)
    · rename_i there
      split at found
      · cases found
        exact State.entry_reads there
      · exact ih _ _ _ found
/-- An entry with the bits that a walk sets. -/
def touched (e : Nat) (d : Bool) : Nat := e ||| 2 ^ 7 ||| (if d then 2 ^ 8 else 0)
theorem State.touch_eq (s : State) (k e : Nat) (d : Bool) : s.touch k e d = if touched e d = e then s else s.commit (bytesAt k 8 (touched e d)) false := rfl
theorem touched_lt {e : Nat} (small : e < 2 ^ 64) (d : Bool) : touched e d < 2 ^ 64 :=
  Nat.or_lt_two_pow (Nat.or_lt_two_pow small (by decide)) (by cases d <;> decide)
theorem State.readN_lt (s : State) (k n : Nat) : s.readN k n < 256 ^ n := by
  have lt := leNat_lt (memRead s.mem k n)
  rw [length_memRead] at lt
  exact lt
/-- A number stored in memory reads back, as far as its bytes hold it. -/
theorem State.readN_commit (wf : Memory.wf s.mem = true) (k n x : Nat) (mark : Bool) : (s.commit (bytesAt k n x) mark).readN k n = x % 256 ^ n := by
  have read := memRead_bytesOn wf k (leBytes n x)
  rw [length_leBytes] at read
  rw [← leNat_leBytes, State.readN, State.readAt, State.commit_mem]
  exact congrArg leNat read
/-- The entry that an access touched has its A bit, and for a write its D bit. -/
theorem State.touch_reads {k e : Nat} (wf : Memory.wf s.mem = true) (there : e = s.readN k 8) (d : Bool) : (s.touch k e d).readN k 8 = touched e d := by
  have small : e < 2 ^ 64 := there ▸ s.readN_lt k 8
  rw [State.touch_eq]
  split
  · rename_i same
    exact there.symm.trans same.symm
  · rw [State.readN_commit wf]
    exact Nat.mod_eq_of_lt (touched_lt small d)
theorem State.touch_freeVal (s : State) (k e : Nat) (d : Bool) : (s.touch k e d).freeVal = s.freeVal := by
  rw [State.touch_eq]
  split
  · rfl
  · exact State.commit_same State.freeVal (fun _ _ _ _ _ _ _ _ => rfl) s _ _ _ _ _
/-- Ending a translation changes no memory and no cached translation. -/
theorem State.arrive_rest (s : State) (w : Who) (pa attr l : Nat) (dev8 p : Bool) : (s.arrive w pa attr l dev8 p).1.mem = s.mem ∧ (s.arrive w pa attr l dev8 p).1.tlb w = s.tlb w := by
  have lock (loc : Loc) : (s.lockIlv w loc).mem = s.mem ∧ (s.lockIlv w loc).tlb w = s.tlb w := by
    unfold State.lockIlv
    split
    · split
      · exact ⟨rfl, rfl⟩
      · exact ⟨rfl, rfl⟩
    · exact ⟨rfl, rfl⟩
  unfold State.arrive
  dsimp only
  split
  · exact ⟨rfl, rfl⟩
  · split
    · exact ⟨rfl, rfl⟩
    · split
      · exact ⟨rfl, rfl⟩
      · exact lock _
/-- A translation is cached first of those that serve its agent. -/
theorem State.tlb_addTlb (s : State) {w : Who} (caches : 16 ≤ w.die ∨ w.core < 32) (x : Tlb) : (s.addTlb w x).tlb w = x :: s.tlb w := by
  unfold State.addTlb State.tlb
  by_cases hub : 16 ≤ w.die
  · simp only [if_pos hub]
    rfl
  · have core : w.core < 32 := caches.resolve_left hub
    simp only [if_neg hub, if_pos core, State.core_modCore_same]
theorem State.addTlb_mem (s : State) (w : Who) (x : Tlb) : (s.addTlb w x).mem = s.mem := by
  unfold State.addTlb
  split
  · rfl
  · split <;> rfl
/-- What a leaf that is no Folio window has cached (R95): its page, or its contiguity group. -/
def State.leafTlb (s : State) (w : Who) (va : Nat) (acc : Acc) (e l : Nat) : Tlb :=
  let n := if s.holdsGroup e then 32 * pageSize l else pageSize l
  { ctx := w.ctx, global := eBit e 6, va := va / n * n, size := n, pa := ePa e / n * n, flags := e % 65536, attr := eAttr e, dirty := eBit e 8 || accWrites acc, level := l }
section
variable {who : Who} {va : Nat} {acc : Acc} {c0 c1 e l k : Nat} {s1 : State} (ctx : (s.seeCtx who.die who.ctx).ctxEntry who.die who.ctx = .ok (c0, c1)) (valid : eBit c0 0 = true)
  (zero : c0 / 2 % 2 ^ 15 = 0) (low : c0 < 2 ^ 56) (found : (s.seeCtx who.die who.ctx).walk who.die va (ePa c0) 15 4 = (s1, .ok (e, l, k))) (may : leafCheck who acc false e l = none)
  (plain : eBit e 56 = false)
include ctx valid zero low found may plain
theorem State.walkAll_of : s.walkAll who va acc false =
    ((if eBit e 9 && !eBit e 56 then (s1.touch k e (accWrites acc)).drawn else s1.touch k e (accWrites acc)).addTlb who ((s1.touch k e (accWrites acc)).leafTlb who va acc e l)).arrive who
      (ePa e + va % pageSize l) (eAttr e) l false (eBit e 5) := by
  have sound : ¬ ((!eBit c0 0 || c0 / 2 % 2 ^ 15 != 0 || decide (2 ^ 56 ≤ c0)) = true) := by
    rw [valid, zero, decide_eq_false (Nat.not_le.2 low)]
    decide
  unfold State.walkAll
  dsimp only
  rw [ctx]
  dsimp only
  rw [if_neg sound, found]
  dsimp only
  rw [may]
  dsimp only
  rw [if_neg (Bool.eq_false_iff.1 plain)]
  rfl
theorem State.walkAll_caches (wf : Memory.wf s.mem = true) (caches : 16 ≤ who.die ∨ who.core < 32) :
    (s.walkAll who va acc false).1.readN k 8 = touched e (accWrites acc) ∧ ((s.walkAll who va acc false).1.tlb who).head? = some (s1.leafTlb who va acc e l) := by
  have wf1 : Memory.wf s1.mem = true := by
    have walked := State.walk_memOk (s.seeCtx who.die who.ctx) who.die va (ePa c0) 15 4 (State.seeCtx_memOk s _ _ wf)
    rw [found] at walked
    exact walked
  have group : (s1.touch k e (accWrites acc)).leafTlb who va acc e l = s1.leafTlb who va acc e l := by
    unfold State.leafTlb State.holdsGroup
    rw [State.touch_freeVal]
  rw [State.walkAll_of ctx valid zero low found may plain, group]
  obtain ⟨mem, tlb⟩ := State.arrive_rest ((if eBit e 9 && !eBit e 56 then (s1.touch k e (accWrites acc)).drawn else s1.touch k e (accWrites acc)).addTlb who (s1.leafTlb who va acc e l)) who
    (ePa e + va % pageSize l) (eAttr e) l false (eBit e 5)
  refine ⟨?_, ?_⟩
  · have drawn : (if eBit e 9 && !eBit e 56 then (s1.touch k e (accWrites acc)).drawn else s1.touch k e (accWrites acc)).mem = (s1.touch k e (accWrites acc)).mem := by split <;> rfl
    refine Eq.trans ?_ (State.touch_reads wf1 (State.walk_reads _ _ _ _ _ found) (accWrites acc))
    unfold State.readN State.readAt
    rw [mem, State.addTlb_mem, drawn]
  · rw [tlb, State.tlb_addTlb _ caches]
    rfl
end
theorem accWrites_iff (acc : Acc) : accWrites acc = (acc == .store || acc == .atomic) := by cases acc <;> rfl

/-! The moments of a write (R292, R401). -/
theorem peerRequest_write {k : Nat} (write_ : s.arg.len = 0) (link : s.arg.link < 8) (up : (s.link (64 + s.arg.link)).up = true) (inside : s.arg.off % 64 + s.arg.data.length ≤ 64)
    (loc : s.loc s.arg.off = .mem k) (open_ : 16 ≤ dieOfKey k ∨ s.hub.fset.testBit (dieOfKey k) = false) (may : s.peerMay s.arg.idx true (.mem k) = true) :
    s.peerRequest = (s.peerPut (bytesOn k s.arg.data) s.arg.ok).put outPeer s.arg.idx 0 [] := by
  have home : (Loc.mem k).home.any s.hub.fset.testBit = false := by
    unfold Loc.home
    dsimp only
    split
    · exact open_.resolve_left (by omega)
    · rfl
  have here : ¬ (¬ (s.arg.link < 8 ∧ (s.link (64 + s.arg.link)).up ∧ s.arg.off % 64 + (if s.arg.len = 0 then s.arg.data.length else s.arg.blk) ≤ 64) ∨ (Loc.mem k).home.any s.hub.fset.testBit = true) := by
    rw [home, if_pos write_]
    rintro (no | no)
    · exact no ⟨link, up, inside⟩
    · exact Bool.noConfusion no
  have zero : (s.arg.len == 0) = true := beq_of_eq write_
  unfold State.peerRequest
  dsimp only
  rw [loc, if_neg here, zero, may, if_neg (by decide), if_pos write_]
  unfold State.peerWrite
  dsimp only
  rw [loc]
theorem State.hopFailure_chkErr (s : State) {d : Nat} (src g : Nat) (small : d < 16) : ((s.hopFailure d src g).die d).chkErr = (s.die d).chkErr + 1 := by
  unfold State.hopFailure
  dsimp only
  rw [if_neg (by omega)]
  split
  · unfold State.modWit
    rw [if_pos small, State.die_modDie_same, State.die_modDie_same]
  · rw [State.die_modDie_same]
theorem State.hopFailure_mem (s : State) (d src g : Nat) : (s.hopFailure d src g).mem = s.mem := by
  unfold State.hopFailure
  dsimp only
  split
  · rfl
  · split
    · unfold State.modWit
      split <;> rfl
    · rfl
section
variable (found : s.pw.find? (fun v => v.id == id) = some w)
include found
theorem State.writeFails_of {d src : Nat} (fresh : w.phase = 0) (small : d < 16) : s.writeFails d src id =
    { s.hopFailure d src ((w.bytes.map (fun b => b.1 / 64)).headD 0) with pw := s.pw.map (fun v => if v.id = id then { v with mark := true } else v) } := by
  unfold State.writeFails
  rw [found]
  exact if_neg (by omega)
theorem State.domainMoment_of (phase : w.phase = 1) (first : (homedBefore s.pw id).any (fun v => v.phase == 1 && v.touches w) = false) (ordered : ∀ a ∈ w.after, s.visibleAt a.2 a.1 = true) :
    s.domainMoment id = ({ s with pw := s.pw.map (fun v => if v.id = id then { v with phase := 2 } else v) } : State).uncountOf w.hart (if w.remote then 0 else 4) 4 w.cnt := by
  have after : w.after.all (fun a => s.visibleAt a.2 a.1) = true := List.all_eq_true.2 ordered
  unfold State.domainMoment
  rw [found]
  exact if_neg (by rw [phase, first, after]; decide)
theorem State.systemMoment_of (phase : w.phase = 2) (first : (homedBefore s.pw id).any (fun v => v.phase != 0 && v.touches w) = false) :
    s.systemMoment id = ({ s with pw := s.pw.filter (fun v => v.id != id) } : State).uncountOf w.hart 5 5 w.cnt := by
  unfold State.systemMoment
  rw [found]
  exact if_neg (by rw [phase, first]; decide)
end

/-- Settles O40: how accesses, walks and the moments of a write end. -/
theorem accessesAndMoments : Obligations.AccessesAndMoments := by
  intro s
  refine ⟨fun small => ⟨fun own ⟨i, h, _, inside, acc⟩ => ?_, fun h hart asked free => scalarAccessComplete_of small hart asked free⟩, ?_, fun k flag write_ link up inside loc open_ may => ?_, fun w found =>
    ⟨fun own sound fresh first ordered => ⟨fun open_ => ?_, fun fenced => ?_⟩, fun own fails fresh small => ?_, fun phase first ordered => congrArg Host.Outcome.next (State.domainMoment_of found phase first ordered),
      fun phase first => congrArg Host.Outcome.next (State.systemMoment_of found phase first)⟩⟩
  · have done := State.accessDone_of ⟨i, h, inside, acc⟩
    refine ⟨_, (below_of _ small).trans (congrArg _ ((if_neg (Bool.eq_false_iff.1 own)).trans done)), ?_, ?_, rfl⟩
    · exact foldl_same State.mem _ _ _ fun t i _ => (t.settle_rest _ i).1
    · exact foldl_same State.pw _ _ _ fun t i _ => (t.settle_rest _ i).2
  · intro who v s0 c0 c1 s1 e l k small wf out on miss ctx valid zero low found may plain n
    have walks : s.xlate who s.arg.va s.arg.acc false = s.walkAll who v s.arg.acc false := by
      unfold State.xlate
      dsimp only
      rw [if_neg out, if_neg (by rw [on]; decide), miss]
    have caches : 16 ≤ who.die ∨ who.core < 32 := by
      show 16 ≤ s.arg.die ∨ 2 * s.arg.die + s.arg.core % 2 < 32
      omega
    obtain ⟨read, head⟩ := State.walkAll_caches ctx valid zero low found may plain wf caches
    refine ⟨_, (below_of _ small).trans (congrArg (fun r : XRes => Host.Outcome.next r.1) walks), read.trans ?_, head.trans ?_⟩
    · rw [accWrites_iff]
      unfold touched
      simp
    · rw [← accWrites_iff]
      rfl
  · intro bs
    refine congrArg Host.Outcome.next ((if_pos flag).trans ((peerRequest_write write_ link up inside loc open_ may).trans ?_))
    have out := State.outbox_commit s bs s.arg.ok
    unfold State.put State.peerPut
    dsimp only
    rw [show bytesOn k s.arg.data = bs from rfl, out]
    rfl
  · refine congrArg Host.Outcome.next ((if_neg (Bool.eq_false_iff.1 own)).trans ((if_neg (Bool.eq_false_iff.1 sound)).trans ?_))
    exact State.homeMoment_of found fresh first ordered fun b inside small => (open_ b inside).resolve_left (by omega)
  · exact congrArg Host.Outcome.next ((if_neg (Bool.eq_false_iff.1 own)).trans ((if_neg (Bool.eq_false_iff.1 sound)).trans (State.homeMoment_fenced found fenced)))
  · refine ⟨_, congrArg Host.Outcome.next ((if_neg (Bool.eq_false_iff.1 own)).trans ((if_pos fails).trans (State.writeFails_of found fresh small))), ?_, rfl, ?_⟩
    · exact State.hopFailure_mem s _ _ _
    · exact State.hopFailure_chkErr s _ _ small

end Sys2Proof.Machine
end

section
/-! Steps of the copy engines and of the Catalogue units (R110, R115, R136 to R147). -/
namespace Sys2Proof.Machine
open Sys2Proof

variable {s : State}

/-! Copy engines. -/
/-- The queue number of an engine event. -/
def State.queueNo (s : State) : Nat := 8 * s.arg.eng + s.arg.queue
/-- The queue of an engine event with what becomes of the command at its head. -/
def State.headStep (s : State) (r : List CopyCmd) (x : State × CopyCmd) : State :=
  x.1.setEngQ s.arg.die s.queueNo { s.engQ s.arg.die s.queueNo with cmds := x.2 :: r }
section
variable {c : CopyCmd} {r : List CopyCmd} (die : s.arg.die < 16) (eng : s.arg.eng < 4) (queue : s.arg.queue < 8) (alive : s.dead s.arg.die = false)
  (cmds : (s.engQ s.arg.die s.queueNo).cmds = c :: r) (routed : ∀ p ∈ c.places, p < remotePlace → s.held s.arg.die (.mem p) = false)
include die eng queue alive cmds routed
theorem State.engineOf_of (k : Nat → Nat → EngQ → State) : s.engineOf k = .next (k s.arg.die s.queueNo (s.engQ s.arg.die s.queueNo)) := by
  have free : c.places.any (fun p => decide (p < remotePlace) && s.held s.arg.die (.mem p)) = false := by
    refine List.any_eq_false.2 fun p inside => ?_
    by_cases here : p < remotePlace
    · rw [routed p inside here]
      simp
    · simp [here]
  have waits : ¬ (s.dead s.arg.die = true ∨ (s.engQ s.arg.die s.queueNo).cmds.head?.any (fun c => c.places.any (fun p => decide (p < remotePlace) && s.held s.arg.die (.mem p))) = true) := by
    rw [alive, cmds]
    simp only [List.head?_cons, Option.any_some, free]
    decide
  unfold State.engineOf
  exact (if_neg (by omega)).trans (if_neg waits)
theorem copyCommandStart_first (fresh : c.started = false) : execCopyCommandStart s = .next (s.headStep r (s.copyStart s.arg.die c)) := by
  refine (State.engineOf_of die eng queue alive cmds routed _).trans (congrArg _ ?_)
  rw [cmds]
  exact if_pos (by rw [fresh]; rfl)
theorem copyCommandStart_later (started : c.started = true) : execCopyCommandStart s = .next (
    if !(runGrans c.src).contains s.arg.idx || c.used.contains s.arg.idx then s
    else if s.arg.flag then
      if 16 ≤ s.arg.id then s
      else (s.hopFailure s.arg.id s.arg.off s.arg.idx).setEngQ s.arg.die s.queueNo { s.engQ s.arg.die s.queueNo with
        cmds := { c with got := tmod ([], true) c.got s.arg.idx (fun g => (g.1, true)) } :: r }
    else if s.arg.ok && !c.clash then s.headStep r (CopyCmd.readOne (s, c) s.arg.idx) else s) := by
  refine (State.engineOf_of die eng queue alive cmds routed _).trans (congrArg _ ?_)
  rw [cmds]
  exact if_neg (by rw [started]; decide)
theorem copyChunkVisible_of {m : Nat} {l : List Nat} {todo : List (Nat × List Nat)} (more : c.todo = (m, l) :: todo) (whole : c.places.any (s.placeCut s.arg.die) = false) :
    execCopyChunkVisible s = .next (
      if s.arg.ok then (if c.todo.any (fun x => x.2.contains s.arg.idx) then s.headStep r (s.engineWrites (s, c) s.arg.idx) else s)
      else (s.headStep r ((l.foldl s.engineWrites (s, c)).1, { (l.foldl s.engineWrites (s, c)).2 with todo := (l.foldl s.engineWrites (s, c)).2.todo.drop 1 })).chunkBit c m) := by
  refine (State.engineOf_of die eng queue alive cmds routed _).trans (congrArg _ ?_)
  rw [cmds]
  dsimp only
  split
  · rename_i none_
    exact absurd (none_.symm.trans more) (by simp)
  · rename_i there
    obtain ⟨first, -⟩ := List.cons.inj (there.symm.trans more)
    cases first
    exact if_neg (Bool.eq_false_iff.1 whole)
theorem barrierCredit_of {b : Nat} {cores : List Nat} (started : c.started = true) (written : c.todo = []) (more : c.cores = b :: cores) (record : s.copyAlive c = true) :
    execBarrierCredit s = .next ((s.headStep r (s, { c with cores := cores })).modGang (c.hart.1 / 1024) (c.hart.1 % 1024) (fun g =>
      { g with bars := tmod {} g.bars (c.u 65 1 / 2 % 4) (fun x => Barrier.credit x s.cycle c.len) })) := by
  refine (State.engineOf_of die eng queue alive cmds routed _).trans (congrArg _ ?_)
  rw [cmds]
  dsimp only
  rw [started, written, more]
  exact if_pos record
theorem copyCommandComplete_of (started : c.started = true) (written : c.todo = []) (credited : c.cores = []) :
    execCopyCommandComplete s =
      let x := match c.bad with | some x => (0, x) | none => c.fail.getD (0, 0)
      let t := c.finish (s.setEngQ s.arg.die s.queueNo { s.engQ s.arg.die s.queueNo with cmds := r }) s.arg.die x.2 x.1
      .next (if x.2 = 0 then t else t.event (srcEngine s.arg.die (s.queueNo / 8)) x.2 (s.queueNo % 8 * 2 ^ 24 + x.1 % 2 ^ 24)) := by
  refine (State.engineOf_of die eng queue alive cmds routed _).trans (congrArg _ ?_)
  rw [cmds]
  refine if_neg ?_
  rw [started, written, credited]
  decide
end
theorem State.copyStart_of {d : Nat} {c : CopyCmd} (good : c.bad = none) (whole : c.places.any (s.placeCut d) = false) (apart : ¬ (c.kind = 1 ∧ c.clash = true)) :
    s.copyStart d c = (runGrans c.src).foldl CopyCmd.readOne (s, { c with started := true, todo := c.byChunk, cores := if c.arr then c.cores else [] }) :=
  (if_neg (not_not_intro good)).trans ((if_neg (Bool.eq_false_iff.1 whole)).trans (if_neg apart))
theorem CopyCmd.finish_zero (c : CopyCmd) (s : State) (d : Nat) : c.finish s d 0 0 = c.putFlag ((s.putWord d c.cw (2 ^ 63)).copyUncount c c.left) d := by
  have word : 2 ^ 63 + 0 % 2 ^ 24 * 2 ^ 32 + 0 = 2 ^ 63 := by norm_num
  unfold CopyCmd.finish
  exact (if_neg (by decide)).trans (congrArg (fun w => c.putFlag ((s.putWord d c.cw w).copyUncount c c.left) d) word)
/-- A granule that fails at a hop changes no more than dies. -/
theorem State.hopFailure_same {γ : Type} (g : State → γ) (keeps : ∀ t dies, g { t with dies := dies } = g t) (s : State) (d src n : Nat) : g (s.hopFailure d src n) = g s := by
  unfold State.hopFailure
  dsimp only
  split
  · rfl
  · rename_i small
    split
    · unfold State.modWit
      rw [if_pos (Nat.not_le.1 small)]
      exact (keeps (s.modDie _ _) _).trans (keeps s _)
    · exact keeps s _

/-! Catalogue units. -/
section
variable {c : CatCmd} {r : List CatCmd} (unit : s.arg.idx < 4) (cmds : (s.die (unitDie s.arg.idx)).cat = c :: r) (alive : s.dead (unitDie s.arg.idx) = false)
  (routed : ∀ q ∈ c.src ++ c.src2 ++ c.out ++ c.rcd, q.2.1 < remotePlace → s.held (unitDie s.arg.idx) (.mem q.2.1) = false)
include unit cmds alive routed
theorem catalogueCommandComplete_of : execCatalogueCommandComplete s = .next (
    if s.arg.ok then
      let q := if s.arg.w.getLsbD 0 ∧ s.arg.die < 16 then c.stepBad (s.hopFailure s.arg.die s.arg.id s.arg.off) s.arg.idx s.arg.off s.arg.flag else c.step s s.arg.idx s.arg.flag
      q.1.modDie (unitDie s.arg.idx) (fun x => { x with cat := q.2 :: r })
    else
      let q := c.rest s s.arg.idx
      let s1 := (q.1.putWord (unitDie s.arg.idx) c.cw (catWord q.2.fail.1 q.2.fail.2)).modDie (unitDie s.arg.idx) (fun x => { x with cat := r, done := x.done + 1 })
      if q.2.fail.1 = 0 then s1 else s1.event (srcUnit s.arg.idx) q.2.fail.1 (c.slotNo * 65536 + q.2.fail.2)) := by
  have free : (c.src ++ c.src2 ++ c.out ++ c.rcd).any (fun q => decide (q.2.1 < remotePlace) && s.held (unitDie s.arg.idx) (.mem q.2.1)) = false := by
    refine List.any_eq_false.2 fun q inside => ?_
    by_cases here : q.2.1 < remotePlace
    · rw [routed q inside here]
      simp
    · simp [here]
  refine (below_of _ (by omega)).trans (congrArg _ ((if_pos unit).trans ?_))
  unfold State.catComplete
  dsimp only
  rw [cmds]
  exact if_neg (by rw [alive, free]; decide)
end

/-- Settles O41: the steps of the copy engines and of the Catalogue units. -/
theorem engineSteps : Obligations.EngineSteps := by
  constructor
  · intro s c r d n q head die eng queue alive cmds routed
    refine ⟨fun fresh => copyCommandStart_first die eng queue alive cmds routed fresh, fun fresh good whole apart => ?_, fun started inside unused => ⟨fun own now apart => ?_, fun fails small => ?_⟩,
      fun started used => ?_, fun m l todo more whole => ?_, fun b cores started written more record => barrierCredit_of die eng queue alive cmds routed started written more record,
      fun started written credited => ?_⟩
    · have step := copyCommandStart_first die eng queue alive cmds routed fresh
      rw [State.copyStart_of good whole apart] at step
      exact step
    · refine (copyCommandStart_later die eng queue alive cmds routed started).trans (congrArg _ ((if_neg ?_).trans ((if_neg (Bool.eq_false_iff.1 own)).trans (if_pos ?_))))
      · simp [inside, unused]
      · rw [now, apart]; rfl
    · have step := (copyCommandStart_later die eng queue alive cmds routed started).trans (congrArg _ ((if_neg (by simp [inside, unused])).trans ((if_pos fails).trans (if_neg (by omega)))))
      have rest {γ : Type} (g : State → γ) (keeps : ∀ t dies, g { t with dies := dies } = g t) := State.hopFailure_same g keeps s s.arg.id s.arg.off s.arg.idx
      exact ⟨_, step, rest State.mem fun _ _ => rfl, rest State.pw fun _ _ => rfl, rest State.marks fun _ _ => rfl⟩
    · refine (copyCommandStart_later die eng queue alive cmds routed started).trans (congrArg _ (if_pos ?_))
      simp [used]
    · have step := copyChunkVisible_of die eng queue alive cmds routed more whole
      refine ⟨fun rest => (step : execCopyChunkVisible s = _).trans (congrArg _ (if_neg (Bool.eq_false_iff.1 rest))), fun one ⟨y, inside, gran⟩ => (step : execCopyChunkVisible s = _).trans (congrArg _ ((if_pos one).trans (if_pos ?_)))⟩
      exact List.any_eq_true.2 ⟨y, inside, List.contains_iff_mem.2 gran⟩
    · have step := copyCommandComplete_of die eng queue alive cmds routed started written credited
      refine ⟨fun good none_ => (step : execCopyCommandComplete s = _).trans ?_, fun i x good fail bad => (step : execCopyCommandComplete s = _).trans ?_, fun x found bad => (step : execCopyCommandComplete s = _).trans ?_⟩
      · rw [good, none_]
        exact congrArg _ (CopyCmd.finish_zero _ _ _)
      · rw [good, fail]
        exact congrArg _ (if_neg bad)
      · rw [found]
        dsimp only
        rw [if_neg bad, Nat.zero_mod, Nat.add_zero]
        rfl
  · intro s c r unit u d cmds alive routed
    have step := catalogueCommandComplete_of unit cmds alive routed
    refine ⟨fun one sound => (step : execCatalogueCommandComplete s = _).trans (congrArg _ ((if_pos one).trans ?_)), ?_⟩
    · have plain : ¬ (s.arg.w.getLsbD 0 = true ∧ s.arg.die < 16) := fun fails => Bool.eq_false_iff.1 sound fails.1
      dsimp only
      rw [if_neg plain]
    · intro t e ends whole
      exact (step : execCatalogueCommandComplete s = _).trans (congrArg _ (if_neg (Bool.eq_false_iff.1 whole)))

end Sys2Proof.Machine
end

section
/-! Vector loads (R155 to R170, R174, R182). -/
namespace Sys2Proof.Machine
open Sys2Proof

variable {s s1 : State} {h : Hart} {f : LM}

/-- A reading of the machine that no hart, no mark, no die and no free value tells. -/
structure State.OffRead {γ : Type} (g : State → γ) : Prop where
  marks : State.OffMarks g
  harts : ∀ s f, g (s.modCur f) = g s
  draw : ∀ s n, g { s with draw := n } = g s
section
variable {γ : Type} {g : State → γ} (keeps : State.OffRead g)
include keeps
theorem State.bump_same (s : State) (h : Hart) (f : LM) (n : Nat) : g (s.bump h f n) = g s := by
  unfold State.bump
  split
  · exact keeps.harts _ _
  · rfl
theorem State.readDone_same (s : State) (items : List Item) : g (s.readDone items) = g s := by
  have seen : g ((s.verify (granules (itemKeys items))).noteSeen (itemKeys items)) = g s := (keeps.harts _ _).trans (State.verify_same g keeps.marks s _)
  unfold State.readDone
  dsimp only
  split
  · exact (keeps.draw _ _).trans seen
  · exact seen
end
theorem State.offRead_mem : State.OffRead State.mem := ⟨fun _ _ _ _ _ => rfl, State.modCur_mem, fun _ _ => rfl⟩
theorem State.offRead_pw : State.OffRead State.pw := ⟨fun _ _ _ _ _ => rfl, State.modCur_pw, fun _ _ => rfl⟩
theorem State.offRead_issue : State.OffRead State.issue := ⟨fun _ _ _ _ _ => rfl, State.modCur_issue, fun _ _ => rfl⟩
theorem State.offRead_queue (p q : Nat) : State.OffRead (fun t => t.queue p q) :=
  ⟨fun _ _ _ _ _ => rfl, fun s f => State.core_modCur_same (fun c : Core => tget ({} : Queue) c.q q) (fun _ _ => rfl) s p f, fun _ _ => rfl⟩

/-- The entries that a load reserves at the tail of its queue. -/
def newEntries (id fN : Nat) (proto : Entry) (fill : Nat → Entry → Entry) : List Entry :=
  (List.range fN).map (fun n => { fill n proto with id := id, st := .reserved, ne := proto.ne, form := proto.form })
theorem State.deliver_same {γ : Type} {g : State → γ} (keeps : State.OffRead g) (queue : ∀ s p q x n, g (({ s with nextId := n } : State).setQueue p q x) = g s) (s : State) (q : Nat) (proto : Entry)
    (fN : Nat) (fill : Nat → Entry → Entry) (fail : Bool) : g (s.deliver q proto fN fill fail) = g s := by
  unfold State.deliver
  dsimp only
  split
  · exact queue s _ _ _ _
  · exact (keeps.harts _ _).trans (queue s _ _ _ _)
theorem State.queue_deliver {q : Nat} (s : State) (proto : Entry) (fN : Nat) (fill : Nat → Entry → Entry) (closed : (s.queue s.issue.core q).openAt = none) :
    (s.deliver q proto fN fill false).queue s.issue.core q = (s.queue s.issue.core q).push s.cycle (newEntries s.nextId fN proto fill) := by
  unfold State.deliver
  dsimp only
  rw [closed, if_neg Bool.false_ne_true]
  exact ((State.offRead_queue _ _).harts _ _).trans (State.queue_setQueue_same _ _ _ _)

/-- What a load leaves whose elements have all been performed, before its post-increments and before what is peculiar to a form. -/
def State.brings (s1 : State) (h : Hart) (f : LM) (j : VJob) (code : Nat) (together : Bool) (items : List Item) : State :=
  ((s1.deliver (f.t.toNat % 8) { fmt := j.fmt, cnt := j.ne, ne := j.ne, form := code + 256 * j.fN } j.fN
    (fun i en => en.fillWith (s1.loaded h items ((fmtAt (mfcLmem h.octrl.mfc)).getD .fp32).width (mfcLsc h.octrl.mfc == 1) j.fmt i)) false).readDone items).keepReads s1 h (f.t.toNat % 8) together (s1.rawsOf items)
/-- The post-increment of the scale register of a load. -/
def State.scaleBump (s : State) (h : Hart) (f : LM) (ne : Nat) : State :=
  if (mfcLsc h.octrl.mfc == 1) = true ∧ f.pi = 1 then s.wrA (mfcLsa h.octrl.mfc) (h.oa (mfcLsa h.octrl.mfc) + BitVec.ofNat 80 ((ne + 31) / 32)) else s
/-- A load whose elements have all been performed (R165). -/
theorem vloadGo_of {form : VForm} {code : Nat} {gll : Bool} {j : VJob} {idx : List Int} {items : List Item}
    (plan : State.plan (s.who s.issue.core h) (if gll then .atomic else .load) f.ord 1
      (j.els h form f ((fmtAt (mfcLmem h.octrl.mfc)).getD .fp32).width idx (if mfcLsc h.octrl.mfc == 1 then some (h.oa (mfcLsa h.octrl.mfc)) else none)) s 0 = (s1, items))
    (ready : s1.vWaits f items = false) (near : s1.farAsk h (itemOks items) = none) (left : j.left items = []) :
    vloadGo form code gll f h j idx s =
      let brought := s1.brings h f j code (together gll f) items
      let linked := if gll then brought.modCur (fun h => { h with links := linksOf (items.filter (fun i => i.el.fl != 255)) }) else brought
      ((if form = .index then linked.deq (f.x.toNat % 8) 1 else linked).bump h f).scaleBump h f j.ne := by
  unfold vloadGo
  dsimp only
  rw [plan]
  dsimp only
  rw [if_neg (Bool.eq_false_iff.1 ready), near, left]
  rfl
theorem vload_none {form : VForm} {code : Nat} {gll : Bool} {l : List Entry} (cur : s.cur = some h) (zero : h.octrl.vl = 0) (heads : s.headsIf (form == .index) (f.x.toNat % 8) 1 = some l) :
    vload form code gll f s = .next ((if gll then (if form = .index then s.deq (f.x.toNat % 8) 1 else s).modCur (fun h => { h with links := [] }) else (if form = .index then s.deq (f.x.toNat % 8) 1 else s)).bump h f) := by
  refine (onHart_of _ cur).trans (congrArg _ ((if_pos zero).trans ?_))
  rw [heads]
theorem vload_of {form : VForm} {code : Nat} {gll : Bool} {l : List Entry} {idx : List Int} (cur : s.cur = some h) (some_ : h.octrl.vl ≠ 0)
    (good : ldRefused h.octrl.mfc form (form == .unit || gll) f.a.toNat = false)
    (short : form = .seg ∨ (form = .index ∧ gll = false) → h.octrl.vl * ((fmtAt (mfcLreg h.octrl.mfc)).getD .fp32).perCell ≤ 256)
    (links : gll = true → ((fmtAt (mfcLmem h.octrl.mfc)).getD .fp32).width = 32 ∧ (fmtAt (mfcLreg h.octrl.mfc)).getD .fp32 = .fp32)
    (heads : s.headsIf (form == .index) (f.x.toNat % 8) 1 = some l)
    (index : (if form = .index then indexOf (headOf l) (h.octrl.vl * ((fmtAt (mfcLreg h.octrl.mfc)).getD .fp32).perCell) else some []) = some idx)
    (dest : s.destCheck h (f.t.toNat % 8) h.octrl.vl (h.octrl.vl * ((fmtAt (mfcLreg h.octrl.mfc)).getD .fp32).perCell) (code + 256 * segF form f) (segF form f) = .ok false) :
    vload form code gll f s = .next (vloadGo form code gll f h
      { fmt := (fmtAt (mfcLreg h.octrl.mfc)).getD .fp32, ne := h.octrl.vl * ((fmtAt (mfcLreg h.octrl.mfc)).getD .fp32).perCell, fN := segF form f, mask := s.vmask h f true } idx s) := by
  refine (onHart_of _ cur).trans (congrArg _ ((if_neg some_).trans ((if_neg (Bool.eq_false_iff.1 good)).trans ((if_neg ?_).trans ((if_neg ?_).trans ?_)))))
  · exact fun ⟨form_, long⟩ => Nat.not_lt.2 (short form_) long
  · exact fun ⟨gll_, no⟩ => no.elim (fun no => no (links gll_).1) (fun no => no (links gll_).2)
  · rw [heads]
    dsimp only
    rw [index]
    dsimp only
    rw [dest]

theorem State.scaleBump_same {γ : Type} {g : State → γ} (keeps : State.OffRead g) (s : State) (h : Hart) (f : LM) (ne : Nat) : g (s.scaleBump h f ne) = g s := by
  unfold State.scaleBump
  split
  · exact keeps.harts _ _
  · rfl

/-- Settles O17: the loads by unit, by stride and of segments. -/
theorem vectorLoads : Obligations.VectorLoads := by
  intro s h f cur m lm lr mx ne q completes
  have form_ (form : VForm) (code : Nat) (i : Instr) (vector : form ≠ .index) (run : exec i s = vload form code false f s) : completes form code i := by
    unfold completes
    intro fN j pl fill t last
    have plain : (form == .index) = false := beq_eq_false_iff_ne.2 vector
    have heads : s.headsIf (form == .index) (f.x.toNat % 8) 1 = some [] := by rw [plain]; rfl
    refine ⟨fun zero => ?_, fun some_ good short dest ready near left => ?_⟩
    · refine run.trans ((vload_none cur zero heads).trans ?_)
      rw [if_neg vector]
      rfl
    · have goes := vload_of (code := code) (gll := false) (idx := []) cur some_ (by rw [Bool.or_false]; exact good) (fun is => short (is.resolve_right fun is => vector is.1)) (fun no => Bool.noConfusion no) heads (if_neg vector) dest
      have ends := vloadGo_of (code := code) (gll := false) (j := j) (idx := []) (items := pl.2) (s1 := pl.1) rfl ready near left
      have last_eq : last = (((pl.1.brings h f j code (together false f) pl.2)).bump h f).scaleBump h f ne := rfl
      dsimp only at ends
      rw [if_neg vector] at ends
      have same {γ : Type} {g : State → γ} (keeps : State.OffRead g) : g last = g (pl.1.deliver q { fmt := lr, cnt := ne, ne := ne, form := code + 256 * fN } fN fill false) :=
        (State.scaleBump_same keeps _ _ _ _).trans ((State.bump_same keeps _ _ _ _).trans ((keeps.harts _ _).trans (State.readDone_same keeps _ _)))
      refine ⟨run.trans (goes.trans (congrArg _ ends)), (same State.offRead_mem).trans (State.deliver_same State.offRead_mem (fun _ _ _ _ _ => rfl) _ _ _ _ _ _),
        (same State.offRead_pw).trans (State.deliver_same State.offRead_pw (fun _ _ _ _ _ => rfl) _ _ _ _ _ _), (same State.offRead_issue).trans (State.deliver_same State.offRead_issue (fun _ _ _ _ _ => rfl) _ _ _ _ _ _),
        fun closed here => ?_⟩
      rw [← here] at closed ⊢
      exact (same (State.offRead_queue _ _)).trans (State.queue_deliver _ _ _ _ closed)
  exact ⟨form_ .unit 0x10 (.vld f) (by decide) rfl, form_ .stride 0x11 (.vlds f) (by decide) rfl, form_ .seg 0x12 (.vldseg f) (by decide) rfl⟩

/-- Settles O18: the indexed load, and the load that links. -/
theorem indexedLoads : Obligations.IndexedLoads := by
  constructor
  · intro s h f l cur zero heads t
    have none_ (code : Nat) (gll : Bool) := vload_none (form := .index) (code := code) (gll := gll) cur zero heads
    exact ⟨none_ 0x13 false, none_ 0x2C true⟩
  · intro s s1 h f gll lr en idx items cur m lm mx ne code acc j q iq some_ reg good short links heads index dest plan ready near left brought linked last
    have run : exec (if gll then .gll f else .vldx f) s = vload .index code gll f s := by cases gll <;> rfl
    have reg_ : (fmtAt (mfcLreg h.octrl.mfc)).getD .fp32 = lr := by rw [show fmtAt (mfcLreg h.octrl.mfc) = some lr from reg]; rfl
    have goes := vload_of (form := .index) (code := code) (gll := gll) (idx := idx) (l := [en]) cur some_ good
    rw [reg_] at goes
    refine run.trans ((goes (fun is => short (is.resolve_left (by decide)).2) links heads index dest).trans (congrArg _ ?_))
    exact vloadGo_of (form := .index) (code := code) (gll := gll) (j := j) plan ready near left

end Sys2Proof.Machine
end

section
/-! The load of a compressed stream (R163, R164). -/
namespace Sys2Proof.Machine
open Sys2Proof

variable {s : State} {h : Hart} {f : LM} {j : VJob} {c : Scan}

/-- The elements of a stream that a load delivers. -/
def Scan.values (c : Scan) (h : Hart) (j : VJob) : List (Nat × Nat × Bool) :=
  c.raw.zipIdx.filterMap (fun (x, e) => if j.active 0 e then some (e, if x.2 then poisonVal j.fmt else loadElem h (c.s.core c.s.issue.core).pgseed x.1 e none, x.2) else none)
/-- The elements of a stream as they were read. -/
def Scan.raws (c : Scan) (j : VJob) : List VRaw :=
  (c.raw.zip c.oks).zipIdx.filterMap (fun (x, e) => if j.active 0 e then some { e := e, fl := 0, bo := 0, bytes := leBytes x.2.length x.1.1, bad := x.1.2, oks := x.2 } else none)
/-- What a stream leaves whose elements are in their entry. -/
def Scan.delivered (c : Scan) (h : Hart) (f : LM) (j : VJob) : State :=
  let s1 := (c.s.verify (granules c.ks)).noteSeen c.ks
  if c.raw.length = 0 then s1
  else (s1.deliver (f.t.toNat % 8) { fmt := j.fmt, cnt := c.raw.length, ne := j.ne, form := 0x114 } 1 (fun _ en => en.fillWith (c.values h j)) false).keepReads s1 h (f.t.toNat % 8) true (c.raws j)
/-- What a stream leaves that no fault ends. -/
def Scan.ends (c : Scan) (h : Hart) (f : LM) (j : VJob) : State :=
  (((c.delivered h f j).modCtrl (fun q => { q with vl := (c.raw.length + j.fmt.perCell - 1) / j.fmt.perCell })).wrG f.x.toNat (h.og f.x.toNat - BitVec.ofNat 64 c.u)).bump h f c.u
theorem vldcDone_of (sound : c.fault = none) : vldcDone f h j c = c.ends h f j := by
  unfold vldcDone
  dsimp only
  rw [sound]
  rfl
theorem Scan.ends_same {γ : Type} {g : State → γ} (keeps : State.OffRead g) (queue : ∀ s p q x n, g (({ s with nextId := n } : State).setQueue p q x) = g s) : g (c.ends h f j) = g c.s := by
  have seen : g ((c.s.verify (granules c.ks)).noteSeen c.ks) = g c.s := (keeps.harts _ _).trans (State.verify_same g keeps.marks c.s _)
  have delivered : g (c.delivered h f j) = g c.s := by
    unfold Scan.delivered
    dsimp only
    split
    · exact seen
    · exact (keeps.harts _ _).trans ((State.deliver_same keeps queue _ _ _ _ _ _).trans seen)
  exact (State.bump_same keeps _ _ _ _).trans ((keeps.harts _ _).trans ((keeps.harts _ _).trans delivered))
theorem vldc_of (cur : s.cur = some h) (some_ : h.octrl.vl ≠ 0) (good : ldRefused h.octrl.mfc .stride false f.a.toNat = false)
    (dest : s.destCheck h (f.t.toNat % 8) h.octrl.vl (h.octrl.vl * ((fmtAt (mfcLreg h.octrl.mfc)).getD .fp32).perCell) 0x114 1 = .ok false)
    (read : scan (s.who s.issue.core h) f (((fmtAt (mfcLmem h.octrl.mfc)).getD .fp32).width / 8) (h.octrl.vl * ((fmtAt (mfcLreg h.octrl.mfc)).getD .fp32).perCell) (h.og f.x.toNat).toNat (h.vbase f)
      (h.octrl.vl * ((fmtAt (mfcLreg h.octrl.mfc)).getD .fp32).perCell + 1) { s := s } = c)
    (ready : c.wait = false) (near : c.s.farAsk h c.oks.flatten = none) :
    execVldc f s = .next (vldcDone f h
      { fmt := (fmtAt (mfcLreg h.octrl.mfc)).getD .fp32, ne := h.octrl.vl * ((fmtAt (mfcLreg h.octrl.mfc)).getD .fp32).perCell, mask := s.vmask h f true } c) := by
  refine (onHart_of _ cur).trans (congrArg _ ((if_neg some_).trans ((if_neg (Bool.eq_false_iff.1 good)).trans ?_)))
  dsimp only
  rw [dest]
  dsimp only
  rw [read, if_neg (Bool.eq_false_iff.1 ready), near]

/-- Settles O23: the compressed load. -/
theorem compressedLoad : Obligations.CompressedLoad := by
  intro s h f cur m lr ne j c n vals s1 raws s2 t
  refine ⟨fun zero => (onHart_of _ cur).trans (congrArg _ (if_pos zero)), fun some_ good dest ready sound near => ?_⟩
  have t_eq : t = c.ends h f j := rfl
  rw [t_eq]
  refine ⟨?_, Scan.ends_same State.offRead_mem fun _ _ _ _ _ => rfl, Scan.ends_same State.offRead_issue fun _ _ _ _ _ => rfl⟩
  exact (vldc_of cur some_ good dest rfl ready near).trans (congrArg _ (vldcDone_of sound))

end Sys2Proof.Machine
end

section
/-! Vector stores and atomics (R155, R158 to R161, R172 to R177, R185 to R188, R293). -/
namespace Sys2Proof.Machine
open Sys2Proof

variable {s s1 : State} {h : Hart} {f : LM}

/-! Elements that have all been performed. -/
theorem Item.bad_of_ok {i : Item} (good : i.ok.isSome = true) : i.bad = none := by
  unfold Item.ok at good
  unfold Item.bad
  cases e : i.res with
  | ok l => rfl
  | error x => rw [e] at good; exact absurd good Bool.false_ne_true
theorem anyWait_none {items : List Item} (good : ∀ x ∈ items, x.ok.isSome = true) : anyWait items = false :=
  List.any_eq_false.2 fun x inside => by rw [Item.bad_of_ok (good x inside)]; exact Bool.false_ne_true
theorem filter_ok {items : List Item} (good : ∀ x ∈ items, x.ok.isSome = true) (p : Item → Bool) : items.filter (fun i => i.ok.isSome && p i) = items.filter p :=
  List.filter_congr fun x inside => by rw [good x inside, Bool.true_and]
/-- What is judged of an access are elements of it. -/
theorem State.plan_els (w : Who) (acc : Acc) (ord : Bool) (align : Nat) (l : List El) (s : State) (skip : Nat) {i : Item} (inside : i ∈ (State.plan w acc ord align l s skip).2) : i.el ∈ l := by
  induction l generalizing s skip with
  | nil => exact absurd inside (by simp [State.plan])
  | cons x l ih =>
    unfold State.plan at inside
    split at inside
    · exact List.mem_cons_of_mem _ (ih _ _ inside)
    · dsimp only at inside
      split at inside
      · rcases List.mem_cons.1 inside with rfl | rest
        · exact List.mem_cons_self ..
        · exact List.mem_cons_of_mem _ (ih _ _ rest)
      · split at inside
        · rw [List.mem_singleton.1 inside]
          exact List.mem_cons_self ..
        · rcases List.mem_cons.1 inside with rfl | rest
          · exact List.mem_cons_self ..
          · exact List.mem_cons_of_mem _ (ih _ _ rest)
theorem VJob.els_field {j : VJob} {form : VForm} {wm : Nat} {idx : List Int} {x : El} (inside : x ∈ j.els h form f wm idx none) : x.fl < j.fN := by
  obtain ⟨e, -, there⟩ := List.mem_flatMap.1 inside
  obtain ⟨fl, field, rfl⟩ := List.mem_map.1 there
  exact List.mem_range.1 (List.mem_filter.1 field).1

/-! Stores. -/
/-- What an element of a store writes in memory, by the entries that it takes its fields from and the blocks of a microscaled store. -/
def storePuts (h : Hart) (seed : Word) (sm : Fmt) (mx : Bool) (blocks : List (Nat × List Nat)) (es : List Entry) (i : Item) : List Put :=
  if i.el.fl = 255 then itemPuts i 8 (blocks.getD (i.el.e / 32) (0, [])).1 false
  else itemPuts i sm.width (if mx then (blocks.getD (i.el.e / 32) (0, [])).2.getD (i.el.e % 32) 0 else storeElem h seed (es.getD i.el.fl {}) i.el) ((es.getD i.el.fl {}).elem i.el.e).2
/-- A store whose elements all translate and are not held up. -/
theorem vstoreGo_of {form : VForm} {scc : Bool} {sm : Fmt} {j : VJob} {es : List Entry} {idx : List Int} {items doing : List Item} (mem : fmtAt (mfcSmem h.octrl.mfc) = some sm)
    (plan : State.plan (s.who s.issue.core h) (if scc then .atomic else .store) f.ord 1
      (j.els h form f sm.width idx (if mfcSsc h.octrl.mfc == 1 then some (h.oa (mfcSsa h.octrl.mfc)) else none)) s 0 = (s1, items))
    (good : ∀ x ∈ items, x.ok.isSome = true) (doing_ : items.filter (fun i => !scc || (if scc then sccWins s1 h items else []).contains i.el.e) = doing)
    (own : (scc && s1.ownPending (itemKeys doing)) = false) (near : s1.farAsk h (itemOks doing) = none) (whole : failures items = []) :
    vstoreGo form scc f h j es idx s =
      let puts := storePuts h (s.core s.issue.core).pgseed sm (mfcSsc h.octrl.mfc == 1) (if mfcSsc h.octrl.mfc == 1 then mxBlocks h (s.core s.issue.core).pgseed f (headOf es) else []) es
      let s2 := s1.sendEls f scc (doing.map (fun i => (puts i, i.away)))
      let s4 := (if scc && anyAway items then s2.drawn else s2).noteWrites s1 false f.acq
      let left := if scc then (j.actives.filter (fun e => !(sccWins s1 h items).contains e)).map (fun e => (e, 0)) else j.left items
      let s5 := s4.deq (8 + f.t.toNat % 2) j.fN
      let s6 := if form = .index then s5.deq (f.x.toNat % 8) 1 else s5
      let s8 := (if scc then s6.wrK (mfcPck h.octrl.mfc) (j.partialMask left) else s6).bump h f
      if (mfcSsc h.octrl.mfc == 1) = true ∧ f.pi = 1 then s8.wrA (mfcSsa h.octrl.mfc) (h.oa (mfcSsa h.octrl.mfc) + BitVec.ofNat 80 ((j.ne + 31) / 32)) else s8 := by
  have performed : items.filter (fun i => i.ok.isSome && (!scc || (if scc then sccWins s1 h items else []).contains i.el.e)) = doing := (filter_ok good _).trans doing_
  have free : ¬ ((anyWait items || (scc && s1.ownPending (itemKeys doing))) = true) := by
    rw [anyWait_none good, own]
    decide
  unfold vstoreGo
  dsimp only
  rw [mem, Option.getD_some, plan]
  dsimp only
  rw [performed, if_neg free, near, whole]
  cases scc <;> rfl
theorem vstore_of {form : VForm} {scc : Bool} {sm : Fmt} {es hs : List Entry} {idx : List Int} (cur : s.cur = some h) (mem : fmtAt (mfcSmem h.octrl.mfc) = some sm)
    (good : stRefused h.octrl.mfc form (form == .unit || scc) f.a.toNat = false) (heads : (s.queue s.issue.core (8 + f.t.toNat % 2)).heads s.cycle (segF form f) = some es)
    (short : form = .seg ∨ (form = .index ∧ scc = false) → (headOf es).cnt ≤ 256) (mx : mfcSsc h.octrl.mfc = 1 → (headOf es).fmt = .fp32 ∨ (headOf es).fmt = .bf16 ∨ (headOf es).fmt = .fp16)
    (same : ∀ e ∈ es, (e.fmt = .bx ↔ sm = .bx) ∧ e.cnt = (headOf es).cnt) (links : scc = true → sm.width = 32 ∧ (headOf es).fmt.width = 32 ∧ mfcPck h.octrl.mfc ≠ 0)
    (index : s.headsIf (form == .index) (f.x.toNat % 8) 1 = some hs) (numbers : (if form = .index then indexOf (headOf hs) (headOf es).cnt else some []) = some idx)
    (released : f.rel = false ∨ s.relReady h f.sc.toNat = true) :
    vstore form scc f s = .next (
      let j : VJob := { fmt := (headOf es).fmt, ne := (headOf es).cnt, fN := segF form f, mask := s.vmask h f false, fmts := if form = .seg then es.map (·.fmt) else [] }
      if scc ∧ stepwise f then sccStep f h j (s.vpendNow (headOf es) idx) s else vstoreGo form scc f h j es idx s) := by
  have plain : sm = .bx → mfcSsc h.octrl.mfc = 0 := by
    rintro rfl
    unfold stRefused at good
    rw [mem] at good
    simp only [Bool.or_eq_false_iff, decide_eq_false_iff_not, Bool.and_eq_false_iff, beq_eq_false_iff_ne] at good
    obtain ⟨⟨⟨⟨-, small⟩, -⟩, one⟩, -⟩ := good
    have not_one : mfcSsc h.octrl.mfc ≠ 1 := one.resolve_right (by simp [isMx])
    omega
  have bx : ¬ (sm = .bx ∧ es.any (fun e => e.fmt != .bx) = true) := by
    rintro ⟨is, other⟩
    obtain ⟨e, inside, no⟩ := List.any_eq_true.1 other
    exact bne_iff_ne.1 no ((same e inside).1.2 is)
  have alike : ¬ (es.any (fun e => (e.fmt == .bx && (sm != .bx || mfcSsc h.octrl.mfc != 0)) || e.cnt != (headOf es).cnt) = true) := by
    intro other
    obtain ⟨e, inside, no⟩ := List.any_eq_true.1 other
    obtain ⟨fmt, cnt⟩ := same e inside
    rcases Bool.or_eq_true_iff.1 no with no | no
    · obtain ⟨is, no⟩ := Bool.and_eq_true_iff.1 no
      have is := fmt.1 (eq_of_beq is)
      rw [plain is, is] at no
      exact absurd no (by decide)
    · exact bne_iff_ne.1 no cnt
  have blocks : ¬ (mfcSsc h.octrl.mfc = 1 ∧ (!((headOf es).fmt == .fp32 || (headOf es).fmt == .bf16 || (headOf es).fmt == .fp16)) = true) := by
    rintro ⟨one, no⟩
    rcases mx one with fmt | fmt | fmt <;> rw [fmt] at no <;> exact absurd no (by decide)
  have linked : ¬ (scc = true ∧ (sm.width ≠ 32 ∨ (headOf es).fmt.width ≠ 32 ∨ mfcPck h.octrl.mfc = 0)) := by
    rintro ⟨scc_, no⟩
    obtain ⟨width, fmt, mask⟩ := links scc_
    exact no.elim (fun no => no width) (fun no => no.elim (fun no => no fmt) (fun no => mask no))
  have ready : ¬ (f.rel = true ∧ (!s.relReady h f.sc.toNat) = true) := by
    rintro ⟨rel, wait⟩
    rcases released with no | ready
    · exact Bool.eq_false_iff.1 no rel
    · rw [ready] at wait
      exact Bool.noConfusion wait
  refine (onHart_of _ cur).trans (congrArg _ ((if_neg (Bool.eq_false_iff.1 good)).trans ?_))
  rw [show s.headsIf true (8 + f.t.toNat % 2) (segF form f) = some es from heads]
  dsimp only
  rw [mem, Option.getD_some, if_neg fun ⟨form_, long⟩ => Nat.not_lt.2 (short form_) long, if_neg blocks, if_neg bx, if_neg linked, index]
  dsimp only
  rw [if_neg alike, numbers]
  dsimp only
  rw [if_neg ready]

/-- Settles O19: the stores by unit, by stride and of segments. -/
theorem vectorStores : Obligations.VectorStores := by
  intro s s1 h f form i sm es items cur which m fN dq en mx j seed block puts mem good heads short blocks same released plan performed near whole els sent t
  have vector : form ≠ .index ∧ exec i s = vstore form false f s := by
    simp only [List.mem_cons, Prod.mk.injEq, List.not_mem_nil, or_false] at which
    rcases which with ⟨rfl, rfl⟩ | ⟨rfl, rfl⟩ | ⟨rfl, rfl⟩
    · exact ⟨by decide, rfl⟩
    · exact ⟨by decide, rfl⟩
    · exact ⟨by decide, rfl⟩
  obtain ⟨vector, run⟩ := vector
  have plain : (form == .index) = false := beq_eq_false_iff_ne.2 vector
  have index : s.headsIf (form == .index) (f.x.toNat % 8) 1 = some [] := by rw [plain]; rfl
  have goes := vstore_of (scc := false) (idx := []) cur mem (by rw [Bool.or_false]; exact good) heads (fun is => short (is.resolve_right fun is => vector is.1)) (fun one => blocks (beq_of_eq one)) same
    (fun no => Bool.noConfusion no) index (if_neg vector) released
  have doing : items.filter (fun i => !false || (if false then sccWins s1 h items else []).contains i.el.e) = items := by simp
  have ends := vstoreGo_of (scc := false) (j := j) (es := es) (idx := []) mem plan performed doing rfl near whole
  dsimp only at ends
  rw [if_neg vector] at ends
  refine run.trans (goes.trans (congrArg _ ((if_neg fun no => Bool.noConfusion no.1).trans (ends.trans ?_))))
  have sent_ : s1.sendEls f false els = sent := by
    unfold State.sendEls
    rw [Bool.not_false, Bool.and_true]
  exact congrArg (fun u : State => let t := ((u.noteWrites s1 false f.acq).deq dq fN).bump h f
    if mx = true ∧ f.pi = 1 then t.wrA (mfcSsa m) (h.oa (mfcSsa m) + BitVec.ofNat 80 ((en.cnt + 31) / 32)) else t) sent_

end Sys2Proof.Machine
end

section
/-! Indexed stores and vector atomics (R173, R174, R187, R188, R293). -/
namespace Sys2Proof.Machine
open Sys2Proof

variable {s s1 : State} {h : Hart} {f : LM}

/-! Indexed stores. -/
/-- A store of FP32 words is not refused. -/
theorem stRefused_fp32 {m : Word} {form : VForm} {narrow : Bool} {base : Nat} (mem : fmtAt (mfcSmem m) = some .fp32) (rounds : mfcSrm m < 6) (plain : mfcSsc m = 0) : stRefused m form narrow base = false := by
  have small : decide (6 ≤ mfcSrm m) = false := decide_eq_false (by omega)
  unfold stRefused
  rw [mem]
  dsimp only
  rw [small, plain]
  cases narrow <;> rfl
/-- The writes of the elements of an indexed store of words. -/
def wordEls (h : Hart) (seed : Word) (en : Entry) (l : List Item) : List (List Put × List XOk) := l.map (fun x => (itemPuts x 32 (storeElem h seed en x.el) (en.elem x.el.e).2, x.away))
theorem storePuts_word {seed : Word} {blocks : List (Nat × List Nat)} {en : Entry} {i : Item} (field : i.el.fl = 0) :
    storePuts h seed .fp32 false blocks [en] i = itemPuts i 32 (storeElem h seed en i.el) (en.elem i.el.e).2 := by
  unfold storePuts
  rw [field]
  rfl
section
variable {en ix : Entry} {idx : List Int} (cur : s.cur = some h) (mem : fmtAt (mfcSmem h.octrl.mfc) = some .fp32) (rounds : mfcSrm h.octrl.mfc < 6) (plain : mfcSsc h.octrl.mfc = 0)
  (fmt : en.fmt = .fp32) (short : en.cnt ≤ 256) (heads : (s.queue s.issue.core (8 + f.t.toNat % 2)).heads s.cycle 1 = some [en])
  (index : (s.queue s.issue.core (f.x.toNat % 8)).heads s.cycle 1 = some [ix]) (numbers : indexOf ix en.cnt = some idx) (released : f.rel = false ∨ s.relReady h f.sc.toNat = true)
include cur mem rounds plain fmt short heads index numbers released
theorem vstore_index {scc : Bool} (links : scc = true → mfcPck h.octrl.mfc ≠ 0) : vstore .index scc f s = .next (
    if scc ∧ stepwise f then sccStep f h { fmt := en.fmt, ne := en.cnt, mask := s.vmask h f false } (s.vpendNow en idx) s
    else vstoreGo .index scc f h { fmt := en.fmt, ne := en.cnt, mask := s.vmask h f false } [en] idx s) := by
  refine vstore_of (sm := .fp32) (es := [en]) (hs := [ix]) cur mem (stRefused_fp32 mem rounds plain) heads (fun _ => short) (fun one => ?_) (fun e inside => ?_) (fun scc_ => ⟨rfl, ?_, links scc_⟩) index numbers released
  · rw [plain] at one
    exact absurd one (by decide)
  · rw [List.mem_singleton.1 inside]
    exact ⟨by rw [fmt], rfl⟩
  · show en.fmt.width = 32
    rw [fmt]
    rfl
end
/-- An indexed store of words whose elements all translate. -/
theorem vstoreGo_index {scc : Bool} {j : VJob} {en : Entry} {idx : List Int} {items doing : List Item} (mem : fmtAt (mfcSmem h.octrl.mfc) = some .fp32) (plain : mfcSsc h.octrl.mfc = 0) (one : j.fN = 1)
    (plan : State.plan (s.who s.issue.core h) (if scc then .atomic else .store) f.ord 1 (j.els h .index f 32 idx none) s 0 = (s1, items)) (good : ∀ x ∈ items, x.ok.isSome = true)
    (doing_ : items.filter (fun i => !scc || (if scc then sccWins s1 h items else []).contains i.el.e) = doing) (own : (scc && s1.ownPending (itemKeys doing)) = false)
    (near : s1.farAsk h (itemOks doing) = none) (whole : failures items = []) :
    vstoreGo .index scc f h j [en] idx s =
      let s2 := s1.sendEls f scc (wordEls h (s.core s.issue.core).pgseed en doing)
      let s4 := (if scc && anyAway items then s2.drawn else s2).noteWrites s1 false f.acq
      let left := if scc then (j.actives.filter (fun e => !(sccWins s1 h items).contains e)).map (fun e => (e, 0)) else j.left items
      let s6 := (s4.deq (8 + f.t.toNat % 2) 1).deq (f.x.toNat % 8) 1
      (if scc then s6.wrK (mfcPck h.octrl.mfc) (j.partialMask left) else s6).bump h f := by
  have scale : (mfcSsc h.octrl.mfc == 1) = false := by rw [plain]; rfl
  have field (i : Item) (inside : i ∈ doing) : i.el.fl = 0 := by
    have there : i ∈ items := by
      rw [← doing_] at inside
      exact (List.mem_filter.1 inside).1
    rw [show items = (State.plan (s.who s.issue.core h) (if scc then .atomic else .store) f.ord 1 (j.els h .index f 32 idx none) s 0).2 by rw [plan]] at there
    have less := VJob.els_field (State.plan_els _ _ _ _ _ _ _ there)
    omega
  have els (seed : Word) (blocks : List (Nat × List Nat)) : doing.map (fun i => (storePuts h seed .fp32 false blocks [en] i, i.away)) = wordEls h seed en doing :=
    List.map_congr_left fun i inside => by rw [storePuts_word (field i inside)]
  refine (vstoreGo_of mem (by rw [scale]; exact plan) good doing_ own near whole).trans ?_
  dsimp only
  rw [scale, els, one, if_neg fun no => Bool.false_ne_true no.1]
  rfl
/-- The next element of an SCC that goes by elements, not the last. -/
theorem sccStep_of {j : VJob} {v : VPend} {i : Item} (next_ : s.vecNext f h false 1 j v = .next s1 i) (good : i.ok.isSome = true) (here : i.away = []) (first : v.done = []) :
    let won := (sccWins s1 h [i]).contains i.el.e
    let v1 : VPend := { v with done := [{ e := i.el.e, wrote := won, grans := (linksOf [i]).map (·.2) }] }
    j.more v1 = true → sccStep f h j v s =
      (if won then (s1.sendPuts (itemPuts i 32 (storeElem h (s1.core s1.issue.core).pgseed v.src i.el) (v.src.elem i.el.e).2) true).noteWrites s1 false f.acq else s1).modCur
        (fun h => { h with vpend := some v1 }) := by
  intro won v1 more
  have ok : ¬ (i.ok.isNone = true) := by
    rw [Option.isNone_iff_eq_none]
    exact Option.isSome_iff_ne_none.1 good
  have sent (l : List Put) : s1.sendEls f true [(l, i.away)] = s1.sendPuts l true := by
    unfold State.sendEls
    rw [Bool.not_true, Bool.and_false, here]
    simp [State.sendAway]
  unfold sccStep
  rw [next_]
  dsimp only
  rw [if_neg ok, first, List.flatMap_nil, List.nil_append, sent, here, if_pos more]
  rfl

/-- Settles O20: the indexed store, and the conditional one by links. -/
theorem indexedStores : Obligations.IndexedStores := by
  intro s s1 h f en ix idx items cur m dq iq j seed els mem rounds plain fmt short heads index numbers released performed whole
  have good : ∀ x ∈ items, x.ok.isSome = true := fun x inside => (performed x inside).1
  have starts (scc : Bool) := vstore_index (scc := scc) cur mem rounds plain fmt short heads index numbers released
  refine ⟨fun plan near => ?_, fun plan mask own stepless => ?_, fun i mask own steps next_ ok here => ?_⟩
  · have doing : items.filter (fun i => !false || (if false then sccWins s1 h items else []).contains i.el.e) = items := by simp
    refine (starts false (fun no => Bool.noConfusion no)).trans (congrArg _ ((if_neg fun no => Bool.false_ne_true no.1).trans ?_))
    exact vstoreGo_index (scc := false) mem plain rfl plan good doing rfl near whole
  · intro wins doing sent free near
    have run : exec (.scc f) s = vstore .index true f s := by
      show execScc f s = _
      unfold execScc
      rw [if_neg (Bool.eq_false_iff.1 own)]
    have doing_ : items.filter (fun i => !true || (if true then sccWins s1 h items else []).contains i.el.e) = doing := by simp [doing, wins]
    refine run.trans ((starts true (fun _ => mask)).trans (congrArg _ ((if_neg fun no => Bool.eq_false_iff.1 stepless no.2).trans ?_)))
    refine (vstoreGo_index (scc := true) mem plain rfl plan good doing_ free near whole).trans ?_
    have sent_ : s1.sendEls f true (wordEls h (s.core s.issue.core).pgseed en doing) = sent := by
      unfold State.sendEls
      rw [Bool.not_true, Bool.and_false]
      rfl
    dsimp only
    rw [sent_]
    rfl
  · intro won v more
    have run : exec (.scc f) s = vstore .index true f s := by
      show execScc f s = _
      unfold execScc
      rw [if_neg (Bool.eq_false_iff.1 own)]
    refine run.trans ((starts true (fun _ => mask)).trans (congrArg _ ((if_pos ⟨rfl, steps⟩).trans ?_)))
    exact sccStep_of (j := j) next_ ok here rfl more

/-! Vector atomics. -/
/-- What an atomic's elements leave, with their old words. -/
def vamoRun (en : Entry) (op : Nat → Nat → Nat) (order : List Item) (s : State) : State × List (Nat × Nat × Bool) :=
  order.foldl (fun (t : State × List (Nat × Nat × Bool)) x =>
    let r := t.1.vamoOne (x.ok.getD []) (en.elem x.el.e).1 (en.elem x.el.e).2 op
    (r.1, t.2 ++ [(x.el.e, r.2.1, r.2.2)])) (s, [])
section
variable {s2 : State} {code : Nat} {en ix : Entry} {idx : List Int} {items order : List Item} {op : Nat → Nat → Nat}
theorem vamo_of (cur : s.cur = some h) (fresh : s.issue.vec = false) (heads : (s.queue s.issue.core (8 + f.t.toNat % 2)).heads s.cycle 1 = some [en])
    (index : (s.queue s.issue.core (f.x.toNat % 8)).heads s.cycle 1 = some [ix]) (numbers : indexOf ix h.octrl.vl = some idx) (width : en.fmt.width = 32) (cnt : en.cnt = h.octrl.vl)
    (released : f.rel = false ∨ s.relReady h f.sc.toNat = true) (dest : f.vret = true → s.destCheck h (f.t.toNat / 2 % 8) h.octrl.vl h.octrl.vl (code + 256) 1 = .ok false) :
    vamo code f s op = .next (
      let j : VJob := { fmt := .fp32, ne := h.octrl.vl, mask := s.vmask h f false }
      if stepwise f then vamoBegin f code h j op (s.vpendNow en idx) s else vamoGo f code h j en idx op s) := by
  have room : (if f.vret then s.destCheck h (f.t.toNat / 2 % 8) h.octrl.vl h.octrl.vl (code + 256) 1 else .ok false) = .ok false := by
    split
    · exact dest ‹_›
    · rfl
  have ready : ¬ (f.rel = true ∧ (!s.relReady h f.sc.toNat) = true) := by
    rintro ⟨rel, wait⟩
    rcases released with no | ready
    · exact Bool.eq_false_iff.1 no rel
    · rw [ready] at wait
      exact Bool.noConfusion wait
  refine (onHart_of _ cur).trans (congrArg _ ?_)
  rw [if_neg (Bool.eq_false_iff.1 fresh), show s.headsIf true (8 + f.t.toNat % 2) 1 = some [en] from heads, show s.headsIf true (f.x.toNat % 8) 1 = some [ix] from index]
  dsimp only [headOf, List.headD_cons]
  refine (if_neg (not_not_intro width)).trans ((if_neg (not_not_intro cnt)).trans ?_)
  rw [numbers]
  dsimp only
  rw [room]
  dsimp only
  rw [if_neg ready]
theorem vamoGo_of {j : VJob} (plan : State.plan (s.who s.issue.core h) .atomic f.ord 4 (j.els h .index f 32 idx none) s 0 = (s1, items)) (good : ∀ x ∈ items, x.ok.isSome = true) (left : j.left items = [])
    (ready : s1.vWaits f items = false) (near : s1.farAsk h (itemOks items) = none) (order_ : vamoOrder f.ord (s1.readDone items) items = (s2, order)) :
    vamoGo f code h j en idx op s =
      let run := vamoRun en op order s2
      let t := run.1.noteWrites s1 false f.acq
      let back := if f.vret then t.deliver (f.t.toNat / 2 % 8) (vamoProto code j) 1 (fun _ e => e.fillWith run.2) false else t
      (back.deq (8 + f.t.toNat % 2) 1).deq (f.x.toNat % 8) 1 := by
  have doing : items.filter (fun i => i.ok.isSome) = items := List.filter_eq_self.2 good
  have free : ¬ ((anyWait items || s1.vWaits f items) = true) := by
    rw [anyWait_none good, ready]
    decide
  unfold vamoGo
  dsimp only
  rw [plan]
  dsimp only
  rw [doing, if_neg free, near]
  dsimp only
  rw [order_, left]
  rfl
theorem vamoBegin_of {j : VJob} {v : VPend} {x : Item} (quiet : f.vret = false) (next_ : s.vecNext f h true 4 j v = .next s1 x) (good : x.ok.isSome = true) (first : v.done = []) :
    let r := (s1.readDone [x]).vamoOne (x.ok.getD []) (v.src.elem x.el.e).1 (v.src.elem x.el.e).2 op
    let v1 : VPend := { v with done := [{ e := x.el.e, old := r.2.1, bad := r.2.2 }] }
    j.more v1 = true → vamoBegin f code h j op v s = (r.1.noteWrites s1 false f.acq).modCur (fun h => { h with vpend := some v1 }) := by
  intro r v1 more
  have ok : ¬ (x.ok.isNone = true) := by
    rw [Option.isNone_iff_eq_none]
    exact Option.isSome_iff_ne_none.1 good
  have step : vamoStep f h j op v s = (r.1.noteWrites s1 false f.acq).modCur (fun h => { h with vpend := some v1 }) := by
    unfold vamoStep
    rw [next_]
    dsimp only
    rw [if_neg ok, first, List.nil_append, if_pos more]
  unfold vamoBegin
  rw [next_]
  exact (if_neg (Bool.eq_false_iff.1 quiet)).trans step
end

/-- Settles O21: the vector atomics, together and one element after another. -/
theorem vectorAtomics : Obligations.VectorAtomics := by
  intro s s1 s2 h f en ix idx items order cur fresh ne dq iq j heads index numbers width cnt released performs
  have all_ (code : Nat) (i : Instr) (op : Nat → Nat → Nat) (run : exec i s = vamo code f s op) : performs code i op := by
    intro dest
    have starts := vamo_of (code := code) (op := op) cur fresh heads index numbers width cnt released dest
    refine ⟨fun together order_ plan good left ready near => ?_, fun x steps quiet next_ good => ?_⟩
    · exact run.trans (starts.trans (congrArg _ ((if_neg (Bool.eq_false_iff.1 together)).trans (vamoGo_of plan good left ready near order_))))
    · intro r v more
      exact run.trans (starts.trans (congrArg _ ((if_pos steps).trans (vamoBegin_of quiet next_ good rfl more))))
  exact ⟨all_ _ _ _ rfl, all_ _ _ _ rfl, all_ _ _ _ rfl, all_ _ _ _ rfl⟩

end Sys2Proof.Machine
end

section
/-! Acceptance of copy, Catalogue and Folio commands (R112 to R114, R128 to R144). -/
namespace Sys2Proof.Machine
open Sys2Proof

variable {s s1 s2 s3 : State} {h : Hart} {f : LC}

/-! Bytes of a block that lies in this package. -/
theorem block_sound {l : List (Nat × Nat × Nat)} (good : ∀ i < 128, runAt l i < remotePlace ∧ s.badKey (runAt l i) = false) :
    (List.range 128).find? (fun i => decide (runAt l i < remotePlace) && s.badKey (runAt l i)) = none :=
  List.find?_eq_none.2 fun i inside => by
    rw [(good i (List.mem_range.1 inside)).2, Bool.and_false]
    exact Bool.false_ne_true
theorem block_bytes {l : List (Nat × Nat × Nat)} (good : ∀ i < 128, runAt l i < remotePlace ∧ s.badKey (runAt l i) = false) :
    (List.range 128).map (fun i => if runAt l i < remotePlace then s.byte (runAt l i) else Config.remoteByte s.draw (runAt l i - remotePlace)) = (List.range 128).map (fun i => s.byte (runAt l i)) :=
  List.map_congr_left fun i inside => if_pos (good i (List.mem_range.1 inside)).1
theorem block_here {l : List (Nat × Nat × Nat)} (here : ∀ r ∈ l, r.2.1 < remotePlace) : l.any (fun r => decide (remotePlace ≤ r.2.1)) = false :=
  List.any_eq_false.2 fun r inside => by
    rw [decide_eq_false (Nat.not_le.2 (here r inside))]
    exact Bool.false_ne_true

/-! Copy commands (R133, R135). -/
section
variable {kind : Nat} (cur : s.cur = some h)
include cur
theorem copySlot_full (full : 32 ≤ (s.engQ (s.issue.core / 2) (selQueue f)).cmds.length) : copySlot kind f s = .next (s.wrG f.d.toNat 1) := (onHart_of _ cur).trans (congrArg _ (if_pos full))
variable (room : (s.engQ (s.issue.core / 2) (selQueue f)).cmds.length < 32)
include room
theorem copySlot_range (bad : (h.oa f.a.toNat).toNat % 64 ≠ 0 ∨ (copyOf kind f s h).operandsOk = false) : copySlot kind f s = .next (s.wrG f.d.toNat 3) :=
  (onHart_of _ cur).trans (congrArg _ ((if_neg (Nat.not_le.2 room)).trans (if_pos (bad.imp_right fun no => by rw [no]; rfl))))
/-- A copy command whose descriptor and places are at hand joins its queue. -/
theorem copySlot_joins {l : List (Nat × Nat × Nat)} {cw : Nat} {c : CopyCmd} (aligned : (h.oa f.a.toNat).toNat % 64 = 0) (ok : (copyOf kind f s h).operandsOk = true)
    (ready : s.relReady h (copyOf kind f s h).scope = true) (read : s.copyRuns { s.who s.issue.core h with spsize := 0 } .load 3 (h.oa f.a.toNat) 0 128 = (s1, .ok l))
    (word : s1.copyXlate { s.who s.issue.core h with spsize := 0 } (h.oa f.a.toNat) .store = (s2, .ok cw)) (here : ∀ r ∈ l, r.2.1 < remotePlace ∧ s2.placeCut (s.issue.core / 2) r.2.1 = false)
    (good : ∀ i < 128, runAt l i < remotePlace ∧ s2.badKey (runAt l i) = false) {c1 c2 : CopyCmd}
    (first : c1 = { copyOf kind f s h with desc := (List.range 128).map (fun i => s2.byte (runAt l i)), cw := (List.range 8).map (cw + ·) })
    (second : c2 = { c1 with bad := if c1.descOk && s2.coresOk h c1 then none else some 2 }) (bits : c2.k = 0 ∨ c2.fb + c2.chunks ≤ 256)
    (settled : c2.settleBlocks s2 { s.who s.issue.core h with spsize := 0 } (fun p => (((s.gang h.die h.idx).place? p).getD {}).spbase) = (s3, .ok c))
    (routed : ∀ p ∈ c.places ++ c.flag.take 1, s3.unrouted p = false) (near : c.away = false) :
    copySlot kind f s = .next (s3.join (s.issue.core / 2) (selQueue f) f.d.toNat c) := by
  have sound : ¬ ((h.oa f.a.toNat).toNat % 64 ≠ 0 ∨ (!(copyOf kind f s h).operandsOk) = true) := by
    rw [ok]
    rintro (no | no)
    · exact no aligned
    · exact Bool.noConfusion no
  have reached : ¬ (l.any (fun r => s2.unrouted r.2.1 || s2.placeCut (s.issue.core / 2) r.2.1) = true) := by
    intro no
    obtain ⟨r, inside, no⟩ := List.any_eq_true.1 no
    obtain ⟨low, whole⟩ := here r inside
    rw [whole, Bool.or_false, State.unrouted, decide_eq_false (Nat.not_le.2 low)] at no
    exact Bool.noConfusion no
  have free : ¬ (c2.k ≠ 0 ∧ (kind ≠ 1 ∨ c2.bad = none) ∧ 256 < c2.fb + c2.chunks) := by
    rintro ⟨mask, -, long⟩
    rcases bits with none_ | fit
    · exact mask none_
    · exact Nat.not_lt.2 fit long
  have linked : ¬ ((c.places ++ c.flag.take 1).any s3.unrouted = true) := by
    intro no
    obtain ⟨p, inside, no⟩ := List.any_eq_true.1 no
    exact Bool.eq_false_iff.1 (routed p inside) no
  have away : ¬ (c.away = true ∧ c.scope < 4 ∧ (!s3.relReady h 4) = true) := fun no => Bool.eq_false_iff.1 near no.1
  refine (onHart_of _ cur).trans (congrArg _ ((if_neg (Nat.not_le.2 room)).trans ((if_neg sound).trans ((if_neg (by rw [ready]; decide)).trans ?_))))
  dsimp only
  rw [read]
  dsimp only
  rw [word]
  dsimp only
  rw [if_neg reached, block_sound good]
  dsimp only
  rw [block_here fun r inside => (here r inside).1, block_bytes good, Bool.false_and]
  subst first second
  simp only [Bool.false_eq_true, if_false]
  refine (if_neg free).trans ?_
  dsimp only at settled
  rw [settled]
  refine (if_neg linked).trans ((if_neg away).trans ?_)
  rw [near]
  rfl
end

/-- Settles O35: the acceptance of copy commands, and what CPST gives. -/
theorem copyInstructions : Obligations.CopyInstructions := by
  intro s h f cur d n va w base
  refine ⟨fun kind i which => ?_, onHart_of _ cur, fun empty => ?_⟩
  · have run : exec i s = copySlot kind f s := by
      simp only [List.mem_cons, Prod.mk.injEq, List.not_mem_nil, or_false] at which
      rcases which with ⟨rfl, rfl⟩ | ⟨rfl, rfl⟩ | ⟨rfl, rfl⟩ | ⟨rfl, rfl⟩ <;> rfl
    intro c0
    refine ⟨fun full => run.trans (copySlot_full cur full), fun room bad => run.trans (copySlot_range cur room bad), ?_⟩
    intro s1 s2 s3 l cw c room aligned ok ready read word here good c1 c2 bits settled routed near
    exact run.trans (copySlot_joins cur room aligned ok ready read word here good (c1 := c1) (c2 := c2) rfl rfl bits settled routed near)
  · have empty : (s.engQ (s.issue.core / 2) (selQueue f)).cmds = [] := empty
    refine (onHart_of _ cur).trans (congrArg _ ((if_pos (List.isEmpty_iff.2 empty)).trans ?_))
    unfold EngQ.status
    rw [empty]
    rfl

end Sys2Proof.Machine
end

section
/-! Catalogue and Folio commands (R112 to R114, R128, R129). -/
namespace Sys2Proof.Machine
open Sys2Proof

variable {s s1 s2 s3 : State} {h : Hart} {f : LC}

/-! Catalogue commands (R113). -/
/-- The unit of this package that takes a command, or has no room for it. -/
theorem State.catSend_here {c : CatCmd} {pkg unit rd : Nat} (here : pkg = s.hub.pkgid.toNat) (reach : s.reach c.die (unitDie unit) = true) :
    s.catSend c pkg unit rd = if 64 ≤ (s.die (unitDie unit)).cat.length then s.wrG rd 1 else (s.modDie (unitDie unit) (fun x => { x with cat := x.cat ++ [c] })).wrG rd 0 :=
  (if_neg (not_not_intro here)).trans (if_neg (by rw [reach]; decide))
theorem catSlot_of {upd : Bool} {l cw : List (Nat × Nat × Nat)} {c : CatCmd} (cur : s.cur = some h) (aligned : (h.oa f.a.toNat).toNat % 64 = 0)
    (here : tgtPkg (h.og f.s2.toNat) = s.hub.pkgid.toNat) (ready : s.relReady h (max f.sc.toNat 3) = true)
    (read : s.catRows (s.who s.issue.core h) .load (h.oa f.a.toNat) [(0, 128)] = (s1, .ok l)) (word : s1.catRows (s.who s.issue.core h) .store (h.oa f.a.toNat) [(0, 8)] = (s2, .ok cw))
    (good : ∀ i < 128, runAt l i < remotePlace ∧ s2.badKey (runAt l i) = false) (near : ∀ r ∈ l, r.2.1 < remotePlace)
    (fit : ¬ ((h.og f.s1.toNat).toNat = 0 ∨ (if upd then 1024 else 64) < (h.og f.s1.toNat).toNat ∨ 2 ^ 20 ≤ (h.og f.s2.toNat).toNat))
    (settled : ({ upd := upd, die := s.issue.core / 2, ctx := h.ctx, slotNo := tgtSlot (h.og f.s2.toNat), count := (h.og f.s1.toNat).toNat, imm := f.imm.toNat, block := (List.range 128).map (fun i => s2.byte (runAt l i)), cw := (List.range 8).map (runAt cw ·) } : CatCmd).settleBlocks s2 (s.who s.issue.core h) = (s3, .ok c)) :
    catSlot upd f s = .next (s3.catSend c (tgtPkg (h.og f.s2.toNat)) (tgtUnit (h.og f.s2.toNat)) f.d.toNat) := by
  have scope : catScope f (tgtPkg (h.og f.s2.toNat) != s.hub.pkgid.toNat) = max f.sc.toNat 3 := by
    rw [here, bne_self_eq_false]
    exact Nat.max_eq_left (Nat.le_max_right _ _)
  refine (onHart_of _ cur).trans (congrArg _ ((if_neg (not_not_intro aligned)).trans ((if_neg (by rw [scope, ready]; decide)).trans ?_)))
  dsimp only
  rw [read]
  dsimp only
  rw [word]
  dsimp only
  rw [block_sound good]
  dsimp only
  rw [block_here near, block_bytes good]
  simp only [Bool.false_eq_true, if_false]
  rw [settled]
  exact if_neg fit

/-- Settles O36: the acceptance of Catalogue commands. -/
theorem catalogueInstructions : Obligations.CatalogueInstructions := by
  intro s h f upd cur d va n t w u i
  have run : exec i s = catSlot upd f s := by cases upd <;> rfl
  refine ⟨fun bad => run.trans ((onHart_of _ cur).trans (congrArg _ (if_pos bad))), ?_⟩
  intro s1 s2 s3 l cw c aligned here ready read word good near low high target settled same reach
  refine run.trans ((catSlot_of cur aligned here ready read word good near ?_ settled).trans (congrArg _ (State.catSend_here (here.trans (by rw [same])) reach)))
  rintro (none_ | long | far)
  · exact absurd low (by rw [show n = 0 from none_]; decide)
  · exact Nat.not_lt.2 high long
  · exact Nat.not_lt.2 far target

/-! Folio commands that name an address (R128, R129). -/
/-- A Folio command at an address of a Folio window, whose map word nothing holds. -/
theorem folioAt_of {k : Hart → State → Folio → Nat → State} {c1 seg mw : Nat} {fo : Folio} (cur : s.cur = some h) (fence : s.fenceReady h 3 = true)
    (leaf : s.folioLeaf (s.who s.issue.core h) (h.oa f.a.toNat) = (s1, .ok (some (c1, seg)))) (valid : eBit c1 0 = true) (header : (s1.seeFolio c1).folio c1 = .ok fo) (inside : seg < fo.nseg)
    (word : (s1.seeFolio c1).mapKey fo seg ((h.oa f.a.toNat).toNat / 4096 % 16) = some mw) (free : (s1.seeFolio c1).mapBusy fo mw = false) (own : (s1.seeFolio c1).mapOut fo mw = false) :
    folioAt f s k = .next (k h ((s1.seeFolio c1).verify [mw / 64]) fo mw) := by
  refine (onHart_of _ cur).trans (congrArg _ ((if_neg (by rw [fence]; decide)).trans ?_))
  dsimp only
  rw [leaf]
  refine (if_neg (by rw [valid]; decide)).trans ?_
  rw [header]
  refine (if_neg (Nat.not_le.2 inside)).trans ?_
  rw [word]
  exact (if_neg (Bool.eq_false_iff.1 free)).trans (if_neg (Bool.eq_false_iff.1 own))

/-! Folio commands that name a pool index (R129). -/
section
variable {rise : Bool} {k : State → Folio → Nat → Nat → State} (cur : s.cur = some h) (fence : s.fenceReady h 3 = true)
include cur fence
theorem folioPool_none (none_ : (s.seeOwnFolio (s.who s.issue.core h)).ownFolio ((s.seeOwnFolio (s.who s.issue.core h)).who (s.seeOwnFolio (s.who s.issue.core h)).issue.core h) = .ok none) :
    folioPool f s rise k = .next ((s.seeOwnFolio (s.who s.issue.core h)).wrG f.d.toNat 7) := by
  refine (onHart_of _ cur).trans (congrArg _ ((if_neg (by rw [fence]; decide)).trans ?_))
  dsimp only
  rw [none_]
theorem folioPool_of {so : State} {fo : Folio} {key : Nat} (see : so = s.seeOwnFolio (s.who s.issue.core h)) (own : so.ownFolio (so.who so.issue.core h) = .ok (some fo))
    (free : so.poolBusy fo (h.og f.s1.toNat).toNat = false) (entry : so.poolCheck fo (h.og f.s1.toNat).toNat rise = .ok key)
    (room : rise = true ∨ so.dropOut fo (h.og f.s1.toNat).toNat = false) :
    folioPool f s rise k = .next ((k (so.verify [key / 64]) fo (h.og f.s1.toNat).toNat key).wrG f.d.toNat (folStatus 0 (h.og f.s1.toNat).toNat)) := by
  subst see
  have inside : ¬ ((!rise && (s.seeOwnFolio (s.who s.issue.core h)).dropOut fo (h.og f.s1.toNat).toNat) = true) := by
    rcases room with up | own_ <;> simp [*]
  refine (onHart_of _ cur).trans (congrArg _ ((if_neg (by rw [fence]; decide)).trans ?_))
  dsimp only
  rw [own]
  dsimp only
  rw [entry]
  exact (if_neg (Bool.eq_false_iff.1 free)).trans (if_neg inside)
end

/-- Settles O37: the Folio commands of a context that has a Folio, and of one that has none. -/
theorem folioInstructions : Obligations.FolioInstructions := by
  intro s h f cur fence va x w
  refine ⟨?_, ?_⟩
  · intro s1 c1 seg fo mw leaf valid sf sv header inside word free own
    have goes (k : Hart → State → Folio → Nat → State) : folioAt f s k = .next (k h sv fo mw) := folioAt_of cur fence leaf valid header inside word free own
    have maps {t : State} (gives : execFolmap f s = .next t) : exec (.folmap f) s = .next t := gives
    have unmaps {t : State} (gives : execFolmapU f s = .next t) : exec (.folmapU f) s = .next t := gives
    refine ⟨fun k index entry idle => maps ((goes _).trans (congrArg _ ?_)), fun n s2 k pops inside_ popped entry => maps ((goes _).trans (congrArg _ ?_)), unmaps (goes _)⟩
    · refine (if_neg (Bool.eq_false_iff.1 index)).trans ?_
      rw [entry]
      exact if_neg (Bool.eq_false_iff.1 idle)
    · refine (if_pos pops).trans ((if_neg (Bool.eq_false_iff.1 inside_)).trans ?_)
      rw [popped]
      dsimp only
      rw [entry]
  · intro so wo
    have ref {t : State} (gives : execFolref f s = .next t) : exec (.folref f) s = .next t := gives
    have drop {t : State} (gives : execFoldrop f s = .next t) : exec (.foldrop f) s = .next t := gives
    refine ⟨fun fo own free => ⟨fun k entry => ref (folioPool_of cur fence rfl own free entry (Or.inl rfl)), fun k entry room => drop (folioPool_of cur fence rfl own free entry (Or.inr room))⟩,
      fun none_ => ⟨ref (folioPool_none cur fence none_), drop (folioPool_none cur fence none_)⟩⟩

end Sys2Proof.Machine
end
